-- ==== Sys2Proof/Word.lean ====
section
/-! DEFINITION. The few word types of the VT430 that the manual treats as bits (R49, R7, R171),
and the byte of its frames (Table 12-5). Every other quantity is a number. -/

namespace Sys2Proof

/-- One byte of a command frame, response, record or peer frame (Table 12-5). -/
abbrev Byte := BitVec 8

/-- A set over the sixteen signals of the signal vector (00 section 4.5), and the match values over it (R7). -/
abbrev Mask := BitVec 16

/-- A phase: the accumulator, the phase offset and the increment, all modulo 2^32 (R49, R51). -/
abbrev Angle := BitVec 32

/-- A set over the ten notification causes of Table 12-4 (R171). -/
abbrev CauseSet := BitVec 10

/-- An absolute time as one number: seconds times 1,000,000 plus microseconds (00 section 4.2). -/
abbrev AbsTime := Nat

end Sys2Proof
end

