-- ==== Sys2Proof/Syntax.lean ====
section
/-! DEFINITION. The commands and events of the VT430: one constructor of `Instr` for each row of the
opcode table, with the row's operands. Port commands carry their frame parameters as numbers,
before any check, so that every refusal the spec gives can be reached. -/

namespace Sys2Proof

/-- The two command ports (00 section 1.3). -/
inductive Port where
  | sequence | panel
deriving DecidableEq, Repr

/-- One value for each port. -/
structure PerPort (α : Type) where
  sequence : α
  panel    : α
deriving DecidableEq, Repr

/-- The seven analog channels, in the order of 00 section 4.3. -/
inductive Channel where
  | va | vb | vc | vx | ia | ib | ic
deriving DecidableEq, Repr

/-- One value for each channel, in channel order. -/
structure PerChannel (α : Type) where
  va : α
  vb : α
  vc : α
  vx : α
  ia : α
  ib : α
  ic : α
deriving DecidableEq, Repr

/-- The three simulated poles (R87). -/
inductive Pole where
  | a | b | c
deriving DecidableEq, Repr

/-- One value for each pole. -/
structure PerPole (α : Type) where
  a : α
  b : α
  c : α
deriving DecidableEq, Repr

/-- What an amplifier returns for a channel (R70). -/
inductive AmpStatus where
  | ok | overload | overtemp
deriving DecidableEq, Repr

/-- The E-STOP line (Table 11-1). -/
inductive EStopLevel where
  | asserted | released
deriving DecidableEq, Repr

/-- Roles of a binary input (Table 4-1). -/
inductive InputRole where
  | general | tripA | tripB | tripC | trip3P | close | carrierSend
deriving DecidableEq, Repr

/-- Why a state entry is made (R30). Condition i of the list is index i, counted from 0. -/
inductive EntryCause where
  | start
  | condition (i : Fin 4)
  | timeout
deriving DecidableEq, Repr

/-- The abort causes, in the order of Table 11-2. -/
inductive AbortCause where
  | aborted | guardExpired | overtemp | peerAbort | peerLost | shotLimit | timeLost | peerRefused
  | eStop | overload | disconnected
deriving DecidableEq, Repr

/-- An end cause: COMPLETED or an abort cause (R113 note 2). -/
inductive EndCause where
  | completed
  | abort (c : AbortCause)
deriving DecidableEq, Repr

/-- Reasons of a START_REJECT, in the order of Table 9-3. -/
inductive RejectReason where
  | alreadyAgreed | notArmed | notLocked | tooLate
deriving DecidableEq, Repr

/-- A channel entry of a written record, before any check (Table 12-6). -/
structure RawChannel where
  amplitude : Nat
  phase     : Int
  frequency : Nat
  offsetTau : Nat
  link      : Nat
deriving DecidableEq, Repr

/-- A condition of a written record, before any check (Table 12-6). -/
structure RawCondition where
  enable : Mask
  value  : Mask
  hold   : Nat
  next   : Nat
deriving DecidableEq, Repr

/-- The ramp fields of a written record, before any check (Table 12-6). -/
structure RawRamp where
  target   : Nat
  quantity : Nat
  start    : Int
  step     : Int
  limit    : Int
  dwell    : Nat
  stopMask : Mask
deriving DecidableEq, Repr

/-- An assessment of a written record, before any check (Table 12-6). -/
structure RawAssessment where
  mask        : Mask
  expectation : Nat
  nominal     : Nat
  tolAbs      : Nat
  permille    : Nat
deriving DecidableEq, Repr

/-- An output action of a written record, before any check (Table 12-6). -/
structure RawAction where
  output : Nat
  level  : Nat
  delay  : Nat
  once   : Bool
deriving DecidableEq, Repr

/-- A complete record as WRITE_STATE carries it, before any check (R11, Table 12-6).
Each list has its four places; the counts say how many of them are looked at. -/
structure RawRecord where
  duration         : Nat
  timeoutNext      : Nat
  tpBlocked        : Bool
  inceptionPresent : Bool
  rampPresent      : Bool
  channels         : PerChannel RawChannel
  inceptionRef     : Nat
  inceptionAngle   : Int
  conditionCount   : Nat
  conditions       : List RawCondition
  ramp             : RawRamp
  assessmentCount  : Nat
  assessments      : List RawAssessment
  actionCount      : Nat
  actions          : List RawAction
deriving DecidableEq, Repr

/-- The commands and events of the part, one constructor for each row of the opcode table. -/
inductive Instr where
  /-- POWER_ON: the E-STOP level found on the line (R2, R163). -/
  | powerOn (level : EStopLevel)
  /-- BAD_FRAME (R169). -/
  | badFrame (p : Port)
  /-- UNKNOWN (R169). -/
  | unknown (p : Port)
  /-- GET_STATUS with a section code (R170). -/
  | getStatus (p : Port) (sect : Nat)
  /-- CONFIG_CHANNEL (R17). -/
  | configChannel (p : Port) (channel range trim link : Nat)
  /-- CONFIG_INPUT (R79). -/
  | configInput (p : Port) (input polarity debounce role : Nat)
  /-- CONFIG_OUTPUT (R81). -/
  | configOutput (p : Port) (output role : Nat)
  /-- CONFIG_BREAKER (R102). -/
  | configBreaker (p : Port) (setting tripTime closeTime : Nat)
  /-- CONFIG_TELEPROTECTION (R151). -/
  | configTeleprotection (p : Port) (source delay : Nat)
  /-- WRITE_STATE (R11). -/
  | writeState (p : Port) (index expected : Nat) (record : RawRecord)
  /-- WRITE_BALANCED (R13). -/
  | writeBalanced (p : Port) (index expected group amplitude frequency : Nat) (angle : Int) (order : Nat)
  /-- READ_STATE (R15). -/
  | readState (p : Port) (index selector : Nat)
  /-- ERASE_STATE (R16). -/
  | eraseState (p : Port) (index : Nat)
  /-- HOLD (R160). -/
  | hold (p : Port)
  /-- RELEASE (R160). -/
  | release (p : Port)
  /-- SET_AUTHORITY (R157). -/
  | setAuthority (p : Port) (value : Nat)
  /-- ARM: first state, start mode with its parameters, peer-linked flag, guard period in ms,
  initial position (R23). -/
  | arm (p : Port) (first mode : Nat) (mask value : Mask) (startTime : AbsTime) (peer period initial : Nat)
  /-- START (R25). -/
  | start (p : Port)
  /-- ABORT with its option code (R42). -/
  | abort (p : Port) (option : Nat)
  /-- ADJUST (R59). -/
  | adjust (p : Port) (target quantity mode : Nat) (value : Int)
  /-- SET_OUTPUT (R82). -/
  | setOutput (p : Port) (setMask clearMask : Nat)
  /-- SET_TIME (R130). -/
  | setTime (p : Port) (seconds : Nat)
  /-- DRAIN_ENABLE (R126). -/
  | drainEnable (p : Port) (selector : Nat)
  /-- READ_PAGE (R123). -/
  | readPage (p : Port) (page first : Nat)
  /-- RELEASE_PAGE (R124). -/
  | releasePage (p : Port) (page : Nat)
  /-- NOTIFY_ENABLE (R172). -/
  | notifyEnable (p : Port) (selector : Nat) (causes : Mask)
  /-- NOTIFY_ACK (R173). -/
  | notifyAck (p : Port) (causes : Mask)
  /-- SOFT_RESET (R174). -/
  | softReset (p : Port)
  /-- E_STOP_ASSERTED (R166). -/
  | eStopAsserted
  /-- E_STOP_RELEASED (R166). -/
  | eStopReleased
  /-- ACCEPTED_CHANGE of one input (R76). -/
  | acceptedChange (input : Fin 12)
  /-- SAMPLE_BOUNDARY (R53). -/
  | sampleBoundary
  /-- AMPLIFIER_RETURN (R70). -/
  | amplifierReturn (channel : Channel) (status : AmpStatus)
  /-- RAMP_STEP (R62). -/
  | rampStep
  /-- FIRST_ENTRY (R28). -/
  | firstEntry
  /-- STATE_ENTRY (R30). -/
  | stateEntry
  /-- STATE_TIMEOUT (R32). -/
  | stateTimeout
  /-- EXIT_TO_END (R36). -/
  | exitToEnd
  /-- SHOT_LIMIT (R36). -/
  | shotLimit
  /-- RAMP_DOWN_START (R37). -/
  | rampDownStart
  /-- RAMP_DOWN_END (R65). -/
  | rampDownEnd
  /-- CLOSING_LINGER_END (R44). -/
  | closingLingerEnd
  /-- OPENING_ACTION_DUE (R92). -/
  | openingActionDue (pole : Pole)
  /-- CLOSE_ACTION_DUE (R93). -/
  | closeActionDue (pole : Pole)
  /-- FORCED_LIMIT (R96). -/
  | forcedLimit (pole : Pole)
  /-- CONDITION_ACTION_DUE (R32). -/
  | conditionActionDue (index : Fin 4)
  /-- STATE_OUTPUT_DUE (R84). -/
  | stateOutputDue
  /-- TP_EDGE_DUE (R153). -/
  | tpEdgeDue
  /-- KEEPALIVE_EXPIRY (R165). -/
  | keepaliveExpiry
  /-- FLUSH_TIMER_EXPIRY of one drain channel (R121). -/
  | flushTimerExpiry (p : Port)
  /-- PPS_EDGE (R131). -/
  | ppsEdge
  /-- SLEW_POINT (R134). -/
  | slewPoint
  /-- PPS_TIMEOUT (R135). -/
  | ppsTimeout
  /-- HOLDOVER_TIMEOUT (R135). -/
  | holdoverTimeout
  /-- SEND_TIMER_EXPIRY (R143). -/
  | sendTimerExpiry
  /-- LOSS_TIMER_EXPIRY (R144). -/
  | lossTimerExpiry
  /-- INVALID_PEER_FRAME (R143). -/
  | invalidPeerFrame
  /-- HELLO received (R144). -/
  | hello (version : Byte) (tag : BitVec 64) (heard : Bool)
  /-- KEEPALIVE received (R144). -/
  | keepalive
  /-- START_PROPOSE received (R147). -/
  | startPropose (startTime : AbsTime)
  /-- START_ACCEPT received (R146). -/
  | startAccept (startTime : AbsTime)
  /-- START_REJECT received (R146). -/
  | startReject (startTime : AbsTime) (reason : RejectReason)
  /-- ACCEPT_DEADLINE (R146). -/
  | acceptDeadline
  /-- EVENT received (R150). -/
  | eventFrame (input : Nat) (role : InputRole) (level : Bool) (eventTime : AbsTime) (shot carrier : Bool)
  /-- STATE received (R148). -/
  | stateFrame (state : Nat) (cause : EntryCause) (entryTime : AbsTime)
  /-- ABORT received (R148). -/
  | abortFrame (cause : AbortCause)
  /-- END received (R148). -/
  | endFrame (cause : EndCause)
  /-- INPUT_SAMPLE with the twelve pin levels found, bit n for BI(n+1) (R72). -/
  | inputSample (pins : BitVec 12)
deriving DecidableEq, Repr

end Sys2Proof
end

