-- ==== Sys2Proof/Decode.lean ====
section
/-! DEFINITION. The decoder over the rows of the opcode table that give bits. No row of this table
gives any (spec/opcode_table.json: "fields": [] in all 68 rows), so no word spells a command. The
frames by which commands reach the ports are read in Machine/Frames.lean. -/

namespace Sys2Proof

/-- The command that the word `w` of `nbits` bits spells by the table's bits: none, since no row of
the table gives bits. -/
def decodeTableWord (_nbits _w : Nat) : Option Instr := none

end Sys2Proof
end

