-- ==== Sys2Proof/Config.lean ====
section
/-! DEFINITION. What one unit fixes, and the free values that the manual leaves open. Nothing here
has a body: no proof can see a value. -/

namespace Sys2Proof

/-- The part's own protocol version, compared with that of each HELLO (R143).
DESIGN CHOICE: the manual gives no value (log 7). Safe. -/
opaque Config.protocolVersion : Byte

/-- The serial tag that this unit puts in its HELLO frames (Table 12-8).
DESIGN CHOICE: the manual gives no value (log 7). Safe. -/
opaque Config.serialTag : BitVec 64

/-- A free choice between orders that the manual leaves open, read with a counter of State
(`State.freeUsed`): which of several events due at one instant is taken first (R41, R140), and where
a NO_PICKUP record stands among the ASSESSMENT records of its visit (R108).
DESIGN CHOICE of form (logs 3 and 14). Safe. -/
opaque Config.freeOrder : Nat → Nat

/-- Whether a flush expiry of a port is taken before the next event of its instant, where R122 lets either be
first; read with a counter of State (`State.freeUsed`).
DESIGN CHOICE of form (log 3). Safe. -/
opaque Config.freeExpiry : Nat → Port → Bool

/-- The shot time of a remote instant that lies further after the first entry than 32 bits can say, read
with a counter of State (`State.freeUsed`): R150 gives a difference that the field of R110 cannot hold.
DESIGN CHOICE of form (log 37). Safe. -/
opaque Config.freeShotTime : Nat → BitVec 32

end Sys2Proof
end

