-- ==== Sys2Proof/Machine/Numeric.lean ====
section
/-! DEFINITION. The arithmetic of chapter 3: the rounding rule, peak codes, increments, phase offsets,
the sine table, the AC sample, the decay of an offset term, and angles that wrap. Everything is exact
in Nat and Int and narrowed at the end; the sine and the exponential are summed as series in units of
2^-96, far finer than the rounding that the manual asks for. -/

namespace Sys2Proof.Machine

/-- `n / d` rounded to the nearest integer, halves upward (section 3.2, for `n` not negative). -/
def roundDiv (n d : Nat) : Nat := (2 * n + d) / (2 * d)

/-- The peak code of an amplitude on a range with a trim (R50). -/
def peakCode (amplitude range trim : Nat) : Nat := roundDiv (amplitude * 32767 * trim) (range * 32768)

/-- The increment of a frequency in mHz (R51). -/
def incrementOf (frequency : Nat) : Angle := BitVec.ofNat 32 (roundDiv (frequency * 2 ^ 32) 10000000)

/-- The phase offset, or angle code, of an angle in centidegrees: rounded with halves away from zero,
and a negative result taken modulo 2^32 (R51). -/
def angleCode (angle : Int) : Angle :=
  if 0 ≤ angle then BitVec.ofNat 32 (roundDiv (angle.toNat * 2 ^ 32) 36000)
  else - BitVec.ofNat 32 (roundDiv ((-angle).toNat * 2 ^ 32) 36000)

/-- An angle brought into -18,000 to +17,999 by multiples of 36,000 (R13, R60). -/
def wrapAngle (angle : Int) : Int := (angle + 18000) % 36000 - 18000

/-- The unit of the series below. -/
def seriesUnit : Nat := 2 ^ 96

/-- π in units of 2^-96. -/
def piSeries : Nat := 248902613312231085230521944622

/-- The alternating sum t - t·x²/((n+1)(n+2)) + ..., with `x2` and `t` in series units. -/
def sineSeries (x2 : Int) : Nat → Nat → Int → Int
  | 0, _, _ => 0
  | fuel + 1, n, t => t - sineSeries x2 fuel (n + 2) (t * x2 / seriesUnit / ((n + 1) * (n + 2) : Nat))

/-- round(32,767 × sin(2πk / 4,096)) for `k` from 0 to 1,024 (R52). -/
def sineQuarter (k : Nat) : Int :=
  let x : Int := (piSeries * k / 2048 : Nat)
  (32767 * sineSeries (x * x / seriesUnit) 16 1 x + (seriesUnit / 2 : Nat)) / seriesUnit

/-- Entry `k` of the sine table, for `k` from 0 to 4,095 (R52, Table 3-3). -/
def sineEntry (k : Nat) : Int :=
  if k < 1024 then sineQuarter k
  else if k < 2048 then sineQuarter (2048 - k)
  else if k < 3072 then - sineQuarter (k - 2048)
  else - sineQuarter (4096 - k)

/-- The table index: the top 12 bits of the running phase (R52). -/
def tableIndex (running : Angle) : Nat := running.toNat / 1048576

/-- The AC sample of a peak code at a running phase (R52). -/
def acSample (peak : Nat) (running : Angle) : Int :=
  (peak * sineEntry (tableIndex running) + 16384) / 32768

/-- A sum brought into -32,767 to +32,767 (R53). -/
def clampCode (v : Int) : Int := if 32767 < v then 32767 else if v < -32767 then -32767 else v

/-- The sum e^(-1/τ) = 1 - 1/τ + 1/(2τ²) - ..., in series units. -/
def decaySeries (tau : Nat) : Nat → Nat → Int → Int
  | 0, _, _ => 0
  | fuel + 1, n, t => t - decaySeries tau fuel (n + 1) (t / (tau * (n + 1) : Nat))

/-- The decay factor of an offset time constant: round(65,536 × e^(-1/τ)), at most 65,535, and 0 for
τ = 0 (R57). -/
def decayFactor (tau : Nat) : Nat :=
  if tau = 0 then 0
  else min 65535
    ((65536 * decaySeries tau 32 0 seriesUnit + (seriesUnit / 2 : Nat)) / seriesUnit).toNat

/-- The offset term for the next boundary: floor(|O| × factor / 65,536) with the sign of O (R58). -/
def decayOffset (offset : Int) (factor : Nat) : Int :=
  if 0 ≤ offset then (offset.toNat * factor / 65536 : Nat)
  else - (((-offset).toNat * factor / 65536 : Nat) : Int)

/-- The peak code of ramp-down sample `n`, from 1 to 200 (R65). -/
def rampDownPeak (peak n : Nat) : Nat := peak * (200 - n) / 200

/-- The running phase has reached an angle: less the angle's code, modulo 2^32, it lies below one
increment (R34). -/
def phaseReached (running increment : Angle) (angle : Int) : Bool :=
  decide ((running - angleCode angle).toNat < increment.toNat)

/-- The current-zero test of a formed sample against the last sample (R67). -/
def passesZero (y last : Int) : Bool :=
  decide (y = 0 ∨ (0 < y ∧ last < 0) ∨ (y < 0 ∧ 0 < last))

end Sys2Proof.Machine
end

