-- ==== Sys2Proof/Machine/State.lean ====
section
/-! DEFINITION. Everything the manual gives the VT430 to hold, block by block (00 section 2.1), as
plain data, with its value at power-on; the faults and refusals of a step; and the queue of the
commands that wait. Times are local time (R129) unless a field says otherwise. -/

namespace Sys2Proof.Machine

/-! ### The Program Store (chapter 1) -/

/-- A next-state field: a state or END (Table 1-1). -/
inductive Next where
  | state (i : Fin 32)
  | finish
deriving DecidableEq, Repr

/-- The breaker_link field of a channel entry (Table 1-1, code 8). -/
inductive BreakerLink where
  | configured
  | pole (p : Pole)
  | none
deriving DecidableEq, Repr

/-- The two phase groups (00 section 4.3). -/
inductive PhaseGroup where
  | v | i
deriving DecidableEq, Repr

/-- A target: a channel or a phase group (00 section 4.3, note 2). -/
inductive Target where
  | channel (c : Channel)
  | group (g : PhaseGroup)
deriving DecidableEq, Repr

/-- The quantities a ramp or ADJUST changes (Table 1-1, code 15). -/
inductive Quantity where
  | amplitude | phase | frequency
deriving DecidableEq, Repr

/-- The expectation of an assessment (Table 1-1, code 23). -/
inductive Expectation where
  | mustTrip | mustNotTrip
deriving DecidableEq, Repr

/-- A channel entry of a record (R5). -/
structure ChannelEntry where
  amplitude : Nat
  phase     : Int
  frequency : Nat
  offsetTau : Nat
  link      : BreakerLink
deriving DecidableEq, Repr

/-- The optional inception of a record (R6). -/
structure Inception where
  reference : Channel
  angle     : Int
deriving DecidableEq, Repr

/-- An exit condition (R7); `value` is the match value. -/
structure Condition where
  enable : Mask
  value  : Mask
  hold   : Nat
  next   : Next
deriving DecidableEq, Repr

/-- The optional ramp of a record (R8). -/
structure Ramp where
  target   : Target
  quantity : Quantity
  start    : Int
  step     : Int
  limit    : Int
  dwell    : Nat
  stopMask : Mask
deriving DecidableEq, Repr

/-- An assessment entry (R9). -/
structure Assessment where
  mask        : Mask
  expectation : Expectation
  nominal     : Nat
  tolAbs      : Nat
  permille    : Nat
deriving DecidableEq, Repr

/-- An output action (R10); output index 0 is BO1. -/
structure OutputAction where
  output : Fin 4
  level  : Bool
  delay  : Nat
  once   : Bool
deriving DecidableEq, Repr

/-- A defined state record (R3). -/
structure StateRecord where
  duration    : Nat
  timeoutNext : Next
  tpBlocked   : Bool
  channels    : PerChannel ChannelEntry
  inception   : Option Inception
  conditions  : List Condition
  ramp        : Option Ramp
  assessments : List Assessment
  actions     : List OutputAction
deriving DecidableEq, Repr

/-- A record slot (R1). -/
structure Slot where
  active   : Option StateRecord
  staged   : Option (Port × StateRecord)
  revision : Nat
deriving DecidableEq, Repr

/-- The configuration of one channel (Table 1-5). -/
structure ChannelConfig where
  range : Nat
  trim  : Nat
  link  : Option Pole
deriving DecidableEq, Repr

/-- The Program Store: 32 slots and the channel configuration (section 1.1). -/
structure ProgramStore where
  slots  : Vector Slot 32
  config : PerChannel ChannelConfig
deriving DecidableEq, Repr

/-! ### Edit Control (chapter 10) -/

/-- The authority (R155). -/
inductive Authority where
  | shared | local_ | remote
deriving DecidableEq, Repr

/-- Edit Control (R155). -/
structure EditControl where
  authority : Authority
  hold      : PerPort Bool
deriving DecidableEq, Repr

/-! ### The Shot Sequencer (chapter 2) -/

/-- Shot phases (Table 2-1). -/
inductive Phase where
  | idle | armed | running | rampingDown | closing
deriving DecidableEq, Repr

/-- Start modes with their parameters (Table 2-2). -/
inductive StartMode where
  | immediate
  | onCommand
  | onInput (mask value : Mask)
  | atTime (t : AbsTime)
  | peer
deriving DecidableEq, Repr

/-- An exit condition of the current visit: its truth and, once its action has fallen due, the
boundary it is a candidate for (R31, R32). -/
structure CondState where
  condition : Condition
  truth     : Bool
  candidate : Option Nat
deriving DecidableEq, Repr

/-- The visit in progress: the state, its entry boundary in local and absolute time, the record as
the entry read it, the conditions and the boundary of the timeout (R30 to R32). -/
structure Visit where
  state      : Fin 32
  entry      : Nat
  entryAbs   : AbsTime
  record     : StateRecord
  conditions : List CondState
  timeoutAt  : Option Nat
deriving DecidableEq, Repr

/-- The chosen transition (Table 2-2), with the inception that its entry waits for, read when the
transition was chosen (R34, R162). -/
structure Chosen where
  target    : Next
  cause     : EntryCause
  boundary  : Nat
  inception : Option Inception
deriving DecidableEq, Repr

/-- The last state entered and its entry time, in shot time and absolute time (R46). -/
structure LastEntry where
  state     : Fin 32
  entryShot : Nat
  entryAbs  : AbsTime
deriving DecidableEq, Repr

/-- The Shot Sequencer (Table 2-2), with the instants that its rules fix: the boundary of the first
entry (R25, R26), the first entry itself (the zero of shot time, R129), the boundary at which a soft
abort ends the visit (R37), the start of RAMPING_DOWN (R37) and of CLOSING (R44). -/
structure Sequencer where
  phase         : Phase
  shotNumber    : Nat
  armingPort    : Option Port
  mode          : Option StartMode
  peerLinked    : Bool
  firstState    : Option (Fin 32)
  startTime     : Option AbsTime
  startBoundary : Option Nat
  firstEntryAt  : Option Nat
  visit         : Option Visit
  chosen        : Option Chosen
  deferring     : Bool
  softEnd       : Option Nat
  rampDownAt    : Option Nat
  closingAt     : Option Nat
  endAtExit     : Bool
  endCause      : Option EndCause
  secondary     : Option AbortCause
  visitCounts   : Vector Nat 32
  lastEntry     : Option LastEntry
deriving DecidableEq, Repr

/-! ### The Waveform Synthesizer and the Amplifier Link (chapter 3) -/

/-- The silencing state of a channel (Table 3-1). -/
inductive Silencing where
  | conducting | interrupting | silenced
deriving DecidableEq, Repr

/-- One channel of the synthesizer (Table 3-1). `acc` is the accumulator value for the next sample to
be formed (R49). `resuming` marks a SILENCED channel whose pole has closed and whose resumption
boundary is still to come (R67). -/
structure SynthChannel where
  acc          : Angle
  amplitude    : Nat
  phase        : Int
  frequency    : Nat
  peak         : Nat
  increment    : Angle
  phaseOffset  : Angle
  offset       : Int
  decay        : Nat
  last         : Int
  silencing    : Silencing
  link         : Option Pole
  clip         : Bool
  clipRecorded : Bool
  resuming     : Bool
deriving DecidableEq, Repr

/-- The state of the ramp context (R61). -/
inductive RampState where
  | none | stepping | atLimit | frozen
deriving DecidableEq, Repr

/-- The ramp context (R61): the ramp of the record, its present value, its state, the index of the
next step, and the entry boundary that the steps count from. -/
structure RampContext where
  ramp     : Option Ramp
  value    : Int
  state    : RampState
  nextStep : Nat
  entry    : Nat
deriving DecidableEq, Repr

/-- The Waveform Synthesizer (R48). -/
structure Synthesizer where
  channels : PerChannel SynthChannel
  ramp     : RampContext
deriving DecidableEq, Repr

/-- One subframe of the amplifier frame (R69). -/
structure Subframe where
  code  : Int
  valid : Bool
  mute  : Bool
deriving DecidableEq, Repr

/-- One channel of the Amplifier Link (R70). `returned` says that the return for the frame sent last
has been taken. -/
structure AmpChannel where
  status   : AmpStatus
  overload : Nat
  missing  : Nat
  returned : Bool
deriving DecidableEq, Repr

/-- The Amplifier Link: the outgoing frame and the returns (R69, R70). -/
structure AmplifierLink where
  frame    : PerChannel Subframe
  channels : PerChannel AmpChannel
deriving DecidableEq, Repr

/-! ### The Input Timer (chapter 4) -/

/-- Polarity of an input (Table 4-1). -/
inductive Polarity where
  | normal | inverted
deriving DecidableEq, Repr

/-- An instant on both scales: local time, and the time of day as it ran then (R129). -/
structure Moment where
  at_ : Nat
  abs : AbsTime
deriving DecidableEq, Repr

/-- One binary input (Table 4-1). The candidate start keeps the instant of the first sample of its run on both
scales, so that an absolute event time is the time of day of that sample, whatever an edge has done to the
counter or to the seconds since (R72; 00 section 4.2). `ready` says that the candidate has reached its count at the sample
just taken, so that its acceptance is due (R72, R76). -/
structure Input where
  polarity   : Polarity
  debounce   : Nat
  role       : InputRole
  level      : Bool
  candidate  : Option Moment
  count      : Nat
  ready      : Bool
  lastChange : Option AbsTime
deriving DecidableEq, Repr

/-- The inputs, the levels standing at their pins, and whether the first sample since power-on has
been taken (R71). -/
structure InputTimer where
  inputs  : Vector Input 12
  pins    : BitVec 12
  sampled : Bool
deriving DecidableEq, Repr

/-- Output roles (Table 4-3). -/
inductive OutputRole where
  | none | aux52A | aux52B | tpReceive | stateDriven | manual
deriving DecidableEq, Repr

/-- One binary output (R80). -/
structure Output where
  role  : OutputRole
  level : Bool
deriving DecidableEq, Repr

/-! ### The Breaker Model (chapter 5) -/

/-- Pole positions (Table 5-2). -/
inductive Position where
  | closed | opening | opened | closing
deriving DecidableEq, Repr

/-- The interruption of a pole (Table 5-2). -/
inductive Interruption where
  | none | inProgress | complete
deriving DecidableEq, Repr

/-- One pole (Table 5-2). Its pending action is its entry of the Timed Action List. -/
structure PoleState where
  position     : Position
  interruption : Interruption
  start        : Option Nat
  openSignal   : Bool
deriving DecidableEq, Repr

/-- The Breaker Model (R87). -/
structure Breaker where
  enabled   : Bool
  tripTime  : Nat
  closeTime : Nat
  poles     : PerPole PoleState
deriving DecidableEq, Repr

/-! ### The Assessment Unit and the Report Log (chapter 6) -/

/-- A capture (R103). The capture time is a shot time. -/
inductive Capture where
  | waiting
  | captured (t : Nat)
  | alreadyActive
deriving DecidableEq, Repr

/-- One assessment of the context: the entry as read, and its capture (R103). -/
structure Capturing where
  assessment : Assessment
  capture    : Capture
deriving DecidableEq, Repr

/-- The assessment context: state and entry time of the visit, in shot time, and the captures (R103). -/
structure AssessContext where
  state    : Fin 32
  entry    : Nat
  captures : List Capturing
deriving DecidableEq, Repr

/-- Verdicts, in the order of the verdict counts (R113 note 4). -/
inductive Verdict where
  | pass | early | late | noTrip | unexpected | alreadyActive | aborted
deriving DecidableEq, Repr

/-- The seven verdict counts, each 0 to 15 (R115). -/
structure VerdictCounts where
  pass          : Nat
  early         : Nat
  late          : Nat
  noTrip        : Nat
  unexpected    : Nat
  alreadyActive : Nat
  aborted       : Nat
deriving DecidableEq, Repr

/-- Lock states of the Time Base (Table 8-2). -/
inductive LockState where
  | free | locking | locked | holdover
deriving DecidableEq, Repr

/-- Time quality of a shot (Table 8-1). -/
inductive Quality where
  | good | degraded
deriving DecidableEq, Repr

/-- OUTPUT_CHANGE sources (Table 4-4). -/
inductive OutputSource where
  | sequence | panel | state | close | breaker | teleprotection
deriving DecidableEq, Repr

/-- BREAKER_OP outcomes (Table 5-5). -/
inductive BreakerOutcome where
  | opened | closed | refused
deriving DecidableEq, Repr

/-- TP_EVENT kinds (R152, R154). -/
inductive TpEventKind where
  | late | dropped | resync
deriving DecidableEq, Repr

/-- The record kinds with their fields and their own flag (Tables 6-3 and 6-4). -/
inductive RecordBody where
  | shotStart (port : Port) (mode : StartMode) (quality : LockState) (startTime : Option AbsTime)
  | stateEntry (state : Fin 32) (cause : EntryCause) (inceptionDeferred : Bool)
  | inputChange (input : Nat) (level : Bool) (remote : Bool) (eventTime : AbsTime)
  | outputChange (output : Fin 4) (level : Bool) (source : OutputSource)
  | breakerOp (pole : Pole) (outcome : BreakerOutcome) (delayedZero : Bool)
  | assessment (state : Fin 32) (entryIndex : Nat) (verdict : Verdict) (measured : Option Nat)
      (windowLow windowHigh : Nat)
  | rampResult (state : Fin 32) (target : Target) (quantity : Quantity) (value : Option Int)
  | adjust (target : Target) (quantity : Quantity) (value : Int) (port : Port)
  | clip (channel : Channel) (state : Fin 32)
  | tpEvent (kind : TpEventKind)
  | abort (cause : AbortCause) (atStateEnd : Bool)
  | shotEnd (endCause : EndCause) (secondary : Option AbortCause) (lost : Nat) (saturated : Bool)
      (clipMask : PerChannel Bool) (verdicts : VerdictCounts) (quality : Quality)
deriving DecidableEq, Repr

/-- A report record: its header and its body (R110, R113). RAMP_RESULT has outcome PICKUP exactly
when its value is present (Table 3-6). -/
structure LogRecord where
  shot     : Nat
  time     : Nat
  degraded : Bool
  body     : RecordBody
deriving DecidableEq, Repr

/-- The Report Log (R109). `records` are those held, oldest first; `freed` counts the records freed
since the log was last emptied, so that the oldest position is slot `freed % 1024` and the write
position slot `(freed + records.length) % 1024` (log 11). -/
structure ReportLog where
  records     : List LogRecord
  freed       : Nat
  reservation : Nat
  lost        : Nat
  saturated   : Bool
  verdicts    : VerdictCounts
deriving DecidableEq, Repr

/-! ### Drain channels (chapter 7) -/

/-- Who owns a page (Table 7-1). -/
inductive Owner where
  | part | port
deriving DecidableEq, Repr

/-- Page names, and the toggle (Table 7-1). -/
inductive PageName where
  | x | y
deriving DecidableEq, Repr

/-- Handover causes (Table 7-2). -/
inductive HandoverCause where
  | pageFull | flush | shotEnd
deriving DecidableEq, Repr

/-- A drain page (Table 7-1). -/
structure Page where
  owner   : Owner
  records : List LogRecord
  number  : Nat
  cause   : Option HandoverCause
deriving DecidableEq, Repr

/-- A drain channel (Table 7-1). The positions count records since the log was last emptied, as
`ReportLog.freed` does, and are absent while the channel is disabled (note 2). -/
structure Drain where
  enabled     : Bool
  copyPos     : Option Nat
  consumedPos : Option Nat
  x           : Page
  y           : Page
  toggle      : PageName
  flush       : Option Nat
  count       : Nat
deriving DecidableEq, Repr

/-! ### The Time Base and the Timed Action List (chapter 8) -/

/-- The correction to be made at the slew point (Table 8-1). -/
inductive Slew where
  | none | insert | drop
deriving DecidableEq, Repr

/-- The Time Base (Table 8-1). `armedLocked` says that the shot was armed in LOCKED (R136).
`nextSecond` is the number that an edge taken with a negative error has given to the second after
the coming wrap (R130). Three fields say what has been taken at the present counter value: the
sequencer's choice at this boundary (R41), the samples of this boundary (R53) and the input samples
(R72). `endFixed` says that the end of the visit stood fixed for this boundary when the counter reached
it (R84). -/
structure TimeBase where
  counter        : Nat
  seconds        : Nat
  localTime      : Nat
  loaded         : Option Nat
  lock           : LockState
  good           : Nat
  lastEdge       : Option Nat
  lastError      : Int
  slew           : Slew
  quality        : Quality
  degraded       : Bool
  armedLocked    : Bool
  nextSecond     : Option Nat
  boundaryPassed : Bool
  sampleDone     : Bool
  inputsDone     : Bool
  endFixed       : Bool
deriving DecidableEq, Repr

/-- The operation of a pole action (R91). -/
inductive PoleOp where
  | opening | closing
deriving DecidableEq, Repr

/-- Kind, target and content of a timed action (R138). -/
inductive Work where
  | pole (p : Pole) (op : PoleOp)
  | condition (i : Fin 4)
  | stateOutput (output : Fin 4) (level : Bool)
  | tpEdge (level : Bool)
deriving DecidableEq, Repr

/-- An entry of the Timed Action List (R138). `owner` is the entry boundary of the owning visit. -/
structure TimedAction where
  due       : Nat
  insertion : Nat
  work      : Work
  owner     : Option Nat
deriving DecidableEq, Repr

/-- The Timed Action List, in list order, and the insertion number to be given next (R138). -/
structure TimedList where
  entries : List TimedAction
  next    : Nat
deriving DecidableEq, Repr

/-! ### The Peer Link Controller (chapter 9) -/

/-- Link states (Table 9-1). -/
inductive LinkState where
  | down | linking | up
deriving DecidableEq, Repr

/-- Agreement states (Table 9-1). -/
inductive Agreement where
  | none | proposing | waiting | agreed
deriving DecidableEq, Repr

/-- The far state (R148); its entry time is a shot time. -/
structure FarState where
  state     : Nat
  cause     : EntryCause
  entryShot : Nat
deriving DecidableEq, Repr

/-- A frame sent to the far end (Table 9-2). -/
inductive PeerFrame where
  | hello (version : Byte) (tag : BitVec 64) (heard : Bool)
  | keepalive
  | startPropose (t : AbsTime)
  | startAccept (t : AbsTime)
  | startReject (t : AbsTime) (reason : RejectReason)
  | event (input : Nat) (role : InputRole) (level : Bool) (eventTime : AbsTime) (shot carrier : Bool)
  | state (state : Nat) (cause : EntryCause) (entryTime : AbsTime)
  | abort (cause : AbortCause)
  | finish (cause : EndCause)
deriving DecidableEq, Repr

/-- The Peer Link Controller (Table 9-1). `sent` lists the frames put on the fibre, oldest first
(log 23). -/
structure PeerLink where
  link       : LinkState
  farTag     : Option (BitVec 64)
  sendAt     : Nat
  lossAt     : Option Nat
  agreement  : Agreement
  lastReject : Option RejectReason
  farState   : Option FarState
  farEnded   : Option EndCause
  lateDrops  : Nat
  discards   : Nat
  sent       : List PeerFrame
deriving DecidableEq, Repr

/-- The source of teleprotection edges (Table 9-4). -/
inductive TpSource where
  | peer | localLoop
deriving DecidableEq, Repr

/-- The teleprotection receive path (Table 9-4). -/
structure Teleprotection where
  source       : TpSource
  delay        : Nat
  lastReceived : Bool
  applied      : Bool
  receive      : Bool
  resync       : Bool
deriving DecidableEq, Repr

/-! ### The Injection Guard (chapter 11) -/

/-- The three fault latches of a channel (Table 11-1). -/
structure FaultLatches where
  overload     : Bool
  disconnected : Bool
  overtemp     : Bool
deriving DecidableEq, Repr

/-- The Injection Guard (Table 11-1). The guard period is in milliseconds. -/
structure Guard where
  period  : Nat
  expiry  : Option Nat
  eStop   : EStopLevel
  latches : PerChannel FaultLatches
deriving DecidableEq, Repr

/-! ### The Port Interfaces (chapter 12) -/

/-- Status codes (Table 12-2). -/
inductive Status where
  | ok | badFrame | unknown | range | authority | busy | stale | pendingOther | undefinedTarget
  | conflict | notLocked | peerDown | logFull | noDrain | stopped | notReady | notOwner
deriving DecidableEq, Repr

/-- The parameter that a RANGE response names, where it is no field code of Table 1-1. -/
inductive Param where
  | sect | channel | range | link | input | polarity | role | output | setting | tripTime | closeTime
  | source | index | selector | authority | firstState | startMode | peerLinked | guardPeriod
  | initialPosition | startTime | option | target | quantity | mode | masks | page | first | causes
  | group | order
deriving DecidableEq, Repr

/-- The outcome of a write (R11). -/
inductive WriteOutcome where
  | applied | staged
deriving DecidableEq, Repr

/-- Flags of an OK response (Table 12-2 note 2). -/
inductive ResponseFlag where
  | none | noShot | alreadyEnding | shotDiscarded
deriving DecidableEq, Repr

/-- The SHOT section (Table 12-3): sequencer items (R22, R46) and verdict counts (R115). -/
structure ShotStatus where
  phase        : Phase
  shotNumber   : Nat
  mode         : Option StartMode
  currentState : Option (Fin 32)
  entryShot    : Option Nat
  entryAbs     : Option AbsTime
  visitCount   : Option Nat
  startTime    : Option AbsTime
  lastEntry    : Option LastEntry
  endCause     : Option EndCause
  secondary    : Option AbortCause
  verdicts     : VerdictCounts
deriving DecidableEq, Repr

/-- One channel of the CHANNELS section (Table 12-3). -/
structure ChannelStatus where
  amplitude : Nat
  phase     : Int
  frequency : Nat
  last      : Int
  silencing : Silencing
  clip      : Bool
  amplifier : AmpStatus
deriving DecidableEq, Repr

/-- One input of the IO section (Table 12-3). -/
structure InputStatus where
  polarity   : Polarity
  debounce   : Nat
  role       : InputRole
  active     : Bool
  lastChange : Option AbsTime
deriving DecidableEq, Repr

/-- One pole of the BREAKER section (R87). -/
structure PoleStatus where
  position     : Position
  interruption : Interruption
  openSignal   : Bool
deriving DecidableEq, Repr

/-- The BREAKER section (Table 12-3): the configuration, and each pole as R87 reports it. -/
structure BreakerStatus where
  enabled   : Bool
  tripTime  : Nat
  closeTime : Nat
  poles     : PerPole PoleStatus
deriving DecidableEq, Repr

/-- One drain channel of the REPORT section (R119). -/
structure DrainStatus where
  enabled  : Bool
  xOwner   : Owner
  xCount   : Nat
  xNumber  : Nat
  yOwner   : Owner
  yCount   : Nat
  yNumber  : Nat
  toggle   : PageName
  awaiting : Nat
deriving DecidableEq, Repr

/-- The assessment context as the REPORT section shows it: state, entry time, and each capture's condition
and time (R103). -/
structure ContextStatus where
  state    : Fin 32
  entry    : Nat
  captures : List Capture
deriving DecidableEq, Repr

/-- The REPORT section (Table 12-3): context, log counts and both drain channels. -/
structure ReportStatus where
  context     : Option ContextStatus
  held        : Nat
  free        : Nat
  reservation : Nat
  lost        : Nat
  saturated   : Bool
  drains      : PerPort DrainStatus
deriving DecidableEq, Repr

/-- The TIME section (Table 12-3): Time Base items and the entries held per group (R138). -/
structure TimeStatus where
  seconds      : Nat
  counter      : Nat
  lock         : LockState
  good         : Nat
  lastError    : Int
  loaded       : Option Nat
  quality      : Quality
  degraded     : Bool
  poleCount    : Nat
  condCount    : Nat
  outputCount  : Nat
  tpCount      : Nat
deriving DecidableEq, Repr

/-- The PEER section (Table 12-3): every item of Tables 9-1 and 9-4; timers as the time left. -/
structure PeerStatus where
  link       : LinkState
  farTag     : Option (BitVec 64)
  sendLeft   : Nat
  lossLeft   : Option Nat
  agreement  : Agreement
  lastReject : Option RejectReason
  farState   : Option FarState
  farEnded   : Option EndCause
  lateDrops  : Nat
  discards   : Nat
  tp         : Teleprotection
deriving DecidableEq, Repr

/-- The CONTROL section (Table 12-3): authority, holds, pending counts, guard items and the sets of
the asking port. -/
structure ControlStatus where
  authority  : Authority
  hold       : PerPort Bool
  pendingOf  : PerPort Nat
  period     : Nat
  timerLeft  : Option Nat
  eStop      : EStopLevel
  latches    : PerChannel FaultLatches
  requests   : CauseSet
  enables    : CauseSet
  repeated   : CauseSet
deriving DecidableEq, Repr

/-- The contents of a GET_STATUS response, by section (Table 12-3). -/
inductive StatusData where
  | shot (d : ShotStatus)
  | channels (d : PerChannel ChannelStatus)
  | io (inputs : List InputStatus) (signals : Mask) (outputs : List Output)
  | breaker (d : BreakerStatus)
  | report (d : ReportStatus)
  | time (d : TimeStatus)
  | peer (d : PeerStatus)
  | control (d : ControlStatus)
deriving DecidableEq, Repr

/-- The working values of one channel, as ADJUST answers them (R60). -/
structure WorkingValues where
  channel   : Channel
  amplitude : Nat
  phase     : Int
  frequency : Nat
deriving DecidableEq, Repr

/-- The data of a response, by what the command's rule says it carries; its bytes are in
Machine/Responses.lean. DESIGN CHOICE (log 8): a `record` without its copy is the mark EMPTY of READ_STATE
for the active copy and the mark ABSENT for the pending copy (R15). -/
inductive RespData where
  | none
  | flag (f : ResponseFlag)
  | field (code position : Nat)
  | param (p : Param)
  | authority (a : Authority)
  | written (revision : Nat) (outcome : WriteOutcome)
  | record (revision : Nat) (tag : Option Port) (copy : Option StateRecord)
  | conflictState (state : Fin 32) (inActive inStaged : Bool)
  | conflictOutput (output : Fin 4)
  | emptyTarget (state : Fin 32)
  | badAction (state : Fin 32) (staged : Bool) (entryIndex : Nat)
  | shotNumber (n : Nat)
  | channelConfig (c : ChannelConfig)
  | inputConfig (polarity : Polarity) (debounce : Nat) (role : InputRole)
  | breakerConfig (enabled : Bool) (tripTime closeTime : Nat)
  | tpConfig (source : TpSource) (delay : Nat)
  | working (values : List WorkingValues)
  | levels (bo1 bo2 bo3 bo4 : Bool)
  | page (name : PageName) (number : Nat) (cause : Option HandoverCause) (count : Nat)
      (records : List LogRecord)
  | olderPage (name : PageName)
  | enables (e : CauseSet)
  | notified (requests repeated : CauseSet)
  | status (d : StatusData)
deriving DecidableEq, Repr

/-- A response: a status and its data (R168). -/
structure Response where
  status : Status
  data   : RespData
deriving DecidableEq, Repr

/-- A Port Interface: the response buffer and the three notification sets (R168, R171). -/
structure PortInterface where
  response : Response
  requests : CauseSet
  enables  : CauseSet
  repeated : CauseSet
deriving DecidableEq, Repr

/-! ### The whole part -/

/-- Everything the part holds. `pending` is the queue of commands that wait, and `freeUsed` counts the
free values read; both are the model's own (logs 3 and 28). -/
structure State where
  pending  : List Instr
  store    : ProgramStore
  edit     : EditControl
  seq      : Sequencer
  synth    : Synthesizer
  amp      : AmplifierLink
  inputs   : InputTimer
  outputs  : Vector Output 4
  breaker  : Breaker
  assess   : Option AssessContext
  log      : ReportLog
  drains   : PerPort Drain
  time     : TimeBase
  actions  : TimedList
  peer     : PeerLink
  tp       : Teleprotection
  guard    : Guard
  ports    : PerPort PortInterface
  freeUsed : Nat
deriving DecidableEq, Repr

/-- Why a step stops with a fault. -/
inductive Fault where
  /-- FIRST_ENTRY and STATE_ENTRY raise it where the state to be entered has no active copy. R19 says
  that this cannot be while a shot is ARMED or RUNNING. Safe: the model stops. DEDUCED (log 22). -/
  | entryToEmptyState
deriving DecidableEq, Repr

/-- Why a step is refused. -/
inductive Refusal where
  /-- An arm of `exec` that has no meaning yet. No arm of this model answers it. Safe. -/
  | notModelled (mnemonic : String)
deriving DecidableEq, Repr

/-! ### Power-on values -/

/-- An empty slot (R2). -/
def Slot.empty : Slot := { active := none, staged := none, revision := 0 }

/-- The channel configuration after power-on (Table 1-6). -/
def ChannelConfig.powerOn : PerChannel ChannelConfig :=
  let voltage : ChannelConfig := { range := 300000, trim := 32768, link := none }
  let current (p : Pole) : ChannelConfig := { range := 12500, trim := 32768, link := some p }
  { va := voltage, vb := voltage, vc := voltage, vx := voltage,
    ia := current .a, ib := current .b, ic := current .c }

/-- A sequencer with no shot (R22). -/
def Sequencer.powerOn : Sequencer :=
  { phase := .idle, shotNumber := 0, armingPort := none, mode := none, peerLinked := false,
    firstState := none, startTime := none, startBoundary := none, firstEntryAt := none,
    visit := none, chosen := none, deferring := false, softEnd := none, rampDownAt := none,
    closingAt := none, endAtExit := false, endCause := none, secondary := none,
    visitCounts := Vector.replicate 32 0, lastEntry := none }

/-- A channel of the synthesizer after power-on and soft reset (Table 3-1), linked as configured. -/
def SynthChannel.powerOn (c : ChannelConfig) : SynthChannel :=
  { acc := 0, amplitude := 0, phase := 0, frequency := 50000, peak := 0, increment := 21474836,
    phaseOffset := 0, offset := 0, decay := 0, last := 0, silencing := .conducting, link := c.link,
    clip := false, clipRecorded := false, resuming := false }

/-- The ramp context with no ramp. R61 gives its state NONE; the other items are a DESIGN CHOICE (log 31):
no ramp, value 0, step 1 next, entry 0. -/
def RampContext.powerOn : RampContext :=
  { ramp := none, value := 0, state := .none, nextStep := 1, entry := 0 }

/-- The synthesizer after power-on and soft reset, for a channel configuration (R48). -/
def Synthesizer.powerOn (cfg : PerChannel ChannelConfig) : Synthesizer :=
  { channels :=
      { va := .powerOn cfg.va, vb := .powerOn cfg.vb, vc := .powerOn cfg.vc, vx := .powerOn cfg.vx,
        ia := .powerOn cfg.ia, ib := .powerOn cfg.ib, ic := .powerOn cfg.ic }
    ramp := .powerOn }

/-- A muted subframe (R69). -/
def Subframe.muted : Subframe := { code := 0, valid := false, mute := true }

/-- A channel of the Amplifier Link after power-on (R70). DESIGN CHOICE: no return taken (log 31). -/
def AmpChannel.powerOn : AmpChannel := { status := .ok, overload := 0, missing := 0, returned := false }

/-- The Amplifier Link after power-on (R69, R70). -/
def AmplifierLink.powerOn : AmplifierLink :=
  { frame := { va := .muted, vb := .muted, vc := .muted, vx := .muted, ia := .muted, ib := .muted,
               ic := .muted }
    channels := { va := .powerOn, vb := .powerOn, vc := .powerOn, vx := .powerOn, ia := .powerOn,
                  ib := .powerOn, ic := .powerOn } }

/-- An input after power-on (Table 4-1). DESIGN CHOICE: level 0 until the first sample (log 6). -/
def Input.powerOn : Input :=
  { polarity := .normal, debounce := 20, role := .general, level := false, candidate := none,
    count := 0, ready := false, lastChange := none }

/-- A pole after power-on and soft reset (Table 5-2). -/
def PoleState.powerOn : PoleState :=
  { position := .closed, interruption := .none, start := none, openSignal := false }

/-- No verdicts counted (R115). -/
def VerdictCounts.zero : VerdictCounts :=
  { pass := 0, early := 0, late := 0, noTrip := 0, unexpected := 0, alreadyActive := 0, aborted := 0 }

/-- The empty log (R109, R117). -/
def ReportLog.empty : ReportLog :=
  { records := [], freed := 0, reservation := 0, lost := 0, saturated := false, verdicts := .zero }

/-- An empty page owned by the part. DESIGN CHOICE: page number 0 and no cause (log 31). -/
def Page.empty : Page := { owner := .part, records := [], number := 0, cause := none }

/-- A drain channel after power-on (Table 7-1). -/
def Drain.powerOn : Drain :=
  { enabled := true, copyPos := some 0, consumedPos := some 0, x := .empty, y := .empty,
    toggle := .x, flush := none, count := 0 }

/-- The Time Base after power-on (Table 8-1). -/
def TimeBase.powerOn : TimeBase :=
  { counter := 0, seconds := 0, localTime := 0, loaded := none, lock := .free, good := 0,
    lastEdge := none, lastError := 0, slew := .none, quality := .good, degraded := false,
    armedLocked := false, nextSecond := none, boundaryPassed := false, sampleDone := false,
    inputsDone := false, endFixed := false }

/-- The Peer Link Controller after power-on (Table 9-1). The first HELLO is sent at once (R142;
DEDUCED, log 21). -/
def PeerLink.powerOn : PeerLink :=
  { link := .down, farTag := none, sendAt := 0, lossAt := none, agreement := .none,
    lastReject := none, farState := none, farEnded := none, lateDrops := 0, discards := 0, sent := [] }

/-- The teleprotection path after power-on (Table 9-4). -/
def Teleprotection.powerOn : Teleprotection :=
  { source := .peer, delay := 100, lastReceived := false, applied := false, receive := false,
    resync := false }

/-- No latch set (Table 11-1). -/
def FaultLatches.clear : FaultLatches := { overload := false, disconnected := false, overtemp := false }

/-- All 21 latches clear (R163). -/
def FaultLatches.allClear : PerChannel FaultLatches :=
  { va := .clear, vb := .clear, vc := .clear, vx := .clear, ia := .clear, ib := .clear, ic := .clear }

/-- A Port Interface after power-on (R168, R171). -/
def PortInterface.powerOn : PortInterface :=
  { response := { status := .ok, data := .none }, requests := 0, enables := 0, repeated := 0 }

/-- The part right after power-on, with nothing waiting. DESIGN CHOICE: pins 0 and E-STOP RELEASED,
which the manual takes "as found" (log 6); free-value count and insertion number 0 (logs 3 and 31). -/
def State.reset : State :=
  { pending := []
    store := { slots := Vector.replicate 32 .empty, config := ChannelConfig.powerOn }
    edit := { authority := .shared, hold := { sequence := false, panel := false } }
    seq := .powerOn
    synth := .powerOn ChannelConfig.powerOn
    amp := .powerOn
    inputs := { inputs := Vector.replicate 12 .powerOn, pins := 0, sampled := false }
    outputs := Vector.replicate 4 { role := .none, level := false }
    breaker := { enabled := true, tripTime := 400, closeTime := 800,
                 poles := { a := .powerOn, b := .powerOn, c := .powerOn } }
    assess := none
    log := .empty
    drains := { sequence := .powerOn, panel := .powerOn }
    time := .powerOn
    actions := { entries := [], next := 0 }
    peer := .powerOn
    tp := .powerOn
    guard := { period := 0, expiry := none, eStop := .released, latches := FaultLatches.allClear }
    ports := { sequence := .powerOn, panel := .powerOn }
    freeUsed := 0 }

end Sys2Proof.Machine
end

