-- ==== Sys2Proof/Machine/Operands.lean ====
section
/-! DEFINITION. Operand forms: the code tables by which a parameter names a thing (12.5: enumerated
fields are coded 0, 1, 2 in the order of the table that lists them), the checks of a written record
(R12), and the accessors of the per-thing containers. -/

namespace Sys2Proof

/-! ### Containers -/

/-- All channels, in channel order. -/
def allChannels : List Channel := [.va, .vb, .vc, .vx, .ia, .ib, .ic]

/-- All poles, in the order A, B, C. -/
def allPoles : List Pole := [.a, .b, .c]

/-- The other port. -/
def Port.other : Port → Port
  | .sequence => .panel
  | .panel => .sequence

def PerPort.get {α : Type} (v : PerPort α) : Port → α
  | .sequence => v.sequence
  | .panel => v.panel

def PerPort.set {α : Type} (v : PerPort α) (p : Port) (x : α) : PerPort α :=
  match p with
  | .sequence => { v with sequence := x }
  | .panel => { v with panel := x }

def PerPort.map {α β : Type} (f : α → β) (v : PerPort α) : PerPort β :=
  { sequence := f v.sequence, panel := f v.panel }

def PerPole.get {α : Type} (v : PerPole α) : Pole → α
  | .a => v.a
  | .b => v.b
  | .c => v.c

def PerPole.set {α : Type} (v : PerPole α) (p : Pole) (x : α) : PerPole α :=
  match p with
  | .a => { v with a := x }
  | .b => { v with b := x }
  | .c => { v with c := x }

def PerPole.mapWith {α β : Type} (f : Pole → α → β) (v : PerPole α) : PerPole β :=
  { a := f .a v.a, b := f .b v.b, c := f .c v.c }

def PerChannel.get {α : Type} (v : PerChannel α) : Channel → α
  | .va => v.va
  | .vb => v.vb
  | .vc => v.vc
  | .vx => v.vx
  | .ia => v.ia
  | .ib => v.ib
  | .ic => v.ic

def PerChannel.set {α : Type} (v : PerChannel α) (c : Channel) (x : α) : PerChannel α :=
  match c with
  | .va => { v with va := x }
  | .vb => { v with vb := x }
  | .vc => { v with vc := x }
  | .vx => { v with vx := x }
  | .ia => { v with ia := x }
  | .ib => { v with ib := x }
  | .ic => { v with ic := x }

def PerChannel.mapWith {α β : Type} (f : Channel → α → β) (v : PerChannel α) : PerChannel β :=
  { va := f .va v.va, vb := f .vb v.vb, vc := f .vc v.vc, vx := f .vx v.vx,
    ia := f .ia v.ia, ib := f .ib v.ib, ic := f .ic v.ic }

/-- The same update of every slot. -/
def mapSlots (f : Machine.Slot → Machine.Slot) (v : Vector Machine.Slot 32) : Vector Machine.Slot 32 :=
  Vector.ofFn fun i => f v[i]

/-! ### Channels and targets -/

/-- Position 1 to 7 of a channel (00 section 4.3). -/
def Channel.position : Channel → Nat
  | .va => 1
  | .vb => 2
  | .vc => 3
  | .vx => 4
  | .ia => 5
  | .ib => 6
  | .ic => 7

/-- VA to VX are voltage channels. -/
def Channel.isVoltage : Channel → Bool
  | .va | .vb | .vc | .vx => true
  | .ia | .ib | .ic => false

/-- The phase group of a channel; VX belongs to none. -/
def Channel.group : Channel → Option Machine.PhaseGroup
  | .va | .vb | .vc => some .v
  | .vx => none
  | .ia | .ib | .ic => some .i

def Channel.ofCode : Nat → Option Channel
  | 0 => some .va
  | 1 => some .vb
  | 2 => some .vc
  | 3 => some .vx
  | 4 => some .ia
  | 5 => some .ib
  | 6 => some .ic
  | _ => none

namespace Machine

/-- The channels of a group: phases A, B, C. -/
def PhaseGroup.channels : PhaseGroup → List Channel
  | .v => [.va, .vb, .vc]
  | .i => [.ia, .ib, .ic]

/-- Phase A of a group. -/
def PhaseGroup.phaseA : PhaseGroup → Channel
  | .v => .va
  | .i => .ia

def PhaseGroup.ofCode : Nat → Option PhaseGroup
  | 0 => some .v
  | 1 => some .i
  | _ => none

/-- The channels of a target (00 section 4.3, note 2). -/
def Target.channels : Target → List Channel
  | .channel c => [c]
  | .group g => g.channels

/-- The channel that gives a target's value: the channel, or phase A of a group (R60). -/
def Target.lead : Target → Channel
  | .channel c => c
  | .group g => g.phaseA

def Target.covers (t : Target) (c : Channel) : Bool := t.channels.contains c

/-- Two targets share a channel (R59). -/
def Target.overlaps (t u : Target) : Bool := t.channels.any u.covers

/-- Targets code VA to IC as 0 to 6, V as 7 and I as 8 (12.5). -/
def Target.ofCode (n : Nat) : Option Target :=
  match Channel.ofCode n with
  | some c => some (.channel c)
  | none => if n = 7 then some (.group .v) else if n = 8 then some (.group .i) else none

def Quantity.ofCode : Nat → Option Quantity
  | 0 => some .amplitude
  | 1 => some .phase
  | 2 => some .frequency
  | _ => none

/-- Next-state fields: 0 to 31, or END as 255 (12.5). -/
def Next.ofCode (n : Nat) : Option Next :=
  if h : n < 32 then some (.state ⟨n, h⟩) else if n = 255 then some .finish else none

def BreakerLink.ofCode : Nat → Option BreakerLink
  | 0 => some .configured
  | 1 => some (.pole .a)
  | 2 => some (.pole .b)
  | 3 => some (.pole .c)
  | 4 => some .none
  | _ => Option.none

def Expectation.ofCode : Nat → Option Expectation
  | 0 => some .mustTrip
  | 1 => some .mustNotTrip
  | _ => none

/-- The link of a channel configuration, coded in the order A, B, C, NONE of Table 1-5. -/
def poleLinkOfCode : Nat → Option (Option Pole)
  | 0 => some (some .a)
  | 1 => some (some .b)
  | 2 => some (some .c)
  | 3 => some none
  | _ => none

def Polarity.ofCode : Nat → Option Polarity
  | 0 => some .normal
  | 1 => some .inverted
  | _ => none

def OutputRole.ofCode : Nat → Option OutputRole
  | 0 => some .none
  | 1 => some .aux52A
  | 2 => some .aux52B
  | 3 => some .tpReceive
  | 4 => some .stateDriven
  | 5 => some .manual
  | _ => Option.none

def TpSource.ofCode : Nat → Option TpSource
  | 0 => some .peer
  | 1 => some .localLoop
  | _ => none

def Authority.ofCode : Nat → Option Authority
  | 0 => some .shared
  | 1 => some .local_
  | 2 => some .remote
  | _ => none

def PageName.ofCode : Nat → Option PageName
  | 0 => some .x
  | 1 => some .y
  | _ => none

def PageName.other : PageName → PageName
  | .x => .y
  | .y => .x

/-- A two-valued code: 0 for the first value listed, 1 for the second. -/
def boolOfCode : Nat → Option Bool
  | 0 => some false
  | 1 => some true
  | _ => none

/-- Input numbers 1 to 12 (R79); the index counts from 0. -/
def inputOfCode (n : Nat) : Option (Fin 12) :=
  if h : 1 ≤ n ∧ n ≤ 12 then some ⟨n - 1, by omega⟩ else none

/-- Output numbers 1 to 4 (R81); the index counts from 0. -/
def outputOfCode (n : Nat) : Option (Fin 4) :=
  if h : 1 ≤ n ∧ n ≤ 4 then some ⟨n - 1, by omega⟩ else none

/-- A state index 0 to 31. -/
def stateOfCode (n : Nat) : Option (Fin 32) := if h : n < 32 then some ⟨n, h⟩ else none

end Machine

def InputRole.ofCode : Nat → Option InputRole
  | 0 => some .general
  | 1 => some .tripA
  | 2 => some .tripB
  | 3 => some .tripC
  | 4 => some .trip3P
  | 5 => some .close
  | 6 => some .carrierSend
  | _ => none

namespace Machine

/-! ### The checks of a written record (R8, R12, Tables 1-1 and 1-2) -/

/-- One check: the field code, the channel position or entry index it is reported with, and whether
it passes. -/
structure FieldCheck where
  code     : Nat
  position : Nat
  passes   : Bool

/-- The first check that fails, as the response names it (R12). -/
def firstFailure : List FieldCheck → Option (Nat × Nat)
  | [] => none
  | c :: rest => if c.passes then firstFailure rest else some (c.code, c.position)

/-- An angle in range (Table 1-1, code 5). -/
def angleInRange (a : Int) : Bool := decide (-18000 ≤ a ∧ a ≤ 17999)

/-- A frequency in range (Table 1-1, code 6). -/
def frequencyInRange (f : Nat) : Bool := decide (10000 ≤ f ∧ f ≤ 1000000)

/-- The smallest range among the channels of a target (R8). -/
def targetRange (cfg : PerChannel ChannelConfig) (t : Target) : Nat :=
  t.channels.foldl (fun m c => min m (cfg.get c).range) (cfg.get t.lead).range

/-- The checks on one channel entry, codes 4 to 8 (R5, R12). -/
def channelChecks (cfg : PerChannel ChannelConfig) (c : Channel) (e : RawChannel) : List FieldCheck :=
  let n := c.position
  [ ⟨4, n, decide (e.amplitude ≤ (cfg.get c).range)⟩,
    ⟨5, n, angleInRange e.phase⟩,
    ⟨6, n, frequencyInRange e.frequency⟩,
    ⟨7, n, decide (e.offsetTau ≤ 5000)⟩,
    ⟨8, n, match BreakerLink.ofCode e.link with
           | some (.pole _) => !c.isVoltage
           | some _ => true
           | none => false⟩ ]

/-- The checks on the conditions looked at, codes 12 and 13, entry `n` first. -/
def conditionChecks (n : Nat) : List RawCondition → List FieldCheck
  | [] => []
  | c :: rest =>
      ⟨12, n, decide (c.hold ≤ 100000)⟩ :: ⟨13, n, (Next.ofCode c.next).isSome⟩
        :: conditionChecks (n + 1) rest

/-- A ramp value lies in the range of the quantity (Table 1-2). -/
def rampValueInRange (cfg : PerChannel ChannelConfig) (t : Target) (q : Quantity) (v : Int) : Bool :=
  match q with
  | .amplitude => decide (0 ≤ v ∧ v ≤ targetRange cfg t)
  | .phase => angleInRange v
  | .frequency => decide (10000 ≤ v ∧ v ≤ 1000000)

/-- The largest step magnitude of a quantity (Table 1-2). -/
def rampStepLimit (cfg : PerChannel ChannelConfig) (t : Target) : Quantity → Nat
  | .amplitude => targetRange cfg t
  | .phase => 35999
  | .frequency => 990000

/-- The checks on a ramp, codes 14 to 20 (R8). A check that needs a known target or quantity stands
after the check that it is known. -/
def rampChecks (cfg : PerChannel ChannelConfig) (r : RawRamp) : List FieldCheck :=
  match Target.ofCode r.target, Quantity.ofCode r.quantity with
  | none, _ => [⟨14, 0, false⟩]
  | some _, none => [⟨15, 0, false⟩]
  | some t, some q =>
      [ ⟨16, 0, rampValueInRange cfg t q r.start⟩,
        ⟨17, 0, decide (1 ≤ r.step.natAbs ∧ r.step.natAbs ≤ rampStepLimit cfg t q)⟩,
        ⟨18, 0, rampValueInRange cfg t q r.limit
                  && (if 0 < r.step then decide (r.start ≤ r.limit) else decide (r.limit ≤ r.start))⟩,
        ⟨19, 0, decide (1 ≤ r.dwell ∧ r.dwell ≤ 100000)⟩,
        ⟨20, 0, decide (r.stopMask ≠ 0)⟩ ]

/-- The checks on the assessments looked at, codes 22 to 26. -/
def assessmentChecks (n : Nat) : List RawAssessment → List FieldCheck
  | [] => []
  | a :: rest =>
      ⟨22, n, decide (a.mask ≠ 0)⟩ :: ⟨23, n, (Expectation.ofCode a.expectation).isSome⟩
        :: ⟨24, n, decide (a.nominal ≤ 3600000000)⟩ :: ⟨25, n, decide (a.tolAbs ≤ 3600000000)⟩
        :: ⟨26, n, decide (a.permille ≤ 1000)⟩ :: assessmentChecks (n + 1) rest

/-- The checks on the output actions looked at, codes 28 to 30. -/
def actionChecks (n : Nat) : List RawAction → List FieldCheck
  | [] => []
  | a :: rest =>
      ⟨28, n, (outputOfCode a.output).isSome⟩ :: ⟨29, n, decide (a.level ≤ 1)⟩
        :: ⟨30, n, decide (a.delay ≤ 100000)⟩ :: actionChecks (n + 1) rest

/-- Every check of R12 on a written record, in field-code order. A list count above 4 fails at its
count code before any entry is looked at. -/
def recordChecks (cfg : PerChannel ChannelConfig) (index : Nat) (r : RawRecord) : List FieldCheck :=
  [ ⟨1, 0, decide (index < 32)⟩, ⟨2, 0, decide (r.duration ≤ 36000000)⟩,
    ⟨3, 0, (Next.ofCode r.timeoutNext).isSome⟩ ]
  ++ channelChecks cfg .va r.channels.va ++ channelChecks cfg .vb r.channels.vb
  ++ channelChecks cfg .vc r.channels.vc ++ channelChecks cfg .vx r.channels.vx
  ++ channelChecks cfg .ia r.channels.ia ++ channelChecks cfg .ib r.channels.ib
  ++ channelChecks cfg .ic r.channels.ic
  ++ (if r.inceptionPresent then
        [⟨9, 0, (Channel.ofCode r.inceptionRef).isSome⟩, ⟨10, 0, angleInRange r.inceptionAngle⟩]
      else [])
  ++ [⟨11, 0, decide (r.conditionCount ≤ 4)⟩]
  ++ conditionChecks 1 (r.conditions.take r.conditionCount)
  ++ (if r.rampPresent then rampChecks cfg r.ramp else [])
  ++ [⟨21, 0, decide (r.assessmentCount ≤ 4)⟩]
  ++ assessmentChecks 1 (r.assessments.take r.assessmentCount)
  ++ [⟨27, 0, decide (r.actionCount ≤ 4)⟩]
  ++ actionChecks 1 (r.actions.take r.actionCount)

/-! ### The record that a checked write stores (R3) -/

def RawChannel.stored (e : RawChannel) : ChannelEntry :=
  { amplitude := e.amplitude, phase := e.phase, frequency := e.frequency, offsetTau := e.offsetTau,
    link := (BreakerLink.ofCode e.link).getD .configured }

def RawCondition.stored (c : RawCondition) : Condition :=
  { enable := c.enable, value := c.value, hold := c.hold, next := (Next.ofCode c.next).getD .finish }

def RawRamp.stored (r : RawRamp) : Ramp :=
  { target := (Target.ofCode r.target).getD (.channel .va)
    quantity := (Quantity.ofCode r.quantity).getD .amplitude
    start := r.start, step := r.step, limit := r.limit, dwell := r.dwell, stopMask := r.stopMask }

def RawAssessment.stored (a : RawAssessment) : Assessment :=
  { mask := a.mask, expectation := (Expectation.ofCode a.expectation).getD .mustTrip
    nominal := a.nominal, tolAbs := a.tolAbs, permille := a.permille }

def RawAction.stored (a : RawAction) : OutputAction :=
  { output := (outputOfCode a.output).getD 0, level := a.level == 1, delay := a.delay, once := a.once }

/-- The record stored by a write whose checks pass: absent parts and entries beyond a count are not
stored (R3, R12). The defaults named here are never used on a record that passed the checks. -/
def RawRecord.stored (r : RawRecord) : StateRecord :=
  { duration := r.duration
    timeoutNext := (Next.ofCode r.timeoutNext).getD .finish
    tpBlocked := r.tpBlocked
    channels := r.channels.mapWith fun _ e => RawChannel.stored e
    inception :=
      if r.inceptionPresent then
        some { reference := (Channel.ofCode r.inceptionRef).getD .va, angle := r.inceptionAngle }
      else none
    conditions := (r.conditions.take r.conditionCount).map RawCondition.stored
    ramp := if r.rampPresent then some (RawRamp.stored r.ramp) else none
    assessments := (r.assessments.take r.assessmentCount).map RawAssessment.stored
    actions := (r.actions.take r.actionCount).map RawAction.stored }

/-- The default channel entry of Table 1-4. -/
def ChannelEntry.default : ChannelEntry :=
  { amplitude := 0, phase := 0, frequency := 50000, offsetTau := 0, link := .configured }

/-- The default record of Table 1-4 (R14). -/
def StateRecord.default : StateRecord :=
  { duration := 0, timeoutNext := .finish, tpBlocked := false
    channels := { va := .default, vb := .default, vc := .default, vx := .default, ia := .default,
                  ib := .default, ic := .default }
    inception := none, conditions := [], ramp := none, assessments := [], actions := [] }

/-- The checks of WRITE_BALANCED at order 3 (R13): A against each channel of the group (code 4), F
(code 6), φ (code 5). DESIGN CHOICE: the state index stands first (log 20). -/
def balancedChecks (cfg : PerChannel ChannelConfig) (index : Nat) (g : PhaseGroup)
    (amplitude frequency : Nat) (angle : Int) : List FieldCheck :=
  ⟨1, 0, decide (index < 32)⟩
    :: g.channels.map (fun c => (⟨4, c.position, decide (amplitude ≤ (cfg.get c).range)⟩ : FieldCheck))
    ++ [⟨6, g.phaseA.position, frequencyInRange frequency⟩, ⟨5, g.phaseA.position, angleInRange angle⟩]

/-- One channel entry given its balanced values, with offset_tau and breaker_link kept (R13). -/
def ChannelEntry.withBalanced (e : ChannelEntry) (amplitude frequency : Nat) (angle : Int) : ChannelEntry :=
  { e with amplitude := amplitude, frequency := frequency, phase := wrapAngle angle }

/-- A record with a balanced set written into one group (R13): phase A at φ, B and C 12,000 behind
and ahead for ABC, ahead and behind for ACB. -/
def StateRecord.withBalanced (r : StateRecord) (g : PhaseGroup) (amplitude frequency : Nat) (angle : Int)
    (acb : Bool) : StateRecord :=
  let b := if acb then angle + 12000 else angle - 12000
  let c := if acb then angle - 12000 else angle + 12000
  match g with
  | .v => { r with channels := { r.channels with
      va := r.channels.va.withBalanced amplitude frequency angle
      vb := r.channels.vb.withBalanced amplitude frequency b
      vc := r.channels.vc.withBalanced amplitude frequency c } }
  | .i => { r with channels := { r.channels with
      ia := r.channels.ia.withBalanced amplitude frequency angle
      ib := r.channels.ib.withBalanced amplitude frequency b
      ic := r.channels.ic.withBalanced amplitude frequency c } }

end Machine
end Sys2Proof
end

