-- ==== Sys2Proof/Machine/Flags.lean ====
section
/-! DEFINITION. Flag computations: the signal vector and the masked match (R7, R74), the notification
sets and the NOTIFY line (R171), the flags of a record (R110, R136), verdicts and their counts
(R106, R107, R115), and the status flags derived from State. -/

namespace Sys2Proof.Machine

/-! ### The signal vector -/

/-- An input is active when its debounced level, inverted if its polarity is INVERTED, is 1 (R74). -/
def Input.active (i : Input) : Bool :=
  match i.polarity with
  | .normal => i.level
  | .inverted => !i.level

/-- The signal number of a pole's open signal (R88). -/
def Pole.signal : Pole → Nat
  | .a => 12
  | .b => 13
  | .c => 14

/-- Signal `n` of the vector (R74, R88, 00 section 4.5). -/
def State.signal (s : State) (n : Nat) : Bool :=
  if h : n < 12 then (s.inputs.inputs[n]'h).active
  else if n = 12 then s.breaker.poles.a.openSignal
  else if n = 13 then s.breaker.poles.b.openSignal
  else if n = 14 then s.breaker.poles.c.openSignal
  else if n = 15 then s.tp.receive
  else false

/-- The signal vector as it stands (00 section 4.5). -/
def State.signals (s : State) : Mask :=
  (List.range 16).foldl (fun v n => if s.signal n then v ||| (1#16 <<< n) else v) 0

/-- The signals of a mask equal the corresponding bits of a match value (R7, R26). An empty mask makes
it true. -/
def masked (signals mask value : Mask) : Bool := decide (signals &&& mask = value &&& mask)

/-- An exit condition is true (R7, R31). -/
def Condition.holds (c : Condition) (signals : Mask) : Bool := masked signals c.enable c.value

/-! ### Notifications (R171) -/

/-- The notification causes, by bit (Table 12-4). -/
inductive NotifyCause where
  | shotStarted | stateEntered | inputChanged | shotEnded | pageReady | guardAbort | timeQuality
  | peerLink | editsApplied | authorityChanged
deriving DecidableEq, Repr

def NotifyCause.bit : NotifyCause → CauseSet
  | .shotStarted => 1#10 <<< 0
  | .stateEntered => 1#10 <<< 1
  | .inputChanged => 1#10 <<< 2
  | .shotEnded => 1#10 <<< 3
  | .pageReady => 1#10 <<< 4
  | .guardAbort => 1#10 <<< 5
  | .timeQuality => 1#10 <<< 6
  | .peerLink => 1#10 <<< 7
  | .editsApplied => 1#10 <<< 8
  | .authorityChanged => 1#10 <<< 9

/-- Raising a cause: the request is set, and the repeated bit where the request was already set (R171). -/
def PortInterface.raise (q : PortInterface) (c : NotifyCause) : PortInterface :=
  { q with requests := q.requests ||| c.bit, repeated := q.repeated ||| (q.requests &&& c.bit) }

/-- The NOTIFY line is asserted while some cause is both requested and enabled (R171). -/
def PortInterface.notifyLine (q : PortInterface) : Bool := decide (q.requests &&& q.enables ≠ 0)

/-- A mask of causes names none above bit 9 (R172, R173). -/
def causesInRange (m : Mask) : Bool := decide (m &&& 0xFC00#16 = 0)

/-! ### Records -/

/-- SHOT_START and SHOT_END carry the time quality as a field and not the flag (R110). -/
def RecordBody.carriesQuality : RecordBody → Bool
  | .shotStart .. => true
  | .shotEnd .. => true
  | _ => false

def RecordBody.isShotEnd : RecordBody → Bool
  | .shotEnd .. => true
  | _ => false

/-- The DEGRADED flag of a record produced now (R136). -/
def degradedFlag (q : Quality) (b : RecordBody) : Bool := decide (q = .degraded) && !b.carriesQuality

/-! ### Verdicts (R106, R107) -/

/-- The tolerance of an assessment (R106). -/
def Assessment.tolerance (a : Assessment) : Nat := max a.tolAbs (a.nominal * a.permille / 1000)

/-- The window low, floored at 0 (R106). -/
def Assessment.windowLow (a : Assessment) : Nat := a.nominal - a.tolerance

/-- The window high, exact (R106). -/
def Assessment.windowHigh (a : Assessment) : Nat := a.nominal + a.tolerance

/-- The window high as the record carries it (R106). -/
def Assessment.recordedHigh (a : Assessment) : Nat := min a.windowHigh 4294967295

/-- The verdict and the measured time of an assessment whose visit, entered at `entry`, has ended
(Table 6-1, first row that applies). -/
def Capturing.verdict (c : Capturing) (byAbort : Bool) (entry : Nat) : Verdict × Option Nat :=
  if byAbort then (.aborted, none)
  else
    match c.capture, c.assessment.expectation with
    | .alreadyActive, _ => (.alreadyActive, none)
    | .waiting, .mustTrip => (.noTrip, none)
    | .waiting, .mustNotTrip => (.pass, none)
    | .captured t, .mustTrip =>
        let m := t - entry
        if m < c.assessment.windowLow then (.early, some m)
        else if c.assessment.windowHigh < m then (.late, some m)
        else (.pass, some m)
    | .captured t, .mustNotTrip => (.unexpected, some (t - entry))

/-- A verdict count incremented, staying at 15 (R115). -/
def count15 (n : Nat) : Nat := min 15 (n + 1)

/-- A verdict counted (R115). -/
def VerdictCounts.add (v : VerdictCounts) : Verdict → VerdictCounts
  | .pass => { v with pass := count15 v.pass }
  | .early => { v with early := count15 v.early }
  | .late => { v with late := count15 v.late }
  | .noTrip => { v with noTrip := count15 v.noTrip }
  | .unexpected => { v with unexpected := count15 v.unexpected }
  | .alreadyActive => { v with alreadyActive := count15 v.alreadyActive }
  | .aborted => { v with aborted := count15 v.aborted }

/-! ### Roles and poles -/

/-- The state of an input role: active while at least one input of that role is active (R75). -/
def State.roleActive (s : State) (r : InputRole) : Bool :=
  s.inputs.inputs.toList.any fun i => decide (i.role = r) && i.active

/-- The single-pole trip role of a pole (R89). -/
def Pole.tripRole : Pole → InputRole
  | .a => .tripA
  | .b => .tripB
  | .c => .tripC

/-- A trip role of the pole is active (R90). -/
def State.tripActive (s : State) (p : Pole) : Bool := s.roleActive (Pole.tripRole p) || s.roleActive .trip3P

/-- All three poles are in a position (R99). -/
def Breaker.allIn (b : Breaker) (x : Position) : Bool :=
  decide (b.poles.a.position = x ∧ b.poles.b.position = x ∧ b.poles.c.position = x)

/-! ### Phases -/

/-- A shot is active: ARMED, RUNNING, RAMPING_DOWN or CLOSING (R130). Also the logging window of R77,
R86, R98 and R152. -/
def State.shotActive (s : State) : Bool := decide (s.seq.phase ≠ .idle)

/-- The channels are injecting (R97). -/
def State.injecting (s : State) : Bool := decide (s.seq.phase = .running ∨ s.seq.phase = .rampingDown)

/-- A peer-linked shot is active (R148, R149). -/
def State.peerShot (s : State) : Bool := s.shotActive && s.seq.peerLinked

/-- An AT_TIME or PEER shot (R27). -/
def State.timedStart (s : State) : Bool :=
  match s.seq.mode with
  | some (.atTime _) => true
  | some .peer => true
  | _ => false

/-- The port is excluded by the authority in force (R156). -/
def State.excluded (s : State) (p : Port) : Bool :=
  match s.edit.authority, p with
  | .local_, .sequence => true
  | .remote, .panel => true
  | _, _ => false

/-- Neither port holds (R160). -/
def State.noHold (s : State) : Bool := !s.edit.hold.sequence && !s.edit.hold.panel

/-- A soft cause (Table 2-4). -/
def AbortCause.isHard : AbortCause → Bool
  | .eStop | .overload | .disconnected => true
  | _ => false

end Sys2Proof.Machine
end

