-- ==== Sys2Proof/Machine/Ops.lean ====
section
/-! DEFINITION. The named operations that the meanings share: times and boundaries, responses and
notifications, the Report Log with the drain channels that copy from it, the Timed Action List, the
outputs, the peer frames sent, and the Program Store's applies and walks. -/

namespace Sys2Proof.Machine

/-! ### Times (chapter 8) -/

/-- Local time now (R129). -/
def State.now (s : State) : Nat := s.time.localTime

/-- The time of day now, in microseconds (R129). -/
def State.timeOfDay (s : State) : AbsTime := s.time.seconds * 1000000 + s.time.counter

/-- The span after which the time of day repeats: 2^32 seconds (R129). -/
def daySpan : Nat := 4294967296 * 1000000

/-- Now, on both scales (R129). -/
def State.moment (s : State) : Moment := { at_ := s.now, abs := s.timeOfDay }

/-- How far an absolute time lies ahead of another, negative where it lies behind: the shorter way round
the day span (R129; log 35). -/
def aheadBy (t u : AbsTime) : Int :=
  let d : Nat := (t % daySpan + daySpan - u % daySpan) % daySpan
  if 2 * d ≤ daySpan then d else (d : Int) - daySpan

/-- How far an absolute time lies ahead of the time of day (R27, R146, R147, R152). -/
def State.aheadOf (s : State) (t : AbsTime) : Int := aheadBy t s.timeOfDay

/-- Shot time of a local instant: the local time since the first state entry, 0 before it and while
there is none (R110, R129). -/
def State.shotTime (s : State) (t : Nat) : Nat :=
  match s.seq.firstEntryAt with
  | some f => t - f
  | none => 0

/-- Now is a sample boundary: the counter is at a multiple of 100 (R129). -/
def State.atBoundary (s : State) : Bool := s.time.counter % 100 == 0

/-- Now is a boundary whose choice and samples have not been taken (R41; DEDUCED, log 4). -/
def State.openBoundary (s : State) : Bool := s.atBoundary && !s.time.boundaryPassed

/-- The first boundary after something that is taken now: this boundary while its choice has not been
taken (R41: "If the abort is taken first, its next boundary is b"), the next one otherwise (log 4). -/
def State.nextBoundary (s : State) : Nat :=
  if s.openBoundary then s.now else s.now + (100 - s.time.counter % 100)

/-- The choice at this boundary is taken (R41). -/
def State.passBoundary (s : State) : State := { s with time := { s.time with boundaryPassed := true } }

/-- A free value: an order that the manual leaves open (Config.freeOrder), one of `n` choices. With
one choice there is nothing to choose. -/
def State.freeChoice (s : State) (n : Nat) : Nat := if n ≤ 1 then 0 else Config.freeOrder s.freeUsed % n

/-- A free value has been read. -/
def State.useFree (s : State) : State := { s with freeUsed := s.freeUsed + 1 }

/-! ### Responses and notifications (chapter 12) -/

/-- The response of a command replaces its port's buffer (R168). -/
def State.respond (s : State) (p : Port) (st : Status) (d : RespData) : State :=
  { s with ports := s.ports.set p { s.ports.get p with response := { status := st, data := d } } }

/-- A valid frame taken from the arming port while the keepalive timer runs restarts it (R164). -/
def State.takeFrame (s : State) (p : Port) : State :=
  { s with guard := { s.guard with
      expiry := match s.guard.expiry with
                | some e => if s.seq.armingPort = some p then some (s.now + s.guard.period * 1000) else some e
                | none => none } }

/-- A cause is raised for one port (R171). -/
def State.raiseFor (s : State) (p : Port) (c : NotifyCause) : State :=
  { s with ports := s.ports.set p ((s.ports.get p).raise c) }

/-- A cause is raised for both ports (R171). -/
def State.raiseBoth (s : State) (c : NotifyCause) : State :=
  { s with ports := s.ports.map fun q => q.raise c }

/-! ### Drain channels and the log (chapters 6 and 7) -/

def Drain.page (d : Drain) : PageName → Page
  | .x => d.x
  | .y => d.y

def Drain.setPage (d : Drain) (n : PageName) (pg : Page) : Drain :=
  match n with
  | .x => { d with x := pg }
  | .y => { d with y := pg }

/-- A handover of the page that the toggle names (R121). -/
def Drain.handOver (d : Drain) (c : HandoverCause) : Drain :=
  let number := (d.count + 1) % 65536
  { d.setPage d.toggle { d.page d.toggle with owner := .port, number := number, cause := some c } with
    count := number, flush := none, toggle := d.toggle.other }

/-- The channel can copy into the page that the toggle names (R120). -/
def Drain.canCopy (d : Drain) : Bool :=
  d.enabled && decide ((d.page d.toggle).owner = .part) && decide ((d.page d.toggle).records.length < 16)

/-- One record copied into the page that the toggle names: the copy position advances, and the first
record of a page starts the flush timer (R120). -/
def Drain.copyOne (d : Drain) (now : Nat) (r : LogRecord) : Drain :=
  let pg := d.page d.toggle
  { d.setPage d.toggle { pg with records := pg.records ++ [r] } with
    copyPos := d.copyPos.map (· + 1)
    flush := if pg.records.isEmpty then some (now + 20000) else d.flush }

/-- The handover that a copy calls for: on a SHOT_END, or on the sixteenth record (Table 7-2, note 2). -/
def Drain.causeAfter (d : Drain) (r : LogRecord) : Option HandoverCause :=
  if r.body.isShotEnd then some .shotEnd
  else if (d.page d.toggle).records.length = 16 then some .pageFull
  else none

/-- Copying of the records that wait, oldest first, for as long as the page that the toggle names can
take them (R120). Answers the channel and the number of handovers. -/
def Drain.fill (d : Drain) (now : Nat) : List LogRecord → Drain × Nat
  | [] => (d, 0)
  | r :: rest =>
      if d.canCopy then
        let copied := d.copyOne now r
        match copied.causeAfter r with
        | some c =>
            let filled := Drain.fill (copied.handOver c) now rest
            (filled.1, filled.2 + 1)
        | none => Drain.fill copied now rest
      else (d, 0)

/-- A cause raised `n` times. -/
def PortInterface.raiseTimes (q : PortInterface) (c : NotifyCause) : Nat → PortInterface
  | 0 => q
  | n + 1 => PortInterface.raiseTimes (q.raise c) c n

/-- The records that a channel has not yet copied (Table 7-1 note 1). A disabled channel has no copy position;
that GET_STATUS then reports 0 records awaiting is a DESIGN CHOICE (log 8). -/
def ReportLog.awaiting (l : ReportLog) (d : Drain) : List LogRecord :=
  match d.copyPos with
  | some c => l.records.drop (c - l.freed)
  | none => []

/-- One channel tries to copy (R120). Each handover raises PAGE_READY for its port (R121). -/
def State.copyFor (s : State) (p : Port) : State :=
  let filled := (s.drains.get p).fill s.now (s.log.awaiting (s.drains.get p))
  { s with drains := s.drains.set p filled.1
           ports := s.ports.set p ((s.ports.get p).raiseTimes .pageReady filled.2) }

/-- Both channels try to copy (R120). -/
def State.copyBoth (s : State) : State := (s.copyFor .sequence).copyFor .panel

/-- The free count (R109). -/
def ReportLog.free (l : ReportLog) : Nat := 1024 - l.records.length

/-- The unreserved free count (R109). -/
def ReportLog.unreserved (l : ReportLog) : Nat := l.free - l.reservation

/-- The oldest position and the write position, as ring slots (R109). -/
def ReportLog.oldestSlot (l : ReportLog) : Nat := l.freed % 1024

def ReportLog.writeSlot (l : ReportLog) : Nat := (l.freed + l.records.length) % 1024

/-- A record written after the newest (R111). -/
def ReportLog.write (l : ReportLog) (r : LogRecord) : ReportLog := { l with records := l.records ++ [r] }

/-- A record lost: the lost count grows and saturates (R111). The flag is set by the first loss that the full count
cannot take, not by the one that fills it: DESIGN CHOICE (log 50). -/
def ReportLog.lose (l : ReportLog) : ReportLog :=
  if l.lost < 4294967295 then { l with lost := l.lost + 1 } else { l with saturated := true }

/-- The record that a producer makes now, for the current shot (R110, R136). -/
def State.makeRecord (s : State) (time : Nat) (b : RecordBody) : LogRecord :=
  { shot := s.seq.shotNumber, time := time, degraded := degradedFlag s.time.quality b, body := b }

/-- A record other than SHOT_END is offered: it is written if an unreserved slot is free, and both
channels try to copy; otherwise it is lost and counted (R111, R120). -/
def State.offer (s : State) (time : Nat) (b : RecordBody) : State :=
  if 1 ≤ s.log.unreserved then State.copyBoth { s with log := s.log.write (s.makeRecord time b) }
  else { s with log := s.log.lose }

/-- Records offered one after another. -/
def State.offerAll (s : State) (time : Nat) : List RecordBody → State
  | [] => s
  | b :: rest => State.offerAll (s.offer time b) time rest

/-- SHOT_END is written into its reserved slot, and the reservation returns to 0 (R114, R116). -/
def State.writeShotEnd (s : State) (time : Nat) (b : RecordBody) : State :=
  State.copyBoth { s with log := { s.log.write (s.makeRecord time b) with reservation := 0 } }

/-- The position up to which every enabled channel has consumed; with no channel enabled, the end of
the records held (R125). -/
def State.consumedBy (s : State) : Nat :=
  match s.drains.sequence.consumedPos, s.drains.panel.consumedPos with
  | some a, some b => min a b
  | some a, none => a
  | none, some b => b
  | none, none => s.log.freed + s.log.records.length

/-- Records freed up to a position (R117). -/
def ReportLog.freeTo (l : ReportLog) (pos : Nat) : ReportLog :=
  { l with records := l.records.drop (pos - l.freed), freed := max l.freed pos }

/-- The log frees what every enabled channel has consumed (R125). -/
def State.freeLog (s : State) : State := { s with log := s.log.freeTo s.consumedBy }

/-! ### The Timed Action List (section 8.6) -/

/-- The groups of Table 8-4. -/
inductive Group where
  | pole | condition | stateOutput | tpEdge
deriving DecidableEq, Repr

def Work.group : Work → Group
  | .pole .. => .pole
  | .condition _ => .condition
  | .stateOutput .. => .stateOutput
  | .tpEdge _ => .tpEdge

/-- Entries of a group (Table 8-4). -/
def Group.capacity : Group → Nat
  | .pole => 3
  | .condition => 4
  | .stateOutput => 4
  | .tpEdge => 13

/-- Entries held in a group (R138). -/
def TimedList.held (l : TimedList) (g : Group) : Nat := (l.entries.filter fun a => decide (a.work.group = g)).length

/-- A group has a free entry (R139). -/
def TimedList.hasFree (l : TimedList) (g : Group) : Bool := decide (l.held g < g.capacity)

/-- An action inserted at its place: by due time, and after those of equal due time (R138). -/
def insertAction (a : TimedAction) : List TimedAction → List TimedAction
  | [] => [a]
  | b :: rest => if b.due ≤ a.due then b :: insertAction a rest else a :: b :: rest

/-- A placement in a group with a free entry; in a full group the list is not changed (R139). -/
def TimedList.place (l : TimedList) (due : Nat) (w : Work) (owner : Option Nat) : TimedList :=
  if l.hasFree w.group then
    { entries := insertAction { due := due, insertion := l.next, work := w, owner := owner } l.entries
      next := l.next + 1 }
  else l

/-- A placement whose due time is reached: the action is placed and leaves the list within the event
that places it, so that only its insertion number is used up (R140). -/
def TimedList.placeAndTake (l : TimedList) : TimedList := { l with next := l.next + 1 }

/-- The actions that a test keeps (R141). -/
def TimedList.keep (l : TimedList) (f : TimedAction → Bool) : TimedList := { l with entries := l.entries.filter f }

/-! ### Outputs (section 4.5) -/

/-- An output takes a level: where the level changes within the logging window an OUTPUT_CHANGE record
is offered (R86). -/
def State.setOutput (s : State) (n : Fin 4) (level : Bool) (src : OutputSource) : State :=
  if s.outputs[n].level = level then s
  else
    let s := { s with outputs := s.outputs.set n { s.outputs[n] with level := level } }
    if s.shotActive then s.offer (s.shotTime s.now) (.outputChange n level src) else s

/-- Every output takes the level that a rule gives for its role, if the rule gives one. The order of the
outputs, and so of the records of one event, is a DESIGN CHOICE: BO1 to BO4 (log 41). -/
def State.refreshOutputs (s : State) (src : OutputSource) (rule : OutputRole → Option Bool) : State :=
  (List.finRange 4).foldl (fun s n =>
    match rule s.outputs[n].role with
    | some level => s.setOutput n level src
    | none => s) s

/-- The level that the pole positions give an AUX role (R99). -/
def Breaker.auxLevel (b : Breaker) : OutputRole → Option Bool
  | .aux52A => some (b.allIn .closed)
  | .aux52B => some (b.allIn .opened)
  | _ => none

/-- The AUX outputs take the present positions (R99). -/
def State.refreshAux (s : State) : State := s.refreshOutputs .breaker s.breaker.auxLevel

/-! ### Peer frames sent (R143) -/

/-- A frame is sent at the instant of its event, and only while the link is UP (R143). -/
def State.send (s : State) (f : PeerFrame) : State :=
  if s.peer.link = .up then { s with peer := { s.peer with sent := s.peer.sent ++ [f] } } else s

/-! ### Applies (chapters 1 and 10) -/

/-- A record applied to a slot: the active copy is replaced and the revision counts (R1). -/
def Slot.applyRecord (sl : Slot) (r : StateRecord) : Slot :=
  { sl with active := some r, revision := (sl.revision + 1) % 65536 }

/-- A pending copy applied, with its tag removed (R1, R161). -/
def Slot.applyStaged (sl : Slot) : Slot :=
  match sl.staged with
  | some (_, r) => { sl.applyRecord r with staged := none }
  | none => sl

/-- A pending copy tagged by a port discarded (R157). -/
def Slot.discardOf (p : Port) (sl : Slot) : Slot :=
  match sl.staged with
  | some (q, _) => if q = p then { sl with staged := none } else sl
  | none => sl

/-- Some slot has a pending copy. -/
def ProgramStore.anyStaged (st : ProgramStore) : Bool := st.slots.toList.any fun sl => sl.staged.isSome

/-- Slots holding a pending copy tagged by a port (R155). -/
def ProgramStore.stagedBy (st : ProgramStore) (p : Port) : Nat :=
  (st.slots.toList.filter fun sl =>
    match sl.staged with
    | some (q, _) => decide (q = p)
    | none => false).length

/-- An apply point: where neither port holds, every pending copy is applied, and EDITS_APPLIED is
raised if there was one (R161). -/
def State.applyPoint (s : State) : State :=
  if s.noHold && s.store.anyStaged then
    State.raiseBoth { s with store := { s.store with slots := mapSlots Slot.applyStaged s.store.slots } }
      .editsApplied
  else s

/-! ### Program walks (section 1.6) -/

/-- The states that a record leads to, in the order of R19: conditions, then the timeout if the
duration is not 0. -/
def StateRecord.targets (r : StateRecord) : List (Fin 32) :=
  (r.conditions.map (·.next) ++ if r.duration ≠ 0 then [r.timeoutNext] else []).filterMap fun n =>
    match n with
    | .state i => some i
    | .finish => none

/-- The entry index, from 1, of the first output action whose output is not STATE_DRIVEN (R20). -/
def badActionIndex (outputs : Vector Output 4) (n : Nat) : List OutputAction → Option Nat
  | [] => none
  | a :: rest =>
      if outputs[a.output].role = .stateDriven then badActionIndex outputs (n + 1) rest else some n

/-- The check of one reached state: defined, then its output actions, active copy first (R19, R20). -/
def examineState (slots : Vector Slot 32) (outputs : Vector Output 4) (i : Fin 32) : Option RespData :=
  match slots[i].active with
  | none => some (.emptyTarget i)
  | some r =>
      match badActionIndex outputs 1 r.actions with
      | some n => some (.badAction i false n)
      | none =>
          match slots[i].staged with
          | none => none
          | some (_, q) =>
              match badActionIndex outputs 1 q.actions with
              | some n => some (.badAction i true n)
              | none => none

/-- The targets of a reached state: of its active copy, then of its pending copy (R19). -/
def targetsOf (slots : Vector Slot 32) (i : Fin 32) : List (Fin 32) :=
  (match slots[i].active with
   | some r => r.targets
   | none => [])
  ++ (match slots[i].staged with
      | some (_, r) => r.targets
      | none => [])

/-- States of a list that are not yet seen, each once, in order. -/
def newStates (seen : List (Fin 32)) : List (Fin 32) → List (Fin 32)
  | [] => []
  | i :: rest => if seen.contains i then newStates seen rest else i :: newStates (seen ++ [i]) rest

/-- The breadth-first walk: the states of the queue are examined in turn, and each state is taken
once. The fuel covers the 32 states (R19). Answers the first failure. -/
def walk (slots : Vector Slot 32) (outputs : Vector Output 4) :
    Nat → List (Fin 32) → List (Fin 32) → Option RespData
  | _, [], _ => none
  | 0, _ :: _, _ => none
  | fuel + 1, i :: queue, seen =>
      match examineState slots outputs i with
      | some failure => some failure
      | none =>
          let found := newStates seen (targetsOf slots i)
          walk slots outputs fuel (queue ++ found) (seen ++ found)

/-- The walk of ARM from the first state (R19, R20). -/
def State.armWalk (s : State) (first : Fin 32) : Option RespData :=
  walk s.store.slots s.outputs 32 [first] [first]

/-- The target check of a write to be staged while a shot is not IDLE: the record written stands in
place of the pending copy of its slot (R21). -/
def State.stagedWalk (s : State) (p : Port) (i : Fin 32) (r : StateRecord) : Option RespData :=
  match badActionIndex s.outputs 1 r.actions with
  | some n => some (.badAction i true n)
  | none =>
      let slots := s.store.slots.set i { s.store.slots[i] with staged := some (p, r) }
      let found := newStates [] r.targets
      walk slots s.outputs 32 found found

end Sys2Proof.Machine
end

