-- ==== Sys2Proof/Machine/Delivery.lean ====
section
/-! DEFINITION. What follows a change of the signal vector: exit conditions, the start-on-input match,
the ramp stop and the captures (R74); then the changes that the Breaker Model and the Peer Link
Controller make to the vector (chapters 5 and 9), and the handover of an input's role (R75). -/

namespace Sys2Proof.Machine

/-! ### Exit conditions (R31, R32) -/

/-- A condition whose action falls due becomes a candidate for the first boundary at or after now,
unless it is one already; while an entry is deferred no candidacy is taken (R32, R35). -/
def CondState.fallDue (c : CondState) (deferring : Bool) (boundary : Nat) : CondState :=
  if deferring then c
  else
    match c.candidate with
    | some _ => c
    | none => { c with candidate := some boundary }

/-- One condition re-evaluated against the vector at a change with time `t` (R31): on becoming true
its action is placed, or falls due at once; on becoming false its action is removed. -/
def CondState.evaluate (c : CondState) (i : Fin 4) (signals : Mask) (t now boundary : Nat)
    (deferring : Bool) (owner : Nat) (l : TimedList) : CondState × TimedList :=
  let holds := c.condition.holds signals
  if holds && !c.truth then
    let due := t + c.condition.hold * 100
    let c := { c with truth := true }
    if due ≤ now then (c.fallDue deferring boundary, l.placeAndTake)
    else (c, l.place due (.condition i) (some owner))
  else if !holds && c.truth then
    ({ c with truth := false }, l.keep fun a => decide (a.work ≠ .condition i))
  else (c, l)

/-- All conditions of the visit re-evaluated, in list order; entry `i` first. -/
def evaluateAll (signals : Mask) (t now boundary : Nat) (deferring : Bool) (owner : Nat) :
    Nat → List CondState → TimedList → List CondState × TimedList
  | _, [], l => ([], l)
  | i, c :: rest, l =>
      let one := c.evaluate (Fin.ofNat 4 i) signals t now boundary deferring owner l
      let others := evaluateAll signals t now boundary deferring owner (i + 1) rest one.2
      (one.1 :: others.1, others.2)

/-- The exit conditions at a change of the vector with time `t`, taken as the entry boundary where it
lies before it (R31). -/
def State.evaluateConditions (s : State) (t : Nat) : State :=
  match s.seq.visit with
  | none => s
  | some v =>
      let result := evaluateAll s.signals (max t v.entry) s.now s.nextBoundary s.seq.deferring v.entry 0
        v.conditions s.actions
      { s with seq := { s.seq with visit := some { v with conditions := result.1 } }
               actions := result.2 }

/-! ### The start-on-input match (R26) -/

/-- A change of a masked signal that makes the ON_INPUT match true fixes the first entry for the next
boundary; once fixed, it stands (R26). -/
def State.matchStart (s : State) (n : Nat) : State :=
  match s.seq.phase, s.seq.mode, s.seq.startBoundary with
  | .armed, some (.onInput mask value), none =>
      if mask.getLsbD n && masked s.signals mask value then
        { s with seq := { s.seq with startBoundary := some s.nextBoundary } }
      else s
  | _, _, _ => s

/-! ### The ramp stop (R63) -/

/-- The ramp value after `k` steps, held at the limit (R62). -/
def Ramp.valueAt (r : Ramp) (k : Nat) : Int :=
  let v := r.start + k * r.step
  if 0 < r.step then min v r.limit else max v r.limit

/-- The value in force at a time: that of the last step boundary at or before it, or the start
(R63; DEDUCED for a freeze and a step at one instant, log 29). -/
def Ramp.valueInForce (r : Ramp) (entry t : Nat) : Int := r.valueAt ((t - entry) / (r.dwell * 100))

/-- A signal that becomes active stops a ramp whose stop mask holds it (R63). -/
def State.freezeRamp (s : State) (n t : Nat) : State :=
  match s.seq.visit, s.synth.ramp.ramp with
  | some v, some r =>
      let running : Bool := decide (s.synth.ramp.state = .stepping ∨ s.synth.ramp.state = .atLimit)
      if running && decide (s.synth.ramp.entry = v.entry) && r.stopMask.getLsbD n then
        let at_ := max t v.entry
        State.offer { s with synth := { s.synth with ramp := { s.synth.ramp with state := .frozen } } }
          (s.shotTime at_) (.rampResult v.state r.target r.quantity (some (r.valueInForce v.entry at_)))
      else s
  | _, _ => s

/-! ### Captures (R105) -/

/-- An OPEN capture takes the first activation of a signal in its mask (R105). -/
def Capturing.activate (c : Capturing) (n t : Nat) : Capturing :=
  match c.capture with
  | .waiting => if c.assessment.mask.getLsbD n then { c with capture := .captured t } else c
  | _ => c

/-- The captures of the context at an activation with shot time `t`, taken as the entry where it lies
before it (R105). -/
def State.capture (s : State) (n t : Nat) : State :=
  { s with assess := s.assess.map fun ctx =>
      { ctx with captures := ctx.captures.map fun c => c.activate n (max (s.shotTime t) ctx.entry) } }

/-! ### A change of the vector (R74) -/

/-- Signal `n` has changed to `active` with change time `t`: every consumer takes it (R74, R88, R153). -/
def State.deliver (s : State) (n : Nat) (active : Bool) (t : Nat) : State :=
  let s := (s.evaluateConditions t).matchStart n
  if active then (s.freezeRamp n t).capture n t else s

/-! ### Teleprotection receive (R153) -/

/-- The level that receive takes: applied in RUNNING in an unblocked state, 0 in every other case
(R153). -/
def State.receiveLevel (s : State) : Bool :=
  match s.seq.phase, s.seq.visit with
  | .running, some v => s.tp.applied && !v.record.tpBlocked
  | _, _ => false

/-- The TP_RECEIVE outputs take the receive level (R153). -/
def Teleprotection.outputLevel (tp : Teleprotection) : OutputRole → Option Bool
  | .tpReceive => some tp.receive
  | _ => none

/-- Receive is set; a change is delivered as signal 15 with change time `t` and drives the TP_RECEIVE
outputs (R153). A RAMP_RESULT of the delivery comes before the OUTPUT_CHANGE records: DESIGN CHOICE (log 40). -/
def State.refreshReceive (s : State) (t : Nat) : State :=
  if s.receiveLevel = s.tp.receive then s
  else
    let s := { s with tp := { s.tp with receive := s.receiveLevel } }
    let s := s.deliver 15 s.tp.receive t
    s.refreshOutputs .teleprotection s.tp.outputLevel

/-- A TP_EVENT record, within the phases of R152. -/
def State.offerTpEvent (s : State) (k : TpEventKind) : State :=
  if s.shotActive then s.offer (s.shotTime s.now) (.tpEvent k) else s

/-- An edge is applied: applied takes its level, and receive follows (R153). -/
def State.applyEdge (s : State) (level : Bool) (t : Nat) : State :=
  State.refreshReceive { s with tp := { s.tp with applied := level } } t

/-- An edge taken from the source: placed, LATE or DROPPED (R152). The TP_EVENT of a LATE edge comes after the
records of what its level changes: DESIGN CHOICE (log 40). -/
def State.takeEdge (s : State) (level : Bool) (eventTime : AbsTime) : State :=
  let s := { s with tp := { s.tp with lastReceived := level } }
  let ahead := s.aheadOf (eventTime + s.tp.delay * 100)
  if ahead ≤ 0 then State.offerTpEvent (s.applyEdge level s.now) .late
  else if s.actions.hasFree .tpEdge then
    { s with actions := s.actions.place (s.now + ahead.toNat) (.tpEdge level) none }
  else State.offerTpEvent { s with tp := { s.tp with resync := true } } .dropped

/-- The resync check, after an action has fallen due, where no TP_EDGE action is left (R154). Its TP_EVENT comes
after the records of what receive changes: DESIGN CHOICE (log 40). -/
def State.resyncCheck (s : State) : State :=
  if s.tp.resync && decide (s.actions.held .tpEdge = 0) then
    let s := { s with tp := { s.tp with resync := false } }
    if s.tp.applied = s.tp.lastReceived then s
    else State.offerTpEvent (s.applyEdge s.tp.lastReceived s.now) .resync
  else s

/-! ### The poles (chapter 5) -/

/-- The channel is linked to the pole (R95). -/
def SynthChannel.linkedTo (c : SynthChannel) (p : Pole) : Bool := decide (c.link = some p)

/-- Every channel linked to the pole is SILENCED (R95). -/
def State.allSilenced (s : State) (p : Pole) : Bool :=
  allChannels.all fun ch =>
    !(s.synth.channels.get ch).linkedTo p || decide ((s.synth.channels.get ch).silencing = .silenced)

/-- A pole whose interruption is IN_PROGRESS and whose linked channels are all SILENCED completes it
(R95). -/
def State.settleInterruptions (s : State) : State :=
  let poles := s.breaker.poles.mapWith fun p q =>
    if q.interruption = .inProgress && s.allSilenced p then { q with interruption := .complete } else q
  { s with breaker := { s.breaker with poles := poles } }

/-- The linked channels of a pole that opens with interruption NONE: INTERRUPTING while the channels
are injecting (R67), SILENCED where they are muted (R97; DEDUCED, log 17). -/
def SynthChannel.poleOpened (c : SynthChannel) (injecting : Bool) : SynthChannel :=
  if injecting then
    match c.silencing with
    | .conducting => { c with silencing := .interrupting }
    | _ => c
  else { c with silencing := .silenced }

/-- The linked channels of a pole that closes: a SILENCED one resumes at the next sample formed, an
INTERRUPTING one was never silenced (R67, R93). -/
def SynthChannel.poleClosed (c : SynthChannel) : SynthChannel :=
  match c.silencing with
  | .conducting => c
  | .interrupting => { c with silencing := .conducting }
  | .silenced => { c with silencing := .conducting, resuming := true }

/-- The same change of every channel linked to a pole. -/
def State.onLinked (s : State) (p : Pole) (f : SynthChannel → SynthChannel) : State :=
  let channels := s.synth.channels.mapWith fun _ c => if c.linkedTo p then f c else c
  { s with synth := { s.synth with channels := channels } }

/-- A pole takes a new state. -/
def State.setPole (s : State) (p : Pole) (q : PoleState) : State :=
  { s with breaker := { s.breaker with poles := s.breaker.poles.set p q } }

/-- Each open signal that differs from what it was is delivered, in the order A, B, C, with this instant as
its change time (R88, R100, R102). -/
def State.deliverPoles (s : State) (before : PerPole PoleState) : State :=
  allPoles.foldl (fun s p =>
    if (before.get p).openSignal = (s.breaker.poles.get p).openSignal then s
    else s.deliver (Pole.signal p) (s.breaker.poles.get p).openSignal s.now) s

/-- A BREAKER_OP record, within the logging window (R98). -/
def State.offerBreakerOp (s : State) (p : Pole) (o : BreakerOutcome) (delayedZero : Bool) (t : Nat) : State :=
  if s.shotActive then s.offer (s.shotTime t) (.breakerOp p o delayedZero) else s

/-- An interruption begins with an OPEN at `t` (R95); while the channels are muted it completes at the
same instant (R97). -/
def State.beginInterruption (s : State) (p : Pole) (t : Nat) : State :=
  let s := s.onLinked p fun c => c.poleOpened s.injecting
  State.settleInterruptions
    (s.setPole p { s.breaker.poles.get p with interruption := .inProgress, start := some t })

/-- The completion of an opening action with due time `t` (R92, steps 1 to 5). -/
def State.completeOpening (s : State) (p : Pole) (t : Nat) : State :=
  let s := s.offerBreakerOp p .opened false t
  let s := s.setPole p { s.breaker.poles.get p with position := .opened }
  let s := if (s.breaker.poles.get p).interruption = .none then s.beginInterruption p t else s
  let s :=
    if (s.breaker.poles.get p).openSignal then s
    else (s.setPole p { s.breaker.poles.get p with openSignal := true }).deliver (Pole.signal p) true t
  s.refreshAux

/-- The completion of a close action with due time `t` (R93, steps 1 to 4). -/
def State.completeClosing (s : State) (p : Pole) (t : Nat) : State :=
  let s := s.offerBreakerOp p .closed false t
  let s := (s.setPole p { s.breaker.poles.get p with
      position := .closed, interruption := .none, start := none }).onLinked p (·.poleClosed)
  let s :=
    if (s.breaker.poles.get p).openSignal then
      (s.setPole p { s.breaker.poles.get p with openSignal := false }).deliver (Pole.signal p) false t
    else s
  s.refreshAux

/-- A pole action is placed, or completes at once where its due time is reached (R91, R140). -/
def State.placePole (s : State) (p : Pole) (op : PoleOp) (due : Nat) : State :=
  if due ≤ s.now then
    let s := { s with actions := s.actions.placeAndTake }
    match op with
    | .opening => s.completeOpening p due
    | .closing => s.completeClosing p due
  else { s with actions := s.actions.place due (.pole p op) none }

/-- The pending action of a pole is removed without completing (R91, R141). -/
def State.dropPole (s : State) (p : Pole) : State :=
  { s with actions := s.actions.keep fun a =>
      match a.work with
      | .pole q _ => decide (q ≠ p)
      | _ => true }

/-- A trip activation reaches a pole (R89, Table 5-3). -/
def State.tripPole (s : State) (t : Nat) (p : Pole) : State :=
  let due := t + s.breaker.tripTime * 100
  match (s.breaker.poles.get p).position with
  | .closed =>
      ((s.setPole p { s.breaker.poles.get p with position := .opening }).refreshAux).placePole p .opening due
  | .closing =>
      (((s.dropPole p).setPole p { s.breaker.poles.get p with position := .opening }).refreshAux).placePole p
        .opening due
  | .opening => s
  | .opened => s

/-- A close activation at a pole (R90, Table 5-4). -/
def State.closePole (s : State) (t : Nat) (p : Pole) : State :=
  match (s.breaker.poles.get p).position with
  | .opened =>
      if s.tripActive p then s.offerBreakerOp p .refused false t
      else
        ((s.setPole p { s.breaker.poles.get p with position := .closing }).refreshAux).placePole p .closing
          (t + s.breaker.closeTime * 100)
  | .opening => s.offerBreakerOp p .refused false t
  | .closed => s
  | .closing => s

/-- The poles that a trip role reaches (R89). -/
def tripReach : InputRole → List Pole
  | .tripA => [.a]
  | .tripB => [.b]
  | .tripC => [.c]
  | .trip3P => allPoles
  | _ => []

/-- The pole is already reached by another active trip role, so that this activation makes no second
one (R89); a role that gives way in the same change reaches it no longer (log 19). `old` is the state before the
change. -/
def alreadyTripped (old s : State) (r : InputRole) (p : Pole) : Bool :=
  match r with
  | .trip3P => old.roleActive (Pole.tripRole p) && s.roleActive (Pole.tripRole p)
  | _ => old.roleActive .trip3P && s.roleActive .trip3P

/-- A role activates with change time `t`: trips and closes go to the Breaker Model, which does
nothing while the simulation is disabled (R75, R89, R90, R102). A trip takes the poles it reaches from A to C, as
R90 has a close do: DESIGN CHOICE, seen only in the order of records (log 40). -/
def State.roleActivates (old s : State) (r : InputRole) (t : Nat) : State :=
  if s.breaker.enabled then
    match r with
    | .close => allPoles.foldl (fun s p => s.closePole t p) s
    | _ => (tripReach r).foldl (fun s p => if alreadyTripped old s r p then s else s.tripPole t p) s
  else s

/-- CARRIER_SEND changed: in local-loop mode it is a received edge (R75, R151). -/
def State.carrierChanges (s : State) (level : Bool) (eventTime : AbsTime) : State :=
  match s.tp.source with
  | .localLoop => s.takeEdge level eventTime
  | .peer => s

/-- The roles with a role state (R75). -/
def statefulRoles : List InputRole := [.tripA, .tripB, .tripC, .trip3P, .close, .carrierSend]

/-- The role changes between two states are handed over: deactivations, which only CARRIER_SEND
acts on, and activations (R75). `t` is local, `eventTime` absolute. -/
def State.handOverRoles (old s : State) (t : Nat) (eventTime : AbsTime) : State :=
  let s := statefulRoles.foldl (fun s r =>
    if !old.roleActive r && s.roleActive r then State.roleActivates old s r t else s) s
  if old.roleActive .carrierSend = s.roleActive .carrierSend then s
  else s.carrierChanges (s.roleActive .carrierSend) eventTime

/-- The EVENT frame of a change of an input (R149): one for each accepted change of a peer-linked shot,
and one for a CARRIER_SEND role change while no such shot is active. The fields of the EVENT that a
CONFIG_INPUT causes are a DESIGN CHOICE (log 24). -/
def State.sendEvent (old s : State) (n : Fin 12) (accepted : Bool) (eventTime : AbsTime) : State :=
  let carrier : Bool := decide (old.roleActive .carrierSend ≠ s.roleActive .carrierSend)
  if accepted && s.peerShot then
    s.send (.event (n.val + 1) s.inputs.inputs[n].role s.inputs.inputs[n].active eventTime true carrier)
  else if carrier then
    s.send (.event (n.val + 1) .carrierSend (s.roleActive .carrierSend) eventTime false true)
  else s

/-- A change of an input is handed to its consumers (R76, step 3): the signal's consumers, then the
roles, then the Peer Link Controller (DESIGN CHOICE of order, log 13). `old` is the state before the
change; `accepted` says that the change came from the pin. -/
def State.inputChanged (old s : State) (n : Fin 12) (accepted : Bool) (t : Nat) (eventTime : AbsTime) : State :=
  let active := s.inputs.inputs[n].active
  let changed : Bool := decide (old.inputs.inputs[n].active ≠ active)
  let s := if changed then (s.deliver n.val active t).raiseBoth .inputChanged else s
  let s := State.handOverRoles old s t eventTime
  State.sendEvent old s n accepted eventTime

end Sys2Proof.Machine
end

