-- ==== Sys2Proof/Machine/Shot.lean ====
section
/-! DEFINITION. What the parts of a shot share: the working set and its load (chapter 3), the sequencer's
choice (R33, R34), the end of a visit (R29), the abort causes (R37 to R40), the entry to CLOSING (R44)
and the entry of a state (R30). -/

namespace Sys2Proof.Machine

/-! ### The working set (R50, R51, R56, R61) -/

/-- A quantity of a channel's working set is set, and its constant computed (R50, R51). -/
def SynthChannel.setQuantity (c : SynthChannel) (cfg : ChannelConfig) (q : Quantity) (v : Int) : SynthChannel :=
  match q with
  | .amplitude => { c with amplitude := v.toNat, peak := peakCode v.toNat cfg.range cfg.trim }
  | .phase => { c with phase := v, phaseOffset := angleCode v }
  | .frequency => { c with frequency := v.toNat, increment := incrementOf v.toNat }

/-- The working amplitude, phase and frequency of a channel entry (R55, R56). -/
def SynthChannel.loadEntry (c : SynthChannel) (cfg : ChannelConfig) (e : ChannelEntry) : SynthChannel :=
  ((c.setQuantity cfg .amplitude e.amplitude).setQuantity cfg .phase e.phase).setQuantity cfg .frequency
    e.frequency

/-- The pole that a breaker_link field resolves to (R5). -/
def BreakerLink.resolve (l : BreakerLink) (cfg : ChannelConfig) : Option Pole :=
  match l with
  | .configured => cfg.link
  | .pole p => some p
  | .none => Option.none

/-- The value that a ramp value gives one channel of its target: the value itself, but for phases B
and C of a group, which keep their spacing from phase A (R61). -/
def Ramp.channelValue (r : Ramp) (entries : PerChannel ChannelEntry) (c : Channel) (v : Int) : Int :=
  match r.quantity, r.target with
  | .phase, .group g =>
      if c = g.phaseA then v
      else wrapAngle ((entries.get c).phase + v - (entries.get g.phaseA).phase)
  | _, _ => v

/-- A ramp value set on the channels of the target (R61, R62). -/
def setRampValue (channels : PerChannel SynthChannel) (cfg : PerChannel ChannelConfig)
    (entries : PerChannel ChannelEntry) (r : Ramp) (v : Int) : PerChannel SynthChannel :=
  channels.mapWith fun c ch =>
    if r.target.covers c then ch.setQuantity (cfg.get c) r.quantity (r.channelValue entries c v) else ch

/-- The running phase of a channel at this boundary (R34, R49). -/
def SynthChannel.running (c : SynthChannel) : Angle := c.acc + c.phaseOffset

/-- The silencing state of a channel placed by its link (R68). -/
def placeSilencing (poles : PerPole PoleState) : Option Pole → Silencing
  | none => .conducting
  | some p =>
      match (poles.get p).interruption with
      | .none => .conducting
      | .inProgress => .interrupting
      | .complete => .silenced

/-- The ramp context of an entered record (R61). -/
def rampContextOf (r : Option Ramp) (entry : Nat) : RampContext :=
  match r with
  | none => { ramp := none, value := 0, state := .none, nextStep := 1, entry := entry }
  | some r =>
      { ramp := some r, value := r.start, nextStep := 1, entry := entry
        state := if r.limit = r.start then .atLimit else .stepping }

/-- A channel's link, decay factor, silencing and flags at a state entry (R56, R57, R68). -/
def SynthChannel.relink (c : SynthChannel) (poles : PerPole PoleState) (cfg : ChannelConfig) (e : ChannelEntry)
    (first : Bool) : SynthChannel :=
  let link := e.link.resolve cfg
  { c with link := link, decay := decayFactor e.offsetTau, clipRecorded := false, resuming := false
           silencing := if first || decide (link ≠ c.link) then placeSilencing poles link else c.silencing }

/-- The continuity offset at a state entry: the last sample less the first AC sample of the reloaded
working set, for a channel that is not SILENCED and has an offset_tau (R57, R67). -/
def SynthChannel.continuity (c : SynthChannel) (tau : Nat) : SynthChannel :=
  { c with offset :=
      if c.silencing = .silenced ∨ tau = 0 then 0 else c.last - acSample c.peak c.running }

/-- The synthesizer's part of a state entry (R56, R57, R61, R68). -/
def State.loadSynth (s : State) (r : StateRecord) (first : Bool) : State :=
  let cfg := s.store.config
  let channels := s.synth.channels.mapWith fun c ch =>
    (ch.loadEntry (cfg.get c) (r.channels.get c)).relink s.breaker.poles (cfg.get c) (r.channels.get c) first
  let channels :=
    match r.ramp with
    | some ramp => setRampValue channels cfg r.channels ramp ramp.start
    | none => channels
  let channels := channels.mapWith fun c ch => ch.continuity (r.channels.get c).offsetTau
  State.settleInterruptions { s with synth := { channels := channels, ramp := rampContextOf r.ramp s.now } }

/-! ### The sequencer's choice (R32 to R34) -/

/-- The condition candidate with the lowest index whose boundary has come (R33). -/
def firstCandidate (now : Nat) : Nat → List CondState → Option (Nat × Condition)
  | _, [] => none
  | i, c :: rest =>
      match c.candidate with
      | some b => if b ≤ now then some (i, c.condition) else firstCandidate now (i + 1) rest
      | none => firstCandidate now (i + 1) rest

/-- The inception that an entry to a target waits for, read on its active copy (R34, R162). -/
def State.inceptionOf (s : State) : Next → Option Inception
  | .state i =>
      match s.store.slots[i].active with
      | some r => r.inception
      | none => none
  | .finish => none

/-- A transition to a target, replaced by END where an AT_STATE_END abort is pending (R43). -/
def State.transitionTo (s : State) (target : Next) (cause : EntryCause) : Chosen :=
  let target := if s.seq.endAtExit then .finish else target
  { target := target, cause := cause, boundary := s.now, inception := s.inceptionOf target }

/-- The transition that the sequencer takes at this boundary: the one already chosen, else the
condition candidate with the lowest index, else the timeout (R33). -/
def State.transition (s : State) : Option Chosen :=
  match s.seq.chosen with
  | some c => some c
  | none =>
      match s.seq.visit with
      | none => none
      | some v =>
          match firstCandidate s.now 0 v.conditions with
          | some (i, c) => some (s.transitionTo c.next (.condition (Fin.ofNat 4 i)))
          | none =>
              if v.timeoutAt = some s.now then some (s.transitionTo v.record.timeoutNext .timeout) else none

/-- The reference channel has reached the inception angle at this boundary, or there is no inception
(R34). -/
def State.inceptionReached (s : State) : Option Inception → Bool
  | none => true
  | some i =>
      let c := s.synth.channels.get i.reference
      phaseReached c.running c.increment i.angle

/-- The shot limit falls at this boundary (R36). -/
def State.limitHere (s : State) : Bool :=
  match s.seq.firstEntryAt with
  | some f => decide (f + 3600000000 ≤ s.now)
  | none => false

/-- A soft abort ends the visit at this boundary (R37). -/
def State.softEndHere (s : State) : Bool :=
  match s.seq.softEnd with
  | some e => decide (e ≤ s.now)
  | none => false

/-- The sequencer's choice can be taken now: RUNNING, at an open boundary, with neither the shot limit
nor a soft abort ending the visit here (R36, R37). -/
def State.choiceOpen (s : State) : Bool :=
  decide (s.seq.phase = .running) && s.openBoundary && !s.limitHere && !s.softEndHere

/-- The transition that ends the visit at this boundary: one to END, or one whose entry is not deferred
beyond it (R33, R34, R36). -/
def State.exitHere (s : State) : Option Chosen :=
  if s.choiceOpen then
    match s.transition with
    | some c =>
        match c.target with
        | .finish => some c
        | .state _ => if s.inceptionReached c.inception then some c else none
    | none => none
  else none

/-- The visit ends at this boundary, so that a ramp step due here is not made (R62). -/
def State.visitEndsHere (s : State) : Bool :=
  decide (s.seq.phase = .running) && s.openBoundary
    && (s.limitHere || s.softEndHere || s.exitHere.isSome)

/-- An output action due at this boundary is to be removed unfired: the visit ends here, and its end stood
fixed for this boundary before it was reached. Where the end is fixed only at this instant, the action and
what ends the visit are taken in whichever order (R84, R141). -/
def State.outputWithheld (s : State) : Bool := s.time.endFixed && s.visitEndsHere

/-! ### The action that falls due next (R140) -/

def Work.isOutput : Work → Bool
  | .stateOutput .. => true
  | _ => false

/-- An action may fall due: its due time is reached, and it is no output action that the end of its visit
withholds (R84, R140). -/
def State.mayFallDue (s : State) (a : TimedAction) : Bool :=
  decide (a.due ≤ s.now) && !(s.outputWithheld && a.work.isOutput)

/-- The action that falls due next: the first in list order that may (R140). An output action that is withheld
waits for its removal and holds back none behind it (R84, R141). -/
def State.dueAction (s : State) : Option TimedAction := s.actions.entries.find? s.mayFallDue

/-- The action that falls due leaves the list (R140). -/
def State.dropDue (s : State) : State :=
  { s with actions := { s.actions with entries := s.actions.entries.eraseP s.mayFallDue } }

/-! ### The end of a visit (R29, R64, R106 to R108) -/

/-- The ASSESSMENT record of one assessment (R108). -/
def Capturing.body (c : Capturing) (state : Fin 32) (byAbort : Bool) (entry entryIndex : Nat) : RecordBody :=
  .assessment state entryIndex (c.verdict byAbort entry).1 (c.verdict byAbort entry).2
    c.assessment.windowLow c.assessment.recordedHigh

/-- The ASSESSMENT records of a context in list order, entry `n` first (R108). -/
def assessmentBodies (state : Fin 32) (byAbort : Bool) (entry : Nat) : Nat → List Capturing → List RecordBody
  | _, [] => []
  | n, c :: rest => c.body state byAbort entry n :: assessmentBodies state byAbort entry (n + 1) rest

/-- The verdicts of a context counted (R115). -/
def countVerdicts (byAbort : Bool) (entry : Nat) (v : VerdictCounts) (cs : List Capturing) : VerdictCounts :=
  cs.foldl (fun v c => v.add (c.verdict byAbort entry).1) v

/-- The NO_PICKUP record of a visit whose ramp was not frozen (R64). -/
def State.noPickup (s : State) (v : Visit) : Option RecordBody :=
  match s.synth.ramp.ramp with
  | some r =>
      let running : Bool := decide (s.synth.ramp.state = .stepping ∨ s.synth.ramp.state = .atLimit)
      if running && decide (s.synth.ramp.entry = v.entry) then
        some (.rampResult v.state r.target r.quantity none)
      else none
  | none => none

/-- A record put at place `k` of a list. -/
def insertAt (b : RecordBody) : Nat → List RecordBody → List RecordBody
  | 0, l => b :: l
  | _ + 1, [] => [b]
  | k + 1, x :: rest => x :: insertAt b k rest

/-- The current visit ends (R29): its captures give verdicts and records, its CONDITION and STATE_OUTPUT
actions are removed, an unfrozen ramp writes NO_PICKUP, and the sequencer's visit items are cleared.
The place of NO_PICKUP among the ASSESSMENT records is free (R108; log 14). -/
def State.endVisit (s : State) (byAbort : Bool) : State :=
  match s.seq.visit with
  | none => s
  | some v =>
      let captures := (s.assess.map (·.captures)).getD []
      let entry := (s.assess.map (·.entry)).getD 0
      let verdicts := assessmentBodies v.state byAbort entry 1 captures
      let noPickup := s.noPickup v
      let bodies :=
        match noPickup with
        | some b => insertAt b (s.freeChoice (verdicts.length + 1)) verdicts
        | none => verdicts
      let s := { s with
        seq := { s.seq with visit := none, chosen := none, deferring := false, softEnd := none }
        assess := none
        actions := s.actions.keep fun a => a.owner.isNone
        log := { s.log with verdicts := countVerdicts byAbort entry s.log.verdicts captures }
        freeUsed := s.freeUsed + 1 }
      s.offerAll (s.shotTime s.now) bodies

/-! ### The entry to CLOSING (R44) -/

/-- A channel muted at the end of a shot (R54, R97). -/
def SynthChannel.mute (c : SynthChannel) : SynthChannel :=
  { c with offset := 0, last := 0
           silencing := if c.silencing = .interrupting then .silenced else c.silencing }

/-- A pole whose interruption is completed by the muting of the channels (R97). -/
def PoleState.settle (q : PoleState) : PoleState :=
  if q.interruption = .inProgress then { q with interruption := .complete } else q

/-- Only pole actions stay on the list (R44, R141). -/
def Work.isPole : Work → Bool
  | .pole .. => true
  | _ => false

/-- STATE_DRIVEN outputs return to 0 (R85). -/
def closingLevel : OutputRole → Option Bool
  | .stateDriven => some false
  | _ => none

/-- The phase becomes CLOSING (R44, R66, R85, R97, R141, R153, R164). The OUTPUT_CHANGE records of receive come
before those of the STATE_DRIVEN outputs: DESIGN CHOICE (log 40). -/
def State.enterClosing (s : State) : State :=
  let channels := s.synth.channels.mapWith fun _ c => c.mute
  let poles := s.breaker.poles.mapWith fun _ q => q.settle
  let s := { s with
    seq := { s.seq with phase := .closing, closingAt := some s.now, startBoundary := none, chosen := none,
                        deferring := false, softEnd := none, rampDownAt := none, endAtExit := false }
    guard := { s.guard with expiry := none }
    synth := { s.synth with channels := channels }
    breaker := { s.breaker with poles := poles } }
  let s := s.refreshReceive s.now
  let s := { s with
    actions := s.actions.keep fun a => a.work.isPole
    tp := { s.tp with applied := s.tp.lastReceived, resync := false } }
  s.refreshOutputs .close closingLevel

/-- RAMPING_DOWN begins at this boundary: the visit ends as one ended by an abort (R37, R65). Its records come
before those of the outputs that fall with receive: DESIGN CHOICE (log 40). -/
def State.startRampDown (s : State) : State :=
  let s := s.endVisit true
  let channels := s.synth.channels.mapWith fun _ c => { c with offset := 0 }
  let s := { s with
    seq := { s.seq with phase := .rampingDown, rampDownAt := some s.now, softEnd := none, chosen := none,
                        deferring := false, endAtExit := false }
    guard := { s.guard with expiry := none }
    synth := { s.synth with channels := channels } }
  (s.refreshReceive s.now).passBoundary

/-! ### Abort causes (R37 to R40, R148) -/

/-- The ABORT frame of an end cause: every cause but PEER_ABORT and PEER_LOST (R148). -/
def State.sendAbort (s : State) (c : AbortCause) : State :=
  if s.seq.peerLinked && decide (c ≠ .peerAbort) && decide (c ≠ .peerLost) then s.send (.abort c) else s

/-- A cause taken as the end cause: stored, recorded and sent to the far end; a pending AT_STATE_END is
dropped (R37, R43, R148). -/
def State.takeEndCause (s : State) (c : AbortCause) : State :=
  let s := { s with seq := { s.seq with endCause := some (.abort c), endAtExit := false } }
  (s.offer (s.shotTime s.now) (.abort c false)).sendAbort c

/-- A cause taken after the end cause: the first is stored as the secondary cause and recorded, later ones are not
(R40); each drops a pending AT_STATE_END (R43, Table 2-5). -/
def State.takeSecondary (s : State) (c : AbortCause) : State :=
  let t := { s with seq := { s.seq with secondary := some (s.seq.secondary.getD c), endAtExit := false } }
  match s.seq.secondary with
  | some _ => t
  | none => t.offer (s.shotTime s.now) (.abort c false)

/-- A cause taken in RUNNING: the end cause, or, where a soft abort already waits for its boundary, the
secondary cause (R37; Table 2-2; DEDUCED, log 12). -/
def State.takeRunningCause (s : State) (c : AbortCause) : State :=
  match s.seq.endCause with
  | none => s.takeEndCause c
  | some _ => s.takeSecondary c

/-- An abort taken in ARMED: CLOSING at once, and any agreement dropped (R39, R145, R146). -/
def State.abortArmed (s : State) (c : AbortCause) : State :=
  let s := s.takeEndCause c
  State.enterClosing { s with peer := { s.peer with agreement := .none } }

/-- A soft abort (R37, R39, R40): in RUNNING it ends the visit at the next boundary. -/
def State.softAbort (s : State) (c : AbortCause) : State :=
  match s.seq.phase with
  | .armed => s.abortArmed c
  | .running =>
      let e := s.seq.softEnd.getD s.nextBoundary
      let s := s.takeRunningCause c
      { s with seq := { s.seq with softEnd := some e } }
  | .rampingDown => s.takeSecondary c
  | .closing => s
  | .idle => s

/-- A hard abort (R38 to R40). Its ABORT record stands before the records of the visit that it ends: DESIGN
CHOICE of order, which R111 leaves open (log 42); and so is that these stand before the records of the outputs
that fall (log 40). -/
def State.hardAbort (s : State) (c : AbortCause) : State :=
  match s.seq.phase with
  | .armed => s.abortArmed c
  | .running => State.enterClosing ((s.takeRunningCause c).endVisit true)
  | .rampingDown => (s.takeSecondary c).enterClosing
  | .closing => s
  | .idle => s

/-- An abort cause by its kind (Table 2-4). -/
def State.abortWith (s : State) (c : AbortCause) : State :=
  if AbortCause.isHard c then s.hardAbort c else s.softAbort c

/-- A cause that the guard hands to the sequencer raises GUARD_ABORT in ARMED, RUNNING and RAMPING_DOWN
(R163). -/
def State.guardCause (s : State) (c : AbortCause) : State :=
  match s.seq.phase with
  | .armed | .running | .rampingDown => (s.raiseBoth .guardAbort).abortWith c
  | .closing | .idle => s

/-! ### State entry (R30) -/

/-- One output action of an entered record (R83): a once-flagged one only on the first visit; an action
of delay 0 falls due at once. -/
def State.scheduleAction (s : State) (firstVisit : Bool) (a : OutputAction) : State :=
  if a.once && !firstVisit then s
  else if a.delay = 0 then
    State.setOutput { s with actions := s.actions.placeAndTake } a.output a.level .state
  else
    { s with actions := s.actions.place (s.now + a.delay * 100) (.stateOutput a.output a.level) (some s.now) }

/-- The capture of one assessment as the entry finds the vector (R104). -/
def Assessment.opened (a : Assessment) (signals : Mask) : Capturing :=
  { assessment := a, capture := if a.mask &&& signals = 0 then .waiting else .alreadyActive }

/-- A new context (R104). -/
def State.openContext (s : State) (i : Fin 32) (r : StateRecord) : State :=
  { s with assess := some ⟨i, s.shotTime s.now, r.assessments.map fun a => a.opened s.signals⟩ }

/-- A condition of an entered record, before it is evaluated (R31). -/
def Condition.unevaluated (c : Condition) : CondState := { condition := c, truth := false, candidate := none }

/-- A visit that begins at local time `b`, absolute time `abs`: the timeout is a candidate for the entry
plus the duration, unless the duration is 0 (R30, R32). -/
def Visit.opened (i : Fin 32) (b : Nat) (abs : AbsTime) (r : StateRecord) : Visit :=
  { state := i, entry := b, entryAbs := abs, record := r
    conditions := r.conditions.map Condition.unevaluated
    timeoutAt := if r.duration = 0 then none else some (b + r.duration * 100) }

/-- The sequencer's items at a state entry: the visit with its conditions not yet evaluated, the visit
count, the phase, and at a first entry the start time (R28, R30). -/
def State.beginVisit (s : State) (i : Fin 32) (r : StateRecord) (first : Bool) : State :=
  let b := s.now
  let firstAt := if first then some b else s.seq.firstEntryAt
  { s with
    seq := { s.seq with
      phase := .running, chosen := none, deferring := false, startBoundary := none
      firstEntryAt := firstAt
      startTime := if first then some s.timeOfDay else s.seq.startTime
      visitCounts := s.seq.visitCounts.set i (s.seq.visitCounts[i] + 1)
      lastEntry := some ⟨i, b - firstAt.getD b, s.timeOfDay⟩
      visit := some (Visit.opened i b s.timeOfDay r) }
    time := { s.time with boundaryPassed := true } }

/-- The keepalive timer started at the first entry of a shot with a guard period (R164). -/
def State.startKeepalive (s : State) : State :=
  { s with guard := { s.guard with
      expiry := if s.guard.period = 0 then none else some (s.now + s.guard.period * 1000) } }

/-- The entry of a state at this boundary, after the visit before it has ended and the applies have been
made (R28, R30): receive (R153, before the record of the entry: DESIGN CHOICE, log 30), conditions (R31),
STATE_ENTRY, the working set (R56), output actions (R83), captures (R104), the STATE frame (R148) and the
keepalive timer (R164). That STATE_ENTRY stands before the OUTPUT_CHANGE records of the output actions of delay
0 is a DESIGN CHOICE (log 40). -/
def State.enterState (s : State) (i : Fin 32) (r : StateRecord) (cause : EntryCause) (deferred first : Bool) :
    State :=
  let s := s.beginVisit i r first
  let s := s.refreshReceive s.now
  let s := s.evaluateConditions s.now
  let s := s.offer (s.shotTime s.now) (.stateEntry i cause deferred)
  let s := if first then s.raiseBoth .shotStarted else s
  let s := s.raiseBoth .stateEntered
  let s := s.loadSynth r first
  let s := r.actions.foldl (fun s a => s.scheduleAction (decide (s.seq.visitCounts[i] = 1)) a) s
  let s := s.openContext i r
  let s := if s.seq.peerLinked then s.send (.state i.val cause s.timeOfDay) else s
  if first then s.startKeepalive else s

end Sys2Proof.Machine
end

