-- ==== Sys2Proof/Machine/Lifecycle.lean ====
section
/-! DEFINITION. POWER_ON, SOFT_RESET, GET_STATUS, and the answers BAD_FRAME and UNKNOWN. -/

namespace Sys2Proof.Machine

/-- What a meaning answers. -/
abbrev Result := Host.Outcome State Fault Refusal

/-- A gated command: from the excluded port it is refused with AUTHORITY, and the response carries the
authority in force (R156). The frame has been taken as valid first (R164). -/
def State.gated (s : State) (p : Port) (command : State → State) : Result :=
  let s := s.takeFrame p
  .next (if s.excluded p then s.respond p .authority (.authority s.edit.authority) else command s)

/-- A command that no authority gates (Table 10-1). -/
def State.open_ (s : State) (p : Port) (command : State → State) : Result := .next (command (s.takeFrame p))

/-- POWER_ON: every block takes its power-on values. The E-STOP level is as found (R163); the levels at
the pins are the environment's (log 6). -/
def execPowerOn (level : EStopLevel) (s : State) : Result :=
  .next { State.reset with
    pending := s.pending
    inputs := { State.reset.inputs with pins := s.inputs.pins }
    guard := { State.reset.guard with eStop := level }
    freeUsed := s.freeUsed }

/-- BAD_FRAME: answered with no data and otherwise ignored; not a valid frame for the keepalive (R169). -/
def execBadFrame (p : Port) (s : State) : Result := .next (s.respond p .badFrame .none)

/-- UNKNOWN: answered with no data and otherwise ignored; a valid frame for the keepalive (R164, R169). -/
def execUnknown (p : Port) (s : State) : Result := .next ((s.takeFrame p).respond p .unknown .none)

/-! ### GET_STATUS (R170, Table 12-3) -/

/-- The SHOT section (R22, R46, R45 for the visit count after a shot, R115). -/
def State.shotStatus (s : State) : ShotStatus :=
  { phase := s.seq.phase, shotNumber := s.seq.shotNumber, mode := s.seq.mode
    currentState := s.seq.visit.map (·.state)
    entryShot := s.seq.visit.map fun v => s.shotTime v.entry
    entryAbs := s.seq.visit.map (·.entryAbs)
    visitCount := s.seq.lastEntry.map fun l => s.seq.visitCounts[l.state]
    startTime := s.seq.startTime, lastEntry := s.seq.lastEntry
    endCause := s.seq.endCause, secondary := s.seq.secondary, verdicts := s.log.verdicts }

/-- The CHANNELS section (R48, R70). -/
def State.channelStatus (s : State) : PerChannel ChannelStatus :=
  s.synth.channels.mapWith fun c ch =>
    { amplitude := ch.amplitude, phase := ch.phase, frequency := ch.frequency, last := ch.last
      silencing := ch.silencing, clip := ch.clip, amplifier := (s.amp.channels.get c).status }

/-- One input of the IO section (R71). -/
def Input.status (i : Input) : InputStatus :=
  { polarity := i.polarity, debounce := i.debounce, role := i.role, active := i.active
    lastChange := i.lastChange }

/-- One drain channel of the REPORT section (R119). -/
def Drain.status (d : Drain) (l : ReportLog) : DrainStatus :=
  { enabled := d.enabled, xOwner := d.x.owner, xCount := d.x.records.length, xNumber := d.x.number
    yOwner := d.y.owner, yCount := d.y.records.length, yNumber := d.y.number, toggle := d.toggle
    awaiting := (l.awaiting d).length }

/-- The assessment context in the REPORT section (R103). -/
def AssessContext.status (c : AssessContext) : ContextStatus :=
  { state := c.state, entry := c.entry, captures := c.captures.map (·.capture) }

/-- The BREAKER section (R87). -/
def Breaker.status (b : Breaker) : BreakerStatus :=
  { enabled := b.enabled, tripTime := b.tripTime, closeTime := b.closeTime
    poles := b.poles.mapWith fun _ q =>
      { position := q.position, interruption := q.interruption, openSignal := q.openSignal } }

/-- The REPORT section (R103, R109, R119). -/
def State.reportStatus (s : State) : ReportStatus :=
  { context := s.assess.map (·.status), held := s.log.records.length, free := s.log.free
    reservation := s.log.reservation, lost := s.log.lost, saturated := s.log.saturated
    drains := s.drains.map fun d => d.status s.log }

/-- The TIME section (R128, R138). -/
def State.timeStatus (s : State) : TimeStatus :=
  { seconds := s.time.seconds, counter := s.time.counter, lock := s.time.lock, good := s.time.good
    lastError := s.time.lastError, loaded := s.time.loaded, quality := s.time.quality
    degraded := s.time.degraded, poleCount := s.actions.held .pole, condCount := s.actions.held .condition
    outputCount := s.actions.held .stateOutput, tpCount := s.actions.held .tpEdge }

/-- The PEER section (R142). -/
def State.peerStatus (s : State) : PeerStatus :=
  { link := s.peer.link, farTag := s.peer.farTag, sendLeft := s.peer.sendAt - s.now
    lossLeft := s.peer.lossAt.map (· - s.now), agreement := s.peer.agreement
    lastReject := s.peer.lastReject, farState := s.peer.farState, farEnded := s.peer.farEnded
    lateDrops := s.peer.lateDrops, discards := s.peer.discards, tp := s.tp }

/-- The CONTROL section, with the notification sets of the asking port (R155, R163, R170). -/
def State.controlStatus (s : State) (p : Port) : ControlStatus :=
  { authority := s.edit.authority, hold := s.edit.hold
    pendingOf := { sequence := s.store.stagedBy .sequence, panel := s.store.stagedBy .panel }
    period := s.guard.period, timerLeft := s.guard.expiry.map (· - s.now), eStop := s.guard.eStop
    latches := s.guard.latches, requests := (s.ports.get p).requests
    enables := (s.ports.get p).enables, repeated := (s.ports.get p).repeated }

/-- The section with a code (Table 12-3). -/
def State.section_ (s : State) (p : Port) : Nat → Option StatusData
  | 0 => some (.shot s.shotStatus)
  | 1 => some (.channels s.channelStatus)
  | 2 => some (.io (s.inputs.inputs.toList.map (·.status)) s.signals s.outputs.toList)
  | 3 => some (.breaker s.breaker.status)
  | 4 => some (.report s.reportStatus)
  | 5 => some (.time s.timeStatus)
  | 6 => some (.peer s.peerStatus)
  | 7 => some (.control (s.controlStatus p))
  | _ => none

/-- GET_STATUS: the section as it stands, or RANGE for an unknown code (R170). -/
def execGetStatus (p : Port) (sect : Nat) (s : State) : Result :=
  s.open_ p fun s =>
    match s.section_ p sect with
    | some d => s.respond p .ok (.status d)
    | none => s.respond p .range (.param .sect)

/-! ### SOFT_RESET (R174) -/

/-- An output after soft reset: STATE_DRIVEN and TP_RECEIVE at 0, MANUAL kept, AUX as all poles CLOSED
give it (R80). -/
def Output.softReset (o : Output) : Output :=
  match o.role with
  | .none => { o with level := false }
  | .aux52A => { o with level := true }
  | .aux52B => { o with level := false }
  | .tpReceive => { o with level := false }
  | .stateDriven => { o with level := false }
  | .manual => o

/-- A drain channel after soft reset: the enable flag is kept, and a disabled channel has no positions
(R119). -/
def Drain.softReset (d : Drain) : Drain :=
  if d.enabled then Drain.powerOn
  else { Drain.powerOn with enabled := false, copyPos := none, consumedPos := none }

/-- A Port Interface after soft reset: requests and repeated bits empty, enables and buffer kept (R168,
R171). -/
def PortInterface.softReset (q : PortInterface) : PortInterface := { q with requests := 0, repeated := 0 }

/-- The Time Base after soft reset: the clock and its discipline whole, the shot items cleared (R128). -/
def TimeBase.softReset (t : TimeBase) : TimeBase :=
  { t with quality := .good, degraded := false, armedLocked := false }

/-- The peer link after soft reset: the items of a shot cleared (Table 9-1). -/
def PeerLink.softReset (l : PeerLink) : PeerLink :=
  { l with agreement := .none, lastReject := none, farState := none, farEnded := none }

/-- The teleprotection path after soft reset (Table 9-4). -/
def Teleprotection.softReset (t : Teleprotection) : Teleprotection :=
  { t with applied := t.lastReceived, receive := false, resync := false }

/-- A channel of the Amplifier Link after soft reset (R70). The frame sent last stands until the next
boundary (log 34). -/
def AmpChannel.softReset (c : AmpChannel) : AmpChannel := { c with status := .ok, overload := 0, missing := 0 }

/-- Every block takes its soft-reset values (R174). -/
def State.softReset (s : State) : State :=
  let poles : PerPole PoleState := { a := .powerOn, b := .powerOn, c := .powerOn }
  { s with
    store := { s.store with slots := mapSlots (fun sl => { sl with staged := none }) s.store.slots }
    edit := { s.edit with hold := { sequence := false, panel := false } }
    seq := { Sequencer.powerOn with shotNumber := s.seq.shotNumber }
    synth := Synthesizer.powerOn s.store.config
    amp := { s.amp with channels := s.amp.channels.mapWith fun _ c => c.softReset }
    outputs := s.outputs.map Output.softReset
    breaker := { s.breaker with poles := poles }
    assess := none
    log := ReportLog.empty
    drains := s.drains.map Drain.softReset
    time := s.time.softReset
    actions := { s.actions with entries := [] }
    peer := s.peer.softReset
    tp := s.tp.softReset
    guard := { s.guard with period := 0, expiry := none, latches := FaultLatches.allClear }
    ports := s.ports.map PortInterface.softReset }

/-- SOFT_RESET: a discarded peer-linked shot sends ABORT with cause ABORTED (R47, R142), every block
takes its soft-reset values, and the response flags a discarded shot (R174). -/
def execSoftReset (p : Port) (s : State) : Result :=
  s.gated p fun s =>
    let discarded := s.shotActive
    let s := if s.peerShot then s.send (.abort .aborted) else s
    s.softReset.respond p .ok (.flag (if discarded then .shotDiscarded else .none))

end Sys2Proof.Machine
end

