-- ==== Sys2Proof/Machine/BreakerEvents.lean ====
section
/-! DEFINITION. The pole actions that fall due: OPENING_ACTION_DUE and CLOSE_ACTION_DUE. -/

namespace Sys2Proof.Machine

/-- OPENING_ACTION_DUE: the opening action that falls due next completes (R92, R140). -/
def execOpeningActionDue (pole : Pole) (s : State) : Result :=
  .next (match s.dueAction with
    | some ⟨due, _, .pole p .opening, _⟩ => if p = pole then s.dropDue.completeOpening p due else s
    | _ => s)

/-- CLOSE_ACTION_DUE: the close action that falls due next completes (R93, R140). -/
def execCloseActionDue (pole : Pole) (s : State) : Result :=
  .next (match s.dueAction with
    | some ⟨due, _, .pole p .closing, _⟩ => if p = pole then s.dropDue.completeClosing p due else s
    | _ => s)

end Sys2Proof.Machine
end

