-- ==== Sys2Proof/Machine/Configuration.lean ====
section
/-! DEFINITION. The configuration commands, SET_OUTPUT and SET_TIME. -/

namespace Sys2Proof.Machine

/-! ### CONFIG_CHANNEL (R17, R18) -/

/-- The two ranges of a channel's kind (Table 1-5). -/
def rangeAllowed (c : Channel) (range : Nat) : Bool :=
  if c.isVoltage then decide (range = 150000 ∨ range = 300000) else decide (range = 12500 ∨ range = 50000)

/-- A record exceeds a range of a channel: by its amplitude, or by the start, limit or step magnitude of
an AMPLITUDE ramp on the channel or its group (R18). -/
def StateRecord.exceeds (r : StateRecord) (c : Channel) (range : Nat) : Bool :=
  decide (range < (r.channels.get c).amplitude)
    || match r.ramp with
       | some p =>
           decide (p.quantity = .amplitude) && p.target.covers c
             && decide ((range : Int) < p.start ∨ (range : Int) < p.limit ∨ range < p.step.natAbs)
       | none => false

/-- The copies of a slot that exceed a range. -/
def Slot.exceeds (sl : Slot) (c : Channel) (range : Nat) : Bool × Bool :=
  ((sl.active.map fun r => r.exceeds c range).getD false,
   (sl.staged.map fun q => q.2.exceeds c range).getD false)

/-- The first state, in index order, that would exceed a range, and which of its copies (R18). -/
def firstExceeding (slots : Vector Slot 32) (c : Channel) (range : Nat) : List (Fin 32) → Option RespData
  | [] => none
  | i :: rest =>
      match slots[i].exceeds c range with
      | (false, false) => firstExceeding slots c range rest
      | (a, b) => some (.conflictState i a b)

/-- A trim clamped to 29,491 to 36,045 (R17). -/
def clampTrim (trim : Nat) : Nat := max 29491 (min 36045 trim)

/-- CONFIG_CHANNEL: authority, phase, parameters, and a lowered range against the records (R17). That the
response carries the configuration stored is DEDUCED (log 19). -/
def execConfigChannel (p : Port) (channel range trim link : Nat) (s : State) : Result :=
  s.gated p fun s =>
    if s.shotActive then s.respond p .busy .none
    else
      match Channel.ofCode channel with
      | none => s.respond p .range (.param .channel)
      | some c =>
          if !rangeAllowed c range then s.respond p .range (.param .range)
          else
            match poleLinkOfCode link with
            | none => s.respond p .range (.param .link)
            | some l =>
                if c.isVoltage && l.isSome then s.respond p .range (.param .link)
                else
                  let conflict :=
                    if range < (s.store.config.get c).range then
                      firstExceeding s.store.slots c range (List.finRange 32)
                    else none
                  match conflict with
                  | some d => s.respond p .conflict d
                  | none =>
                      let cfg : ChannelConfig := { range := range, trim := clampTrim trim, link := l }
                      let s := { s with store := { s.store with config := s.store.config.set c cfg } }
                      s.respond p .ok (.channelConfig cfg)

/-! ### CONFIG_INPUT (R79) -/

/-- CONFIG_INPUT: the three items are replaced, and a change of active state or of a role state is
delivered with this instant as its change time. It is not logged (R79). -/
def execConfigInput (p : Port) (input polarity debounce role : Nat) (s : State) : Result :=
  s.gated p fun s =>
    if s.shotActive then s.respond p .busy .none
    else
      match inputOfCode input, Polarity.ofCode polarity, InputRole.ofCode role with
      | none, _, _ => s.respond p .range (.param .input)
      | some _, none, _ => s.respond p .range (.param .polarity)
      | some _, some _, none => s.respond p .range (.param .role)
      | some n, some pol, some r =>
          let kept := s.inputs.inputs[n]
          let changed := { kept with polarity := pol, debounce := min 255 debounce, role := r }
          let flips : Bool := decide (changed.active ≠ kept.active)
          let changed := if flips then { changed with lastChange := some s.timeOfDay } else changed
          let t := { s with inputs := { s.inputs with inputs := s.inputs.inputs.set n changed } }
          (State.inputChanged s t n false t.now t.timeOfDay).respond p .ok
            (.inputConfig pol (min 255 debounce) r)

/-! ### CONFIG_OUTPUT (R81) -/

/-- The level that a new role gives an output (R81). -/
def State.roleLevel (s : State) (o : Output) (role : OutputRole) : Bool :=
  match role with
  | .aux52A => s.breaker.allIn .closed
  | .aux52B => s.breaker.allIn .opened
  | .manual => decide (o.role = .manual) && o.level
  | .none => false
  | .tpReceive => false
  | .stateDriven => false

/-- CONFIG_OUTPUT: the role is replaced and the level set at once, with no record (R81). That its OK carries
no data, and that of a bad output and a bad role the output is named, are DESIGN CHOICES (logs 38 and 46). -/
def execConfigOutput (p : Port) (output role : Nat) (s : State) : Result :=
  s.gated p fun s =>
    if s.shotActive then s.respond p .busy .none
    else
      match outputOfCode output, OutputRole.ofCode role with
      | none, _ => s.respond p .range (.param .output)
      | some _, none => s.respond p .range (.param .role)
      | some n, some r =>
          let s := { s with outputs := s.outputs.set n { role := r, level := s.roleLevel s.outputs[n] r } }
          s.respond p .ok .none

/-! ### CONFIG_BREAKER (R102) -/

/-- The simulation disabled: pole actions removed, every pole CLOSED, each fallen open signal delivered,
AUX outputs following (R102). -/
def State.disableBreaker (s : State) : State :=
  let before := s.breaker.poles
  let s := allPoles.foldl (fun s p => s.dropPole p) s
  let s := allPoles.foldl (fun s p => (s.setPole p PoleState.powerOn).onLinked p (·.poleClosed)) s
  (s.deliverPoles before).refreshAux

/-- CONFIG_BREAKER (R102). -/
def execConfigBreaker (p : Port) (setting tripTime closeTime : Nat) (s : State) : Result :=
  s.gated p fun s =>
    if s.shotActive then s.respond p .busy .none
    else
      match boolOfCode setting with
      | none => s.respond p .range (.param .setting)
      | some disabled =>
          if 5000 < tripTime then s.respond p .range (.param .tripTime)
          else if 10000 < closeTime then s.respond p .range (.param .closeTime)
          else
            let s := { s with breaker := { s.breaker with
              enabled := !disabled, tripTime := tripTime, closeTime := closeTime } }
            let s := if disabled then s.disableBreaker else s
            s.respond p .ok (.breakerConfig (!disabled) tripTime closeTime)

/-! ### CONFIG_TELEPROTECTION (R151) -/

/-- A change of source: every edge removed, resync pending cleared, and the level of the new source
taken (R151). -/
def State.changeSource (s : State) (src : TpSource) : State :=
  let level :=
    match src with
    | .localLoop => s.roleActive .carrierSend
    | .peer => false
  { s with
    actions := s.actions.keep fun a => decide (a.work.group ≠ .tpEdge)
    tp := { s.tp with source := src, resync := false, lastReceived := level, applied := level } }

/-- CONFIG_TELEPROTECTION: a delay above 1,000 is clamped (R151). -/
def execConfigTeleprotection (p : Port) (source delay : Nat) (s : State) : Result :=
  s.gated p fun s =>
    if s.shotActive then s.respond p .busy .none
    else
      match TpSource.ofCode source with
      | none => s.respond p .range (.param .source)
      | some src =>
          let s := if src = s.tp.source then s else s.changeSource src
          let s := { s with tp := { s.tp with delay := min 1000 delay } }
          s.respond p .ok (.tpConfig src (min 1000 delay))

/-! ### SET_OUTPUT (R82) -/

/-- Output `n` is named by a mask: BO1 by bit 0, a DESIGN CHOICE (log 39). -/
def named (m : Nat) (n : Fin 4) : Bool := m.testBit n.val

/-- The first output named by a mask whose role is not MANUAL (R82). -/
def firstNotManual (outputs : Vector Output 4) (m : Nat) : List (Fin 4) → Option (Fin 4)
  | [] => none
  | n :: rest =>
      if named m n && decide (outputs[n].role ≠ .manual) then some n else firstNotManual outputs m rest

/-- The OUTPUT_CHANGE source of a port (Table 4-4). -/
def Port.source : Port → OutputSource
  | .sequence => .sequence
  | .panel => .panel

/-- The outputs named by the masks take their levels, in index order (R82). -/
def State.applyMasks (s : State) (setMask clearMask : Nat) (src : OutputSource) : State :=
  (List.finRange 4).foldl (fun s n =>
    if named setMask n then s.setOutput n true src
    else if named clearMask n then s.setOutput n false src
    else s) s

/-- The levels of all four outputs (R82). -/
def State.levels (s : State) : RespData :=
  .levels s.outputs[0].level s.outputs[1].level s.outputs[2].level s.outputs[3].level

/-- SET_OUTPUT (R82). A RANGE response names both masks as one parameter: DESIGN CHOICE (log 46). -/
def execSetOutput (p : Port) (setMask clearMask : Nat) (s : State) : Result :=
  s.gated p fun s =>
    if 16 ≤ setMask ∨ 16 ≤ clearMask ∨ setMask &&& clearMask ≠ 0 then s.respond p .range (.param .masks)
    else
      match firstNotManual s.outputs (setMask ||| clearMask) (List.finRange 4) with
      | some n => s.respond p .conflict (.conflictOutput n)
      | none =>
          let s := s.applyMasks setMask clearMask (Port.source p)
          s.respond p .ok s.levels

/-! ### SET_TIME (R130) -/

/-- SET_TIME: the seconds are loaded for the next edge that may take them (R130). -/
def execSetTime (p : Port) (seconds : Nat) (s : State) : Result :=
  s.gated p fun s =>
    State.respond { s with time := { s.time with loaded := some (seconds % 4294967296) } } p .ok .none

end Sys2Proof.Machine
end

