-- ==== Sys2Proof/Machine/Control.lean ====
section
/-! DEFINITION. Edit Control: HOLD, RELEASE and SET_AUTHORITY. -/

namespace Sys2Proof.Machine

/-- A port's hold flag takes a value. -/
def State.setHold (s : State) (p : Port) (held : Bool) : State :=
  { s with edit := { s.edit with hold := s.edit.hold.set p held } }

/-- An apply point that is one only in IDLE (R160, R161). -/
def State.applyInIdle (s : State) : State := if s.shotActive then s else s.applyPoint

/-- HOLD: the port's flag is set (R160). -/
def execHold (p : Port) (s : State) : Result :=
  s.gated p fun s => (s.setHold p true).respond p .ok .none

/-- RELEASE: the port's flag is cleared, and where that leaves no holds in IDLE every pending copy is
applied (R160). A flag that stood clear changes nothing. -/
def execRelease (p : Port) (s : State) : Result :=
  s.gated p fun s =>
    (if s.edit.hold.get p then (s.setHold p false).applyInIdle else s).respond p .ok .none

/-- The port that an authority excludes (R156). -/
def Authority.excludes : Authority → Option Port
  | .shared => none
  | .local_ => some .sequence
  | .remote => some .panel

/-- The port may set the value (R157). -/
def State.maySet (s : State) (p : Port) (a : Authority) : Bool :=
  match p with
  | .panel => true
  | .sequence => decide (a ≠ .local_) && decide (s.edit.authority ≠ .local_)

/-- An excluded port loses its hold and its pending copies (R157). -/
def State.exclude (s : State) (p : Port) : State :=
  let s := s.setHold p false
  { s with store := { s.store with slots := mapSlots (Slot.discardOf p) s.store.slots } }

/-- The authority takes a value that differs (R157). -/
def State.changeAuthority (s : State) (a : Authority) : State :=
  let s := { s with edit := { s.edit with authority := a } }
  let s := s.raiseBoth .authorityChanged
  match a.excludes with
  | some q => (s.exclude q).applyPoint
  | none => s

/-- SET_AUTHORITY: code, permission, phase (R157). -/
def execSetAuthority (p : Port) (value : Nat) (s : State) : Result :=
  s.open_ p fun s =>
    match Authority.ofCode value with
    | none => s.respond p .range (.param .authority)
    | some a =>
        if !s.maySet p a then s.respond p .authority (.authority s.edit.authority)
        else if s.shotActive then s.respond p .busy .none
        else
          (if a = s.edit.authority then s else s.changeAuthority a).respond p .ok (.authority a)

end Sys2Proof.Machine
end

