-- ==== Sys2Proof/Machine/Draining.lean ====
section
/-! DEFINITION. The drain channels: DRAIN_ENABLE, READ_PAGE, RELEASE_PAGE and FLUSH_TIMER_EXPIRY. -/

namespace Sys2Proof.Machine

/-- A drain channel is replaced. -/
def State.setDrain (s : State) (p : Port) (d : Drain) : State := { s with drains := s.drains.set p d }

/-- A channel that is enabled: both positions at the log's oldest record, its pages empty (R126). -/
def Drain.enableAt (d : Drain) (oldest : Nat) : Drain :=
  { Drain.powerOn with copyPos := some oldest, consumedPos := some oldest, count := d.count }

/-- A channel that is disabled: pages dropped, positions cleared, page count kept (R127). -/
def Drain.disable (d : Drain) : Drain :=
  { Drain.powerOn with enabled := false, copyPos := none, consumedPos := none, count := d.count }

/-- DRAIN_ENABLE: ON (0) or OFF (1) for the sending port's channel (R126, R127). -/
def execDrainEnable (p : Port) (selector : Nat) (s : State) : Result :=
  s.open_ p fun s =>
    match boolOfCode selector with
    | none => s.respond p .range (.param .selector)
    | some off =>
        let d := s.drains.get p
        if off then
          if !d.enabled then s.respond p .ok .none
          else if !(s.drains.get p.other).enabled && s.shotActive then s.respond p .noDrain .none
          else ((s.setDrain p d.disable).freeLog).respond p .ok .none
        else if d.enabled then s.respond p .ok .none
        else ((s.setDrain p (d.enableAt s.log.freed)).copyFor p).respond p .ok .none

/-- The channel has handed the page to its port (R123, R124). -/
def Drain.handed (d : Drain) (n : PageName) : Bool := d.enabled && decide ((d.page n).owner = .port)

/-- READ_PAGE: the header and at most eight records from the first index (R123). Of a bad page and a bad first
index the page is named: DESIGN CHOICE (log 46). -/
def execReadPage (p : Port) (page first : Nat) (s : State) : Result :=
  s.open_ p fun s =>
    match PageName.ofCode page with
    | none => s.respond p .range (.param .page)
    | some n =>
        if 15 < first then s.respond p .range (.param .first)
        else
          let d := s.drains.get p
          if !d.handed n then s.respond p .notReady .none
          else
            let pg := d.page n
            s.respond p .ok (.page n pg.number pg.cause pg.records.length ((pg.records.drop first).take 8))

/-- Both pages are PORT-owned, so that the older is the one the toggle names (R124). -/
def Drain.bothHanded (d : Drain) : Bool := d.handed .x && d.handed .y

/-- A page's records consumed, and the page returned to PART (R124). DESIGN CHOICE: it keeps its number
(log 32). -/
def Drain.release (d : Drain) (n : PageName) : Drain :=
  { d.setPage n { d.page n with owner := .part, records := [], cause := none } with
    consumedPos := d.consumedPos.map (· + (d.page n).records.length) }

/-- RELEASE_PAGE: records consumed, the log frees what it may, copying resumes (R124, R125). -/
def execReleasePage (p : Port) (page : Nat) (s : State) : Result :=
  s.open_ p fun s =>
    match PageName.ofCode page with
    | none => s.respond p .range (.param .page)
    | some n =>
        let d := s.drains.get p
        if !d.handed n then s.respond p .notOwner .none
        else if d.bothHanded && decide (n ≠ d.toggle) then s.respond p .notOwner (.olderPage d.toggle)
        else (((s.setDrain p (d.release n)).freeLog).copyFor p).respond p .ok .none

/-- The channel's flush timer has reached its expiry (R120). -/
def State.flushDue (s : State) (p : Port) : Bool :=
  match (s.drains.get p).flush with
  | some e => decide (e ≤ s.now)
  | none => false

/-- FLUSH_TIMER_EXPIRY: the page being filled is handed over (R121, R122). -/
def execFlushTimerExpiry (p : Port) (s : State) : Result :=
  .next (if s.flushDue p then
      ((s.setDrain p ((s.drains.get p).handOver .flush)).raiseFor p .pageReady).copyFor p
    else s)

end Sys2Proof.Machine
end

