-- ==== Sys2Proof/Machine/Guarding.lean ====
section
/-! DEFINITION. The Injection Guard's own events: the E-STOP line and the keepalive timer. -/

namespace Sys2Proof.Machine

/-- The line takes a level. -/
def State.setEStop (s : State) (l : EStopLevel) : State := { s with guard := { s.guard with eStop := l } }

/-- E_STOP_ASSERTED: a change to ASSERTED hands over a hard abort with cause E_STOP (R166). A line that
stands ASSERTED does not change. -/
def execEStopAsserted (s : State) : Result :=
  .next (match s.guard.eStop with
    | .asserted => s
    | .released => (s.setEStop .asserted).guardCause .eStop)

/-- E_STOP_RELEASED: only the level changes (R166). -/
def execEStopReleased (s : State) : Result := .next (s.setEStop .released)

/-- The keepalive timer has reached its expiry (R164). -/
def State.keepaliveDue (s : State) : Bool :=
  match s.guard.expiry with
  | some e => decide (e ≤ s.now)
  | none => false

/-- KEEPALIVE_EXPIRY: the timer stops and a soft abort with cause GUARD_EXPIRED is handed over (R165). -/
def execKeepaliveExpiry (s : State) : Result :=
  .next (if s.keepaliveDue then
      State.guardCause { s with guard := { s.guard with expiry := none } } .guardExpired
    else s)

end Sys2Proof.Machine
end

