-- ==== Sys2Proof/Machine/Inputs.lean ====
section
/-! DEFINITION. The Input Timer's own events: INPUT_SAMPLE, ACCEPTED_CHANGE and STATE_OUTPUT_DUE. -/

namespace Sys2Proof.Machine

/-! ### INPUT_SAMPLE (R71, R72) -/

/-- The first sample since power-on sets the level, with no change delivered (R71). -/
def Input.firstSample (i : Input) (pin : Bool) : Input := { i with level := pin }

/-- One sample of an input (R72). A candidate keeps the time of day of its first sample, also where the counter is
re-phased or the second renumbered before it is accepted: DESIGN CHOICE (log 49). -/
def Input.sample (i : Input) (pin : Bool) (now : Moment) : Input :=
  if pin = i.level then { i with candidate := none, count := 0, ready := false }
  else
    match i.candidate with
    | none => { i with candidate := some now, count := 1, ready := decide (i.debounce + 1 ≤ 1) }
    | some c =>
        { i with candidate := some c, count := i.count + 1, ready := decide (i.debounce + 1 ≤ i.count + 1) }

/-- A sample of the inputs is due: a counter value that is a multiple of 10, not yet sampled, with no
acceptance of the sample before it outstanding (R71, R76). -/
def State.sampleDue (s : State) : Bool :=
  decide (s.time.counter % 10 = 0) && !s.time.inputsDone && !(s.inputs.inputs.toList.any (·.ready))

/-- The inputs after a sample (R71, R72). -/
def InputTimer.sample (t : InputTimer) (now : Moment) : InputTimer :=
  { t with
    sampled := true
    inputs := Vector.ofFn fun n : Fin 12 =>
      if t.sampled then (t.inputs[n]).sample (t.pins.getLsbD n) now
      else (t.inputs[n]).firstSample (t.pins.getLsbD n) }

/-- INPUT_SAMPLE with the pin levels found: the levels stand at the pins from now on, and where a sample
is due every input is sampled (R71, R72; log 2). -/
def execInputSample (pins : BitVec 12) (s : State) : Result :=
  let s := { s with inputs := { s.inputs with pins := pins } }
  .next (if s.sampleDue then
      { s with inputs := s.inputs.sample s.moment, time := { s.time with inputsDone := true } }
    else s)

/-! ### ACCEPTED_CHANGE (R72, R76, R77) -/

/-- An input whose change has been accepted (R72, R76). -/
def Input.accept (i : Input) (eventTime : AbsTime) : Input :=
  { i with level := !i.level, candidate := none, count := 0, ready := false, lastChange := some eventTime }

/-- The INPUT_CHANGE record of a local change, within the logging window (R77). -/
def State.logInputChange (s : State) (n : Fin 12) (level : Bool) (t : Nat) (eventTime : AbsTime) : State :=
  if s.shotActive then s.offer (s.shotTime t) (.inputChange (n.val + 1) level false eventTime) else s

/-- An acceptance: record, signal, consumers (R76). The event time is the candidate start `t`. -/
def State.acceptChange (s : State) (n : Fin 12) (t : Moment) : State :=
  let changed := (s.inputs.inputs[n]).accept t.abs
  let logged := s.logInputChange n changed.active t.at_ t.abs
  let updated := { logged with inputs := { logged.inputs with inputs := logged.inputs.inputs.set n changed } }
  State.inputChanged logged updated n true t.at_ t.abs

/-- ACCEPTED_CHANGE of one input whose candidate has reached its count (R76). -/
def execAcceptedChange (input : Fin 12) (s : State) : Result :=
  .next (match s.inputs.inputs[input].ready, s.inputs.inputs[input].candidate with
    | true, some t => s.acceptChange input t
    | _, _ => s)

/-! ### STATE_OUTPUT_DUE (R84) -/

/-- STATE_OUTPUT_DUE: the action that falls due next sets its output. One due at a boundary for which the end
of its visit was fixed before does not fall due (R84). -/
def execStateOutputDue (s : State) : Result :=
  .next (match s.dueAction with
    | some ⟨_, _, .stateOutput n level, _⟩ => s.dropDue.setOutput n level .state
    | _ => s)

end Sys2Proof.Machine
end

