-- ==== Sys2Proof/Machine/Notify.lean ====
section
/-! DEFINITION. NOTIFY_ENABLE and NOTIFY_ACK. -/

namespace Sys2Proof.Machine

/-- The causes of a mask that names none above bit 9. -/
def causesOf (m : Mask) : CauseSet := m.setWidth 10

/-- A Port Interface is replaced. -/
def State.setPort (s : State) (p : Port) (q : PortInterface) : State := { s with ports := s.ports.set p q }

/-- NOTIFY_ENABLE: SET (0) adds the masked causes to the enables, CLEAR (1) removes them (R172). Of a bad
selector and a bad mask the selector is named: DESIGN CHOICE (log 46). -/
def execNotifyEnable (p : Port) (selector : Nat) (causes : Mask) (s : State) : Result :=
  s.open_ p fun s =>
    match boolOfCode selector with
    | none => s.respond p .range (.param .selector)
    | some clear =>
        if !causesInRange causes then s.respond p .range (.param .causes)
        else
          let q := s.ports.get p
          let enables := if clear then q.enables &&& ~~~causesOf causes else q.enables ||| causesOf causes
          (s.setPort p { q with enables := enables }).respond p .ok (.enables enables)

/-- NOTIFY_ACK: answers the requests and repeated bits found, and clears the masked causes in both
(R173). -/
def execNotifyAck (p : Port) (causes : Mask) (s : State) : Result :=
  s.open_ p fun s =>
    if !causesInRange causes then s.respond p .range (.param .causes)
    else
      let q := s.ports.get p
      let kept := { q with requests := q.requests &&& ~~~causesOf causes
                           repeated := q.repeated &&& ~~~causesOf causes }
      (s.setPort p kept).respond p .ok (.notified q.requests q.repeated)

end Sys2Proof.Machine
end

