-- ==== Sys2Proof/Machine/ShotCommands.lean ====
section
/-! DEFINITION. The shot commands: ARM, START, ABORT and ADJUST. -/

namespace Sys2Proof.Machine

/-! ### ARM: its parameters (R23, R27) -/

/-- The parameters of an ARM whose ranges have passed. -/
structure ArmPlan where
  first  : Fin 32
  mode   : StartMode
  peer   : Bool
  period : Nat
  opened : Bool

/-- A start mode with its parameters (R23, coded in the order of R23). -/
def StartMode.ofCode (mask value : Mask) (startTime : AbsTime) : Nat → Option StartMode
  | 0 => some .immediate
  | 1 => some .onCommand
  | 2 => some (.onInput mask value)
  | 3 => some (.atTime startTime)
  | 4 => some .peer
  | _ => none

/-- A start time rounded up to the next multiple of 100 µs (R27; log 35 at the end of the day span). -/
def roundStart (t : AbsTime) : AbsTime := (t + 99) / 100 * 100 % daySpan

/-- The peer-linked flag may go with the mode (R23). -/
def StartMode.allowsPeer (m : StartMode) (peer : Bool) : Bool :=
  match m with
  | .immediate | .onCommand | .onInput .. => !peer
  | .atTime _ => true
  | .peer => peer

/-- A guard period in range (R23). -/
def periodInRange (n : Nat) : Bool := decide (n = 0 ∨ (50 ≤ n ∧ n ≤ 5000))

/-- Check 4 of Table 2-3: the first parameter out of range, or the plan. That the peer-linked flag is set by
code 1, clear by 0 and out of range otherwise, and that of several bad parameters the first listed is named, are
DESIGN CHOICES (logs 39 and 46). -/
def armPlan (first mode : Nat) (mask value : Mask) (startTime : AbsTime) (peer period initial : Nat) :
    Param ⊕ ArmPlan :=
  match stateOfCode first, StartMode.ofCode mask value (roundStart startTime) mode, boolOfCode peer,
      boolOfCode initial with
  | none, _, _, _ => .inl .firstState
  | some _, none, _, _ => .inl .startMode
  | some _, some _, none, _ => .inl .peerLinked
  | some i, some m, some linked, initial =>
      if !m.allowsPeer linked then .inl .peerLinked
      else if !periodInRange period then .inl .guardPeriod
      else
        match initial with
        | none => .inl .initialPosition
        | some opened => .inr { first := i, mode := m, peer := linked, period := period, opened := opened }

/-- AT_TIME and PEER need the Time Base LOCKED (Table 2-3, check 8). -/
def StartMode.isTimed : StartMode → Bool
  | .atTime _ | .peer => true
  | .immediate | .onCommand | .onInput .. => false

/-- Check 9 of Table 2-3: an AT_TIME start lies ahead by at most 3,600 s, and by at least 200 ms for a
peer-linked shot (R27). -/
def State.startAcceptable (s : State) (m : StartMode) (peer : Bool) : Bool :=
  match m with
  | .atTime t =>
      let ahead := s.aheadOf t
      decide (0 < ahead ∧ ahead ≤ 3600000000) && (!peer || decide (200000 ≤ ahead))
  | _ => true

/-! ### ARM: its effects (R24) -/

/-- The next shot number (R24). -/
def nextShotNumber (n : Nat) : Nat := if 255 ≤ n then 1 else n + 1

/-- The start time carried by the mode, as rounded (R24). -/
def StartMode.startTime : StartMode → Option AbsTime
  | .atTime t => some t
  | _ => none

/-- The sequencer of a new shot (R24). -/
def Sequencer.armed (q : Sequencer) (p : Port) (a : ArmPlan) : Sequencer :=
  { Sequencer.powerOn with
    phase := .armed, shotNumber := nextShotNumber q.shotNumber, armingPort := some p, mode := some a.mode
    peerLinked := a.peer, firstState := some a.first, startTime := a.mode.startTime }

/-- The Time Base at ARM (R136). -/
def TimeBase.armed (t : TimeBase) : TimeBase :=
  { t with quality := .good, degraded := false, armedLocked := decide (t.lock = .locked) }

/-- The log at ARM, before SHOT_START (R114, R115). -/
def ReportLog.armed (l : ReportLog) : ReportLog :=
  { l with lost := 0, saturated := false, verdicts := .zero }

/-- The agreement of a new shot (R146, R147). -/
def ArmPlan.agreement (a : ArmPlan) : Agreement :=
  match a.mode with
  | .atTime _ => if a.peer then .proposing else .none
  | .peer => .waiting
  | _ => .none

/-- The peer link at ARM (R142). -/
def PeerLink.armed (l : PeerLink) (a : ArmPlan) : PeerLink :=
  { l with agreement := a.agreement, lastReject := none, farState := none, farEnded := none, lateDrops := 0 }

/-- The record SHOT_START and the reservation of the slot for SHOT_END (R24, R114). -/
def State.writeShotStart (s : State) (p : Port) (a : ArmPlan) : State :=
  let s := s.offer 0 (.shotStart p a.mode s.time.lock a.mode.startTime)
  { s with log := { s.log with reservation := 1 } }

/-- A pole at the initial position (R100). -/
def PoleState.initial (opened : Bool) : PoleState :=
  if opened then { position := .opened, interruption := .complete, start := none, openSignal := true }
  else .powerOn

/-- Every pole at the initial position, its pending action removed without completing (R100). -/
def State.placeInitial (s : State) (opened : Bool) : State :=
  let s := allPoles.foldl (fun s p => s.dropPole p) s
  { s with breaker := { s.breaker with poles := s.breaker.poles.mapWith fun _ _ => .initial opened } }

/-- The initial position of all poles in one step, then each changed open signal delivered, so that every
consumer sees the poles as set, and the AUX outputs (R88, R99, R100). With the simulation disabled it is
not applied. -/
def State.setInitialPosition (s : State) (opened : Bool) : State :=
  if s.breaker.enabled then ((s.placeInitial opened).deliverPoles s.breaker.poles).refreshAux else s

/-- A channel as ARM leaves it (R49, R53, R55). -/
def SynthChannel.arm (c : SynthChannel) (cfg : ChannelConfig) (e : ChannelEntry) : SynthChannel :=
  { c.loadEntry cfg e with
    acc := 0, offset := 0, last := 0, silencing := .conducting, link := e.link.resolve cfg, clip := false
    clipRecorded := false, resuming := false }

/-- The synthesizer at ARM (R55). -/
def State.armSynth (s : State) (r : StateRecord) : State :=
  let channels := s.synth.channels.mapWith fun c ch => ch.arm (s.store.config.get c) (r.channels.get c)
  { s with synth := { channels := channels, ramp := .powerOn } }

/-- A channel's counts cleared (R70). -/
def AmpChannel.clearCounts (c : AmpChannel) : AmpChannel := { c with overload := 0, missing := 0 }

/-- The counts of every channel cleared (R70). -/
def State.clearAmpCounts (s : State) : State :=
  { s with amp := { s.amp with channels := s.amp.channels.mapWith fun _ c => c.clearCounts } }

/-- The start fixed by ARM itself: IMMEDIATE, and an ON_INPUT match that is true already (R25, R26). -/
def State.fixStart (s : State) (m : StartMode) : State :=
  let fixed : Bool :=
    match m with
    | .immediate => true
    | .onInput mask value => masked s.signals mask value
    | _ => false
  if fixed then { s with seq := { s.seq with startBoundary := some s.nextBoundary } } else s

/-- START_PROPOSE, sent while the agreement is PROPOSING (R143, R146). -/
def State.propose (s : State) : State :=
  match s.peer.agreement, s.seq.startTime with
  | .proposing, some t => s.send (.startPropose t)
  | _, _ => s

/-- ARM takes effect, as one event (R24, R55, R70, R100, R114, R136, R142, R146, R147, R163). -/
def State.armShot (s : State) (p : Port) (a : ArmPlan) (r : StateRecord) : State :=
  let s := { s with
    seq := s.seq.armed p a
    time := s.time.armed
    log := s.log.armed
    guard := { s.guard with period := a.period, expiry := none, latches := FaultLatches.allClear }
    peer := s.peer.armed a }
  let s := s.writeShotStart p a
  let s := s.setInitialPosition a.opened
  let s := s.armSynth r
  let s := s.clearAmpCounts
  let s := s.fixStart a.mode
  s.propose

/-- Checks 5 to 10 of Table 2-3, in order: the status of the first that fails, and its data. -/
def State.armRefusal (s : State) (a : ArmPlan) : Option (Status × RespData) :=
  if s.guard.eStop = .asserted then some (.stopped, .none)
  else if !s.drains.sequence.enabled && !s.drains.panel.enabled then some (.noDrain, .none)
  else if s.log.free < 2 then some (.logFull, .none)
  else if a.mode.isTimed && decide (s.time.lock ≠ .locked) then some (.notLocked, .none)
  else if !s.startAcceptable a.mode a.peer then some (.range, .param .startTime)
  else if a.peer && decide (s.peer.link ≠ .up) then some (.peerDown, .none)
  else none

/-- ARM (R23, Table 2-3). -/
def execArm (p : Port) (first mode : Nat) (mask value : Mask) (startTime : AbsTime)
    (peer period initial : Nat) (s : State) : Result :=
  s.gated p fun s =>
    if s.shotActive then s.respond p .busy .none
    else
      match armPlan first mode mask value startTime peer period initial with
      | .inl bad => s.respond p .range (.param bad)
      | .inr a =>
          match s.armRefusal a, s.armWalk a.first, s.store.slots[a.first].active with
          | some (st, d), _, _ => s.respond p st d
          | none, some d, _ => s.respond p .undefinedTarget d
          | none, none, none => s.respond p .undefinedTarget (.emptyTarget a.first)
          | none, none, some r =>
              let s := s.armShot p a r
              s.respond p .ok (.shotNumber s.seq.shotNumber)

/-! ### START (R25) -/

/-- START is taken: ARMED, ON_COMMAND, and no START yet (R25). -/
def State.startReady (s : State) : Bool :=
  decide (s.seq.phase = .armed) && decide (s.seq.mode = some .onCommand) && s.seq.startBoundary.isNone

/-- START (R25). -/
def execStart (p : Port) (s : State) : Result :=
  s.gated p fun s =>
    if s.startReady then
      State.respond { s with seq := { s.seq with startBoundary := some s.nextBoundary } } p .ok .none
    else s.respond p .busy .none

/-! ### ABORT (R42, R43) -/

/-- The exit already chosen goes to END, with no deferral (R43). -/
def Chosen.toEnd (c : Chosen) (boundary : Nat) : Chosen :=
  { c with target := .finish, boundary := boundary, inception := none }

/-- ABORT with AT_STATE_END taken in RUNNING (R43). -/
def State.endAtStateExit (s : State) : State :=
  if s.seq.endAtExit then s
  else
    let chosen := s.seq.chosen.map fun c => c.toEnd s.nextBoundary
    State.offer { s with seq := { s.seq with endAtExit := true, chosen := chosen, deferring := false } }
      (s.shotTime s.now) (.abort .aborted true)

/-- ABORT by phase (Table 2-5). That option code 1 sets AT_STATE_END, 0 clears it and any other is RANGE is a
DESIGN CHOICE (log 39). -/
def execAbort (p : Port) (option : Nat) (s : State) : Result :=
  s.open_ p fun s =>
    match boolOfCode option with
    | none => s.respond p .range (.param .option)
    | some atEnd =>
        match s.seq.phase with
        | .idle => s.respond p .ok (.flag .noShot)
        | .armed => (s.softAbort .aborted).respond p .ok (.flag .none)
        | .running =>
            (if atEnd then s.endAtStateExit else s.softAbort .aborted).respond p .ok (.flag .none)
        | .rampingDown => (s.softAbort .aborted).respond p .ok (.flag .alreadyEnding)
        | .closing => s.respond p .ok (.flag .alreadyEnding)

/-! ### ADJUST (R59, R60) -/

/-- A working quantity of a channel. -/
def SynthChannel.quantity (c : SynthChannel) : Quantity → Int
  | .amplitude => c.amplitude
  | .phase => c.phase
  | .frequency => c.frequency

/-- A value brought into the range of a quantity (R60). -/
def limitQuantity (cfg : ChannelConfig) (q : Quantity) (v : Int) : Int :=
  match q with
  | .amplitude => max 0 (min v cfg.range)
  | .phase => wrapAngle v
  | .frequency => max 10000 (min v 1000000)

/-- The new value of one channel of the target, before it is limited. AMPLITUDE and FREQUENCY give a
group one result, from phase A with DELTA (DEDUCED, log 16); PHASE moves each channel alike (R60). -/
def State.adjusted (s : State) (t : Target) (q : Quantity) (delta : Bool) (v : Int) (c : Channel) : Int :=
  let lead := (s.synth.channels.get t.lead).quantity q
  match q with
  | .phase => (s.synth.channels.get c).quantity q + (if delta then v else v - lead)
  | _ => if delta then lead + v else v

/-- The working set of each targeted channel changed (R60). -/
def State.adjustChannels (s : State) (t : Target) (q : Quantity) (delta : Bool) (v : Int) : State :=
  let channels := s.synth.channels.mapWith fun c ch =>
    if t.covers c then
      ch.setQuantity (s.store.config.get c) q
        (limitQuantity (s.store.config.get c) q (s.adjusted t q delta v c))
    else ch
  { s with synth := { s.synth with channels := channels } }

/-- An ADJUST overlaps the ramp of the current visit (R59). -/
def State.onRamp (s : State) (t : Target) (q : Quantity) : Bool :=
  match s.seq.visit with
  | some v =>
      match v.record.ramp with
      | some r => decide (r.quantity = q) && t.overlaps r.target
      | none => false
  | none => false

/-- The working values of a channel. -/
def State.workingValues (s : State) (c : Channel) : WorkingValues :=
  { channel := c, amplitude := (s.synth.channels.get c).amplitude, phase := (s.synth.channels.get c).phase
    frequency := (s.synth.channels.get c).frequency }

/-- ADJUST is taken: the working set and the ADJUST record with phase A's value for a group (R60). -/
def State.adjust (s : State) (p : Port) (t : Target) (q : Quantity) (delta : Bool) (v : Int) : State :=
  let s := s.adjustChannels t q delta v
  s.offer (s.shotTime s.now) (.adjust t q ((s.synth.channels.get t.lead).quantity q) p)

/-- ADJUST: authority, phase, codes, overlap (R59). Of several bad codes the first listed is named: DESIGN CHOICE
(log 46). -/
def execAdjust (p : Port) (target quantity mode : Nat) (value : Int) (s : State) : Result :=
  s.gated p fun s =>
    if s.seq.phase ≠ .running then s.respond p .busy .none
    else
      match Target.ofCode target, Quantity.ofCode quantity, boolOfCode mode with
      | none, _, _ => s.respond p .range (.param .target)
      | some _, none, _ => s.respond p .range (.param .quantity)
      | some _, some _, none => s.respond p .range (.param .mode)
      | some t, some q, some delta =>
          if s.onRamp t q then s.respond p .conflict .none
          else
            let s := s.adjust p t q delta value
            s.respond p .ok (.working (t.channels.map s.workingValues))

end Sys2Proof.Machine
end

