-- ==== Sys2Proof/Machine/PeerEvents.lean ====
section
/-! DEFINITION. The Peer Link Controller's events: its timers, the frames it receives, and the
teleprotection edges that fall due. -/

namespace Sys2Proof.Machine

/-! ### The link (R142, R144, R145) -/

/-- A peer-linked shot in ARMED or RUNNING loses its peer, unless the far end has finished (R145). -/
def State.losesPeer (s : State) : Bool :=
  s.seq.peerLinked && decide (s.seq.phase = .armed ∨ s.seq.phase = .running) && s.peer.farEnded.isNone

/-- The link state takes a value: a change raises PEER_LINK, and a departure from UP may end the shot with
PEER_LOST (R142, R145). -/
def State.setLink (s : State) (l : LinkState) : State :=
  if s.peer.link = l then s
  else
    let was := s.peer.link
    let s := State.raiseBoth { s with peer := { s.peer with link := l } } .peerLink
    if was = .up ∧ s.losesPeer = true then s.softAbort .peerLost else s

/-- A valid frame restarts the loss timer (R143). -/
def State.restartLoss (s : State) : State := { s with peer := { s.peer with lossAt := some (s.now + 50000) } }

/-- A count of the controller, which stops at 65,535 (R142). -/
def countUp (n : Nat) : Nat := min 65535 (n + 1)

/-- A frame discarded and counted (R143). -/
def State.discard (s : State) : State := { s with peer := { s.peer with discards := countUp s.peer.discards } }

/-- A valid frame other than HELLO: in DOWN it only restarts the loss timer, in LINKING it makes the link
UP, and it is then taken as its kind gives (R144). -/
def State.receive (s : State) (take : State → State) : Result :=
  let s := s.restartLoss
  .next (match s.peer.link with
    | .down => s
    | .linking => take (s.setLink .up)
    | .up => take s)

/-- INVALID_PEER_FRAME: discarded and counted (R143). -/
def execInvalidPeerFrame (s : State) : Result := .next s.discard

/-- The link state after a HELLO (R144). -/
def LinkState.afterHello (l : LinkState) (heard : Bool) : LinkState :=
  match l, heard with
  | .down, true => .up
  | .down, false => .linking
  | .linking, true => .up
  | .linking, false => .linking
  | .up, true => .up
  | .up, false => .linking

/-- HELLO: another protocol version is discarded and counted; otherwise the tag is stored and the link
state moves (R143, R144). -/
def execHello (version : Byte) (tag : BitVec 64) (heard : Bool) (s : State) : Result :=
  .next (if version = Config.protocolVersion then
      let s := s.restartLoss
      let s := { s with peer := { s.peer with farTag := some tag } }
      s.setLink (s.peer.link.afterHello heard)
    else s.discard)

/-- KEEPALIVE (R144). -/
def execKeepalive (s : State) : Result := s.receive fun s => s

/-! ### Timers (R143, R144) -/

/-- The send timer has reached its expiry (R143). -/
def State.sendDue (s : State) : Bool := decide (s.peer.sendAt ≤ s.now)

/-- The frame of a send-timer expiry (R143). -/
def State.timerFrame (s : State) : PeerFrame :=
  match s.peer.link with
  | .down => .hello Config.protocolVersion Config.serialTag false
  | .linking => .hello Config.protocolVersion Config.serialTag true
  | .up => .keepalive

/-- SEND_TIMER_EXPIRY: HELLO or KEEPALIVE, and START_PROPOSE while PROPOSING (R143, R146). That the KEEPALIVE of
an expiry goes out before its START_PROPOSE is a DESIGN CHOICE (log 48). -/
def execSendTimerExpiry (s : State) : Result :=
  .next (if s.sendDue then
      State.propose { s with peer := { s.peer with sendAt := s.peer.sendAt + 10000
                                                   sent := s.peer.sent ++ [s.timerFrame] } }
    else s)

/-- The loss timer has reached its expiry (R144). -/
def State.lossDue (s : State) : Bool :=
  match s.peer.lossAt with
  | some e => decide (e ≤ s.now)
  | none => false

/-- LOSS_TIMER_EXPIRY: the timer stops and the link becomes DOWN, with the far serial tag kept (R144). -/
def execLossTimerExpiry (s : State) : Result :=
  .next (if s.lossDue then State.setLink { s with peer := { s.peer with lossAt := none } } .down else s)

/-! ### Agreeing a start (R146, R147) -/

/-- A shot ARMED with start mode PEER (Table 9-3). -/
def State.awaitsPeer (s : State) : Bool := decide (s.seq.phase = .armed) && decide (s.seq.mode = some .peer)

/-- An answer of Table 9-3. -/
inductive Answer where
  | acceptAgain
  | accept
  | reject (r : RejectReason)

/-- The first row of Table 9-3 that applies to a proposal (R147). -/
def State.answer (s : State) (t : AbsTime) : Answer :=
  if s.awaitsPeer then
    if s.peer.agreement = .agreed then
      if s.seq.startTime = some t then .acceptAgain else .reject .alreadyAgreed
    else if s.time.lock ≠ .locked then .reject .notLocked
    else if s.aheadOf t < 200000 then .reject .tooLate
    else .accept
  else .reject .notArmed

/-- A proposal accepted: agreement AGREED, start time stored (R147). -/
def State.agree (s : State) (t : AbsTime) : State :=
  { s with seq := { s.seq with startTime := some t }, peer := { s.peer with agreement := .agreed } }

/-- START_PROPOSE: answered at once (R147, Table 9-3). -/
def execStartPropose (startTime : AbsTime) (s : State) : Result :=
  s.receive fun s =>
    match s.answer startTime with
    | .acceptAgain => s.send (.startAccept startTime)
    | .accept => (s.agree startTime).send (.startAccept startTime)
    | .reject r => s.send (.startReject startTime r)

/-- START_ACCEPT: one that matches the proposal, taken while PROPOSING, makes the agreement AGREED
(R146). -/
def execStartAccept (startTime : AbsTime) (s : State) : Result :=
  s.receive fun s =>
    if s.peer.agreement = .proposing ∧ s.seq.startTime = some startTime then
      { s with peer := { s.peer with agreement := .agreed } }
    else s

/-- A reason that lets the proposing go on (R146). -/
def RejectReason.goesOn : RejectReason → Bool
  | .notArmed | .notLocked => true
  | .alreadyAgreed | .tooLate => false

/-- START_REJECT, taken while PROPOSING: the reason is stored, and TOO_LATE and ALREADY_AGREED end the shot
with PEER_REFUSED. The start time it carries is not compared (R146, Table 9-1; DEDUCED, log 25). -/
def execStartReject (_startTime : AbsTime) (reason : RejectReason) (s : State) : Result :=
  s.receive fun s =>
    if s.peer.agreement = .proposing then
      let s := { s with peer := { s.peer with lastReject := some reason } }
      if RejectReason.goesOn reason then s else s.softAbort .peerRefused
    else s

/-- The accept deadline: 100,000 µs before the start time (R146). -/
def State.deadlineDue (s : State) : Bool :=
  match s.seq.startTime with
  | some t =>
      decide (s.seq.phase = .armed) && decide (s.peer.agreement = .proposing) && decide (s.aheadOf t ≤ 100000)
  | none => false

/-- ACCEPT_DEADLINE: a shot still PROPOSING takes PEER_REFUSED (R146). -/
def execAcceptDeadline (s : State) : Result :=
  .next (if s.deadlineDue then s.softAbort .peerRefused else s)

/-! ### Remote events, states and ends (R148, R150) -/

/-- An absolute time on the shot scale: less the time of the first entry, 0 before it and while there is
none (R148, R150). A shot time has 32 bits (R110); what stands there for a later instant the manual does
not say, and it is a free value (log 37). -/
def State.shotTimeOfAbs (s : State) (t : AbsTime) : Nat :=
  match s.seq.firstEntryAt, s.seq.startTime with
  | some _, some b =>
      let d := (aheadBy t b).toNat
      if d < 4294967296 then d else (Config.freeShotTime s.freeUsed).toNat
  | _, _ => 0

/-- The shot part of an EVENT: an INPUT_CHANGE record of origin REMOTE, or a late drop (R150), whatever the number of
the input (DESIGN CHOICE, log 9). -/
def State.logRemote (s : State) (input : Nat) (level : Bool) (eventTime : AbsTime) : State :=
  if s.peerShot then
    State.offer s.useFree (s.shotTimeOfAbs eventTime) (.inputChange input level true eventTime)
  else { s with peer := { s.peer with lateDrops := countUp s.peer.lateDrops } }

/-- EVENT: logged with the shot flag, and an edge of teleprotection with the carrier flag where the source
is PEER (R150, R151). With both, the INPUT_CHANGE stands before the records of what a LATE edge changes: DESIGN
CHOICE (log 40). -/
def execEventFrame (input : Nat) (_role : InputRole) (level : Bool) (eventTime : AbsTime)
    (shot carrier : Bool) (s : State) : Result :=
  s.receive fun s =>
    let s := if shot then s.logRemote input level eventTime else s
    if carrier ∧ s.tp.source = .peer then s.takeEdge level eventTime else s

/-- STATE: replaces the far state in a peer-linked shot (R148), whatever its number (DESIGN CHOICE, log 9). -/
def execStateFrame (state : Nat) (cause : EntryCause) (entryTime : AbsTime) (s : State) : Result :=
  s.receive fun s =>
    if s.peerShot then
      State.useFree
        { s with peer := { s.peer with farState := some ⟨state, cause, s.shotTimeOfAbs entryTime⟩ } }
    else s

/-- ABORT: a soft abort with cause PEER_ABORT in a peer-linked shot that is ARMED, RUNNING or RAMPING_DOWN
(R148). -/
def execAbortFrame (_cause : AbortCause) (s : State) : Result :=
  s.receive fun s =>
    if s.seq.peerLinked then
      match s.seq.phase with
      | .armed | .running | .rampingDown => s.softAbort .peerAbort
      | .closing | .idle => s
    else s

/-- END: stored as the far ended item of a peer-linked shot (R148). -/
def execEndFrame (cause : EndCause) (s : State) : Result :=
  s.receive fun s =>
    if s.peerShot then { s with peer := { s.peer with farEnded := some cause } } else s

/-! ### TP_EDGE_DUE (R153, R154) -/

/-- TP_EDGE_DUE: the edge that falls due next is applied, and a pending resync is made where it was
the last (R153, R154). -/
def execTpEdgeDue (s : State) : Result :=
  .next (match s.dueAction with
    | some ⟨due, _, .tpEdge level, _⟩ => (s.dropDue.applyEdge level due).resyncCheck
    | _ => s)

end Sys2Proof.Machine
end

