-- ==== Sys2Proof/Machine/Program.lean ====
section
/-! DEFINITION. The program commands: WRITE_STATE, WRITE_BALANCED, READ_STATE, ERASE_STATE. -/

namespace Sys2Proof.Machine

/-! ### Applying or staging (R11, R158) -/

/-- The writing port's own pending copy of a slot. -/
def Slot.ownStaged (sl : Slot) (p : Port) : Option StateRecord :=
  match sl.staged with
  | some (q, r) => if q = p then some r else none
  | none => none

/-- The slot has a pending copy tagged by the other port (R159). -/
def Slot.otherStaged (sl : Slot) (p : Port) : Bool :=
  match sl.staged with
  | some (q, _) => decide (q ≠ p)
  | none => false

/-- A write is staged and not applied at once (R158). -/
def State.stages (s : State) (p : Port) (i : Fin 32) : Bool :=
  s.shotActive || s.edit.hold.get p || (s.store.slots[i].ownStaged p).isSome

/-- A slot replaced. -/
def State.setSlot (s : State) (i : Fin 32) (sl : Slot) : State :=
  { s with store := { s.store with slots := s.store.slots.set i sl } }

/-- The end of a write whose ranges have passed: orders 4 to 6 of Table 1-3, then the apply or the
staging, answered with the slot's revision (R11, R21, R158). That STALE carries no data is a DESIGN CHOICE
(log 38). -/
def State.finishWrite (s : State) (p : Port) (i : Fin 32) (expected : Nat) (r : StateRecord) : State :=
  let sl := s.store.slots[i]
  if expected ≠ sl.revision then s.respond p .stale .none
  else if sl.otherStaged p then s.respond p .pendingOther .none
  else if s.stages p i then
    match if s.shotActive then s.stagedWalk p i r else none with
    | some d => s.respond p .undefinedTarget d
    | none =>
        (s.setSlot i { sl with staged := some (p, r) }).respond p .ok (.written sl.revision .staged)
  else
    (s.setSlot i (sl.applyRecord r)).respond p .ok (.written (sl.applyRecord r).revision .applied)

/-! ### WRITE_STATE (R11, R12) -/

/-- WRITE_STATE: authority, the fields in code order, then the write (Table 1-3). -/
def execWriteState (p : Port) (index expected : Nat) (record : RawRecord) (s : State) : Result :=
  s.gated p fun s =>
    match firstFailure (recordChecks s.store.config index record), stateOfCode index with
    | some (code, position), _ => s.respond p .range (.field code position)
    | none, none => s.respond p .range (.field 1 0)
    | none, some i => s.finishWrite p i expected (RawRecord.stored record)

/-! ### WRITE_BALANCED (R13, R14) -/

/-- The record that a balanced write modifies: the writer's pending copy, else the active copy, else the
default record (R13, R14). -/
def Slot.balancedBase (sl : Slot) (p : Port) : StateRecord :=
  match sl.ownStaged p with
  | some r => r
  | none => sl.active.getD StateRecord.default

/-- WRITE_BALANCED: authority, the parameters in the order of R13, then the write of the record that
results (Table 1-3). DESIGN CHOICE: the state index is checked first, the group after it and the
sequence last (log 20). -/
def execWriteBalanced (p : Port) (index expected group amplitude frequency : Nat) (angle : Int)
    (order : Nat) (s : State) : Result :=
  s.gated p fun s =>
    match stateOfCode index, PhaseGroup.ofCode group with
    | none, _ => s.respond p .range (.field 1 0)
    | some _, none => s.respond p .range (.param .group)
    | some i, some g =>
        match firstFailure (balancedChecks s.store.config index g amplitude frequency angle),
            boolOfCode order with
        | some (code, position), _ => s.respond p .range (.field code position)
        | none, none => s.respond p .range (.param .order)
        | none, some acb =>
            s.finishWrite p i expected
              ((s.store.slots[i].balancedBase p).withBalanced g amplitude frequency angle acb)

/-! ### READ_STATE (R15) -/

/-- READ_STATE: the revision, the pending tag and the copy selected, ACTIVE as 0 and PENDING as 1
(R15). The marks EMPTY and ABSENT are one value of the response, a copy that is not there: DESIGN CHOICE
(log 8). -/
def execReadState (p : Port) (index selector : Nat) (s : State) : Result :=
  s.open_ p fun s =>
    match stateOfCode index, boolOfCode selector with
    | none, _ => s.respond p .range (.field 1 0)
    | some _, none => s.respond p .range (.param .selector)
    | some i, some staged =>
        let sl := s.store.slots[i]
        s.respond p .ok (.record sl.revision (sl.staged.map (·.1))
          (if staged then sl.staged.map (·.2) else sl.active))

/-! ### ERASE_STATE (R16) -/

/-- A slot erased: one already empty and with no pending copy is not changed (R16). -/
def Slot.erase (sl : Slot) : Slot :=
  if sl.active.isNone && sl.staged.isNone then sl
  else { active := none, staged := none, revision := (sl.revision + 1) % 65536 }

/-- ERASE_STATE: authority, phase, index (R16). -/
def execEraseState (p : Port) (index : Nat) (s : State) : Result :=
  s.gated p fun s =>
    if s.shotActive then s.respond p .busy .none
    else
      match stateOfCode index with
      | none => s.respond p .range (.field 1 0)
      | some i => (s.setSlot i (s.store.slots[i].erase)).respond p .ok .none

end Sys2Proof.Machine
end

