-- ==== Sys2Proof/Machine/Sampling.lean ====
section
/-! DEFINITION. The sample boundary, the amplifier returns, the ramp step and the forced limit of an
interruption. -/

namespace Sys2Proof.Machine

/-! ### Amplifier returns (R70, R167) -/

/-- The latch of a cause (Table 11-1); other causes have none. -/
def FaultLatches.has (l : FaultLatches) : AbortCause → Bool
  | .overload => l.overload
  | .disconnected => l.disconnected
  | .overtemp => l.overtemp
  | _ => false

def FaultLatches.set (l : FaultLatches) : AbortCause → FaultLatches
  | .overload => { l with overload := true }
  | .disconnected => { l with disconnected := true }
  | .overtemp => { l with overtemp := true }
  | _ => l

/-- A cause raised for a channel: in ARMED, RUNNING and RAMPING_DOWN a clear latch is set and the cause
handed over; otherwise nothing (R167). -/
def State.raiseFault (s : State) (c : Channel) (cause : AbortCause) : State :=
  let handed : Bool := decide (s.seq.phase ≠ .idle ∧ s.seq.phase ≠ .closing)
  if handed && !(s.guard.latches.get c).has cause then
    State.guardCause
      { s with guard := { s.guard with latches := s.guard.latches.set c ((s.guard.latches.get c).set cause) } }
      cause
  else s

/-- Returns of the channel are counted: no count has raised a cause (R70; log 36). -/
def AmpChannel.counting (a : AmpChannel) : Bool := decide (a.overload < 5 ∧ a.missing < 3)

/-- The counts after a return, and the cause that it raises (Table 3-7). -/
def AmpChannel.count (a : AmpChannel) : AmpStatus → AmpChannel × Option AbortCause
  | .ok => ({ a with overload := 0, missing := 0 }, none)
  | .overload =>
      ({ a with overload := a.overload + 1, missing := 0 },
       if a.overload + 1 = 5 then some .overload else none)
  | .overtemp => ({ a with overload := 0, missing := 0 }, some .overtemp)

/-- The counts after a missing return, and the cause that it raises (Table 3-7). -/
def AmpChannel.countMissing (a : AmpChannel) (valid : Bool) : AmpChannel × Option AbortCause :=
  if valid then
    ({ a with overload := 0, missing := a.missing + 1 },
     if a.missing + 1 = 3 then some .disconnected else none)
  else ({ a with overload := 0, missing := 0 }, none)

/-- A channel of the Amplifier Link replaced. -/
def State.setAmp (s : State) (c : Channel) (a : AmpChannel) : State :=
  { s with amp := { s.amp with channels := s.amp.channels.set c a } }

/-- The counts of a channel take a counted return, and its cause, if any, is raised (R70). -/
def State.takeCount (s : State) (c : Channel) (counted : AmpChannel × Option AbortCause) : State :=
  match counted.2 with
  | some cause => (s.setAmp c counted.1).raiseFault c cause
  | none => s.setAmp c counted.1

/-- AMPLIFIER_RETURN: the last status is set, and from ARM to the return to IDLE the return is counted
(R70). -/
def execAmplifierReturn (channel : Channel) (status : AmpStatus) (s : State) : Result :=
  let a := { s.amp.channels.get channel with status := status, returned := true }
  .next (if s.shotActive && a.counting then s.takeCount channel (a.count status) else s.setAmp channel a)

/-- A channel whose return for the frame sent last has not come by the boundary (R70). -/
def State.takeMissing (s : State) (c : Channel) : State :=
  let a := s.amp.channels.get c
  if s.shotActive && !a.returned && a.counting then s.takeCount c (a.countMissing (s.amp.frame.get c).valid)
  else s

/-! ### Samples (R53, R54, R57, R58, R65, R67, R69) -/

/-- The offset_tau that the current visit's record gives a channel. -/
def State.tauOf (s : State) (c : Channel) : Nat :=
  match s.seq.visit with
  | some v => (v.record.channels.get c).offsetTau
  | none => 0

/-- The peak code in use at this boundary: scaled in RAMPING_DOWN (R65). -/
def State.peakInUse (s : State) (peak : Nat) : Nat :=
  match s.seq.phase, s.seq.rampDownAt with
  | .rampingDown, some e => rampDownPeak peak ((s.now - e) / 100 + 1)
  | _, _ => peak

/-- The offset term for this boundary: a resuming channel starts from 0 where its state has an
offset_tau (R67), and RAMPING_DOWN has none (R65). `w` is the AC sample. -/
def SynthChannel.offsetNow (c : SynthChannel) (rampingDown : Bool) (tau : Nat) (w : Int) : Int :=
  if rampingDown then 0
  else if c.resuming then (if tau = 0 then 0 else -w)
  else c.offset

/-- The sum of a channel: AC sample and offset term (R53). -/
structure Formed where
  offset : Int
  sum    : Int

/-- A sample formed (R52, R53). -/
def SynthChannel.form (c : SynthChannel) (peak : Nat) (rampingDown : Bool) (tau : Nat) : Formed :=
  let w := acSample peak c.running
  let offset := c.offsetNow rampingDown tau w
  { offset := offset, sum := w + offset }

/-- The accumulator advances past the boundary (R49). -/
def SynthChannel.advance (c : SynthChannel) : SynthChannel := { c with acc := c.acc + c.increment }

/-- A channel whose sample is replaced by 0 and which is SILENCED (R67). -/
def SynthChannel.silence (c : SynthChannel) : SynthChannel :=
  { c with silencing := .silenced, offset := 0, last := 0, resuming := false }

/-- A channel that emits `code`, with the offset term of the next boundary (R53, R58). -/
def SynthChannel.emit (c : SynthChannel) (code offset : Int) (clipped : Bool) : SynthChannel :=
  { c with last := code, offset := decayOffset offset c.decay, resuming := false, clip := c.clip || clipped
           clipRecorded := c.clipRecorded || clipped }

/-- A channel of the synthesizer replaced. -/
def State.setSynth (s : State) (c : Channel) (ch : SynthChannel) : State :=
  { s with synth := { s.synth with channels := s.synth.channels.set c ch } }

/-- A subframe of the outgoing frame set. -/
def State.setSubframe (s : State) (c : Channel) (f : Subframe) : State :=
  { s with amp := { s.amp with frame := s.amp.frame.set c f } }

/-- The CLIP record of a first clamp in a visit (R53). -/
def State.offerClip (s : State) (c : Channel) (recorded : Bool) : State :=
  match s.seq.lastEntry with
  | some e => if recorded then s else s.offer (s.shotTime s.now) (.clip c e.state)
  | none => s

/-- The sample of one injecting channel: silenced, passing the current-zero test, or summed and clamped
(Table 3-4, R67, R53). -/
def State.sampleInjecting (s : State) (c : Channel) : State :=
  let ch := s.synth.channels.get c
  let peak := s.peakInUse ch.peak
  let valid : Bool := decide (peak ≠ 0)
  let formed := ch.form peak (decide (s.seq.phase = .rampingDown)) (s.tauOf c)
  if ch.silencing = .silenced then
    (s.setSynth c ch.silence.advance).setSubframe c { code := 0, valid := valid, mute := false }
  else if ch.silencing = .interrupting ∧ passesZero formed.sum ch.last = true then
    (s.setSynth c ch.silence.advance).setSubframe c { code := 0, valid := valid, mute := false }
  else
    let code := clampCode formed.sum
    let clipped : Bool := decide (code ≠ formed.sum)
    let s := if clipped then s.offerClip c ch.clipRecorded else s
    (s.setSynth c (ch.emit code formed.offset clipped).advance).setSubframe c
      { code := code, valid := valid, mute := false }

/-- The sample of one muted channel: 0, with the accumulator running except in IDLE (R49, R54). -/
def State.sampleMuted (s : State) (c : Channel) : State :=
  let ch := { s.synth.channels.get c with offset := 0, last := 0 }
  (s.setSynth c (if s.shotActive then ch.advance else ch)).setSubframe c .muted

/-- The sample of one channel (Table 3-4). -/
def State.sampleChannel (s : State) (c : Channel) : State :=
  if s.injecting then s.sampleInjecting c else s.sampleMuted c

/-- No return has come yet for the frame just sent (R70). -/
def State.awaitReturns (s : State) : State :=
  { s with amp := { s.amp with channels := s.amp.channels.mapWith fun _ a => { a with returned := false } } }

/-- Everything that happens at a sample boundary after the sequencer's events of it: the missing returns
of the frame before, the seven samples, the frame, and the interruptions that the silencings complete
(R53, R69, R70, R95; log 15 for the order). -/
def State.sampleBoundary (s : State) : State :=
  let s := allChannels.foldl (fun s c => s.takeMissing c) s
  let s := allChannels.foldl (fun s c => s.sampleChannel c) s
  let s := s.awaitReturns.settleInterruptions
  { s with time := { s.time with boundaryPassed := true, sampleDone := true } }

/-! ### RAMP_STEP (R62) -/

/-- A step of the ramp is due at this boundary and belongs to the current visit (R62). -/
def State.rampStepDue (s : State) : Bool :=
  match s.seq.phase, s.seq.visit, s.synth.ramp.ramp with
  | .running, some v, some r =>
      decide (s.synth.ramp.state = .stepping) && decide (s.synth.ramp.entry = v.entry)
        && decide (s.now = v.entry + s.synth.ramp.nextStep * (r.dwell * 100))
        && !s.time.sampleDone && !s.visitEndsHere
  | _, _, _ => false

/-- The step: the present value moves, held at the limit, and is set on the target (R61, R62). -/
def State.rampStep (s : State) : State :=
  match s.seq.visit, s.synth.ramp.ramp with
  | some v, some r =>
      let value := r.valueAt s.synth.ramp.nextStep
      let context := { s.synth.ramp with
        value := value, nextStep := s.synth.ramp.nextStep + 1
        state := if value = r.limit then .atLimit else .stepping }
      { s with synth := { channels := setRampValue s.synth.channels s.store.config v.record.channels r value
                          ramp := context } }
  | _, _ => s

/-! ### FORCED_LIMIT (R68, R96) -/

/-- The pole's forced limit is this boundary: the first at or after the interruption start plus 40,000 µs
(R96). -/
def State.forcedDue (s : State) (p : Pole) : Bool :=
  match (s.breaker.poles.get p).interruption, (s.breaker.poles.get p).start with
  | .inProgress, some t => s.atBoundary && !s.time.sampleDone && decide (t + 40000 ≤ s.now)
  | _, _ => false

/-- A linked channel still INTERRUPTING is cut (R68). -/
def SynthChannel.force (c : SynthChannel) : SynthChannel :=
  match c.silencing with
  | .interrupting => c.silence
  | _ => c

/-- The forced limit: channels cut, the interruption COMPLETE, and a DELAYED_ZERO record (R96). -/
def State.forceLimit (s : State) (p : Pole) : State :=
  let s := s.onLinked p (·.force)
  let s := s.setPole p { s.breaker.poles.get p with interruption := .complete }
  s.offerBreakerOp p .opened true s.now

/-- FORCED_LIMIT of a pole (R96). -/
def execForcedLimit (pole : Pole) (s : State) : Result :=
  .next (if s.forcedDue pole then s.forceLimit pole else s)

end Sys2Proof.Machine
end

