-- ==== Sys2Proof/Machine/Sequencing.lean ====
section
/-! DEFINITION. The sequencer's events: FIRST_ENTRY, STATE_ENTRY, STATE_TIMEOUT, CONDITION_ACTION_DUE,
EXIT_TO_END, SHOT_LIMIT, RAMP_DOWN_START, RAMP_DOWN_END, CLOSING_LINGER_END; and, as they must follow
the sequencer's events of their boundary, RAMP_STEP and SAMPLE_BOUNDARY. -/

namespace Sys2Proof.Machine

/-! ### FIRST_ENTRY (R25 to R28, R137) -/

/-- The boundary at which a first entry is fixed has come (R25, R26). -/
def State.startHere (s : State) : Bool :=
  match s.seq.startBoundary with
  | some b => decide (b ≤ s.now)
  | none => false

/-- The time of day has reached the start time (R137). -/
def State.startTimeHere (s : State) : Bool :=
  match s.seq.startTime with
  | some t => decide (s.timeOfDay = t % daySpan)
  | none => false

/-- The transition of a first entry: the one already chosen, or the first state with the inception of
its active copy (R28, R34). -/
def State.startTransition (s : State) (i : Fin 32) : Chosen :=
  match s.seq.chosen with
  | some c => c
  | none => { target := .state i, cause := .start, boundary := s.now, inception := s.inceptionOf (.state i) }

/-- What a first entry has to do at this instant. -/
inductive StartStep where
  | nothing
  | defer (c : Chosen)
  | enter (i : Fin 32) (deferred : Bool)

/-- A first entry at this boundary: AT_TIME and PEER enter at the start time whatever the inception; the
other modes wait for it (R28). -/
def State.startStep (s : State) : StartStep :=
  match s.seq.phase, s.seq.firstState with
  | .armed, some i =>
      if !s.openBoundary then .nothing
      else if s.timedStart then (if s.startTimeHere then .enter i false else .nothing)
      else if s.startHere then
        let c := s.startTransition i
        if s.inceptionReached c.inception then .enter i s.seq.deferring
        else if s.seq.deferring then .nothing
        else .defer c
      else .nothing
  | _, _ => .nothing

/-- A deferral begins: the choice of this boundary is taken (R34). -/
def State.defer (s : State) (c : Chosen) : State :=
  State.passBoundary { s with seq := { s.seq with chosen := some c, deferring := true } }

/-- A state is entered: the apply point, then the record as it stands (R30, R161). -/
def State.enter (s : State) (i : Fin 32) (cause : EntryCause) (deferred first : Bool) : Result :=
  let s := s.applyPoint
  match s.store.slots[i].active with
  | some r => .next (s.enterState i r cause deferred first)
  | none => .fault .entryToEmptyState

/-- FIRST_ENTRY (R28). -/
def execFirstEntry (s : State) : Result :=
  match s.startStep with
  | .nothing => .next s
  | .defer c => .next (s.defer c)
  | .enter i deferred => s.enter i .start deferred true

/-! ### STATE_ENTRY and STATE_TIMEOUT (R30, R32 to R35) -/

/-- The state that the choice at this boundary is for, with its transition. -/
def State.choiceOfState (s : State) : Option (Chosen × Fin 32) :=
  if s.choiceOpen then
    match s.transition with
    | some c =>
        match c.target with
        | .state i => some (c, i)
        | .finish => none
    | none => none
  else none

/-- STATE_ENTRY: at the chosen boundary the visit ends and the next state is entered; where its
inception is not yet reached, the deferral begins (R30, R34). The records of the visit's end stand before all those
of the entry (DEDUCED, log 30). -/
def execStateEntry (s : State) : Result :=
  match s.choiceOfState with
  | none => .next s
  | some (c, i) =>
      if s.inceptionReached c.inception then (s.endVisit false).enter i c.cause s.seq.deferring false
      else if s.seq.deferring then .next s
      else .next (s.defer c)

/-- STATE_ENTRY has something to do. -/
def State.stateEntryDue (s : State) : Bool :=
  match s.choiceOfState with
  | none => false
  | some (c, _) => s.inceptionReached c.inception || !s.seq.deferring

/-- The timeout is due at this boundary, with the choice still to be taken (R32, R33). -/
def State.timeoutDue (s : State) : Bool :=
  s.choiceOpen && s.seq.chosen.isNone
    && match s.seq.visit with
       | some v => decide (v.timeoutAt = some s.now)
       | none => false

/-- STATE_TIMEOUT: the candidates of the boundary are weighed and the winner becomes the chosen
transition; a target whose inception is not reached begins a deferral (R32 to R34). -/
def execStateTimeout (s : State) : Result :=
  .next (if s.timeoutDue then
      match s.transition with
      | some c =>
          match c.target with
          | .state _ =>
              if s.inceptionReached c.inception then { s with seq := { s.seq with chosen := some c } }
              else s.defer c
          | .finish => { s with seq := { s.seq with chosen := some c } }
      | none => s
    else s)

/-! ### CONDITION_ACTION_DUE (R32) -/

/-- Condition `i` of a list changed. -/
def updateCondition (f : CondState → CondState) : Nat → List CondState → List CondState
  | _, [] => []
  | 0, c :: rest => f c :: rest
  | n + 1, c :: rest => c :: updateCondition f n rest

/-- The condition of the current visit becomes a candidate for the first boundary at or after now and
later than the entry (R32). -/
def State.conditionFalls (s : State) (i : Fin 4) : State :=
  { s with seq := { s.seq with visit := s.seq.visit.map fun v =>
      { v with conditions :=
          updateCondition (fun c => c.fallDue s.seq.deferring s.nextBoundary) i.val v.conditions } } }

/-- CONDITION_ACTION_DUE of the condition whose action falls due next (R32, R140). -/
def execConditionActionDue (index : Fin 4) (s : State) : Result :=
  .next (match s.dueAction with
    | some ⟨_, _, .condition i, _⟩ => if i = index then s.dropDue.conditionFalls i else s
    | _ => s)

/-! ### EXIT_TO_END and SHOT_LIMIT (R36, R43, R148) -/

/-- The choice at this boundary is END. -/
def State.exitDue (s : State) : Bool :=
  s.choiceOpen
    && match s.transition with
       | some c => decide (c.target = .finish)
       | none => false

/-- The end cause of a shot that exits to END (R36, R43). -/
def State.exitCause (s : State) : EndCause := if s.seq.endAtExit then .abort .aborted else .completed

/-- The exit: the visit ends on its captures, the phase becomes CLOSING, and a peer-linked shot sends END
(R36, R43, R148). The records of the visit's end come before those of the outputs that fall: DESIGN CHOICE
(log 40). -/
def State.exitToEnd (s : State) : State :=
  let cause := s.exitCause
  let s := s.endVisit false
  let s := { s with seq := { s.seq with endCause := some cause } }
  let s := s.enterClosing.passBoundary
  if s.seq.peerLinked then s.send (.finish cause) else s

/-- EXIT_TO_END (R36). -/
def execExitToEnd (s : State) : Result := .next (if s.exitDue then s.exitToEnd else s)

/-- The shot limit falls due at this boundary (R36). -/
def State.shotLimitDue (s : State) : Bool :=
  decide (s.seq.phase = .running) && s.openBoundary && s.limitHere

/-- SHOT_LIMIT: a soft abort that ends the visit at this boundary itself (R36). Its ABORT record stands before
the records of the visit: DESIGN CHOICE of order (log 42). -/
def execShotLimit (s : State) : Result :=
  .next (if s.shotLimitDue then (s.takeRunningCause .shotLimit).startRampDown else s)

/-! ### RAMP_DOWN_START, RAMP_DOWN_END and CLOSING_LINGER_END (R37, R44, R65, R116) -/

/-- A soft abort ends the visit at this boundary (R37). -/
def State.rampDownStartDue (s : State) : Bool :=
  decide (s.seq.phase = .running) && s.openBoundary && s.softEndHere

/-- RAMP_DOWN_START (R37). -/
def execRampDownStart (s : State) : Result := .next (if s.rampDownStartDue then s.startRampDown else s)

/-- The 200 ramp-down samples are over (R65). -/
def State.rampDownEndDue (s : State) : Bool :=
  match s.seq.phase, s.seq.rampDownAt with
  | .rampingDown, some e => decide (e + 20000 ≤ s.now)
  | _, _ => false

/-- RAMP_DOWN_END: the phase becomes CLOSING (R37, R65). -/
def execRampDownEnd (s : State) : Result := .next (if s.rampDownEndDue then s.enterClosing else s)

/-- The 50 ms of CLOSING are over (R44). -/
def State.lingerDue (s : State) : Bool :=
  match s.seq.phase, s.seq.closingAt with
  | .closing, some e => decide (e + 50000 ≤ s.now)
  | _, _ => false

/-- The clip mask, copied from the CLIP latches (R116). -/
def State.clipMask (s : State) : PerChannel Bool := s.synth.channels.mapWith fun _ c => c.clip

/-- The SHOT_END record's fields (R116). The end cause of a shot in CLOSING is always stored. -/
def State.shotEndBody (s : State) : RecordBody :=
  .shotEnd (s.seq.endCause.getD .completed) s.seq.secondary s.log.lost s.log.saturated s.clipMask s.log.verdicts
    (if s.time.degraded then .degraded else .good)

/-- A channel's counts at the return to IDLE (R70). -/
def AmpChannel.returnToIdle (c : AmpChannel) : AmpChannel := { c with overload := 0, missing := 0 }

/-- The return to IDLE (R44, R61, R70, R142, R161). The shot's other items stand until the next ARM
(log 33), and so do the shot quality and the shot degraded flag: DESIGN CHOICE (log 43). -/
def State.returnToIdle (s : State) : State :=
  let s := { s with
    seq := { s.seq with phase := .idle, closingAt := none }
    synth := { s.synth with ramp := .powerOn }
    amp := { s.amp with channels := s.amp.channels.mapWith fun _ c => AmpChannel.returnToIdle c }
    peer := { s.peer with agreement := .none } }
  (s.raiseBoth .shotEnded).applyPoint

/-- CLOSING_LINGER_END: SHOT_END into its reserved slot, then the return to IDLE (R44, R116). -/
def execClosingLingerEnd (s : State) : Result :=
  .next (if s.lingerDue then (s.writeShotEnd (s.shotTime s.now) s.shotEndBody).returnToIdle else s)

/-! ### RAMP_STEP and SAMPLE_BOUNDARY -/

/-- A ramp step comes after the sequencer's choice of its boundary: where the choice begins a deferral,
the deferral begins first (R34, R62; DEDUCED, log 18). -/
def State.settleChoice (s : State) : State :=
  match s.choiceOfState with
  | some (c, _) => if s.inceptionReached c.inception || s.seq.deferring then s else s.defer c
  | none => s

/-- RAMP_STEP (R62). The choice of this boundary is taken with it, so that the visit does not end here
after its step (log 18). -/
def execRampStep (s : State) : Result :=
  .next (if s.rampStepDue then s.settleChoice.rampStep.passBoundary else s)

/-- FIRST_ENTRY has something to do. -/
def State.firstEntryDue (s : State) : Bool :=
  match s.startStep with
  | .nothing => false
  | _ => true

/-- Some event of the sequencer, a ramp step or a forced limit is due at this boundary and comes before
its samples (DEDUCED, log 5). -/
def State.boundaryBusy (s : State) : Bool :=
  s.firstEntryDue || s.stateEntryDue || s.timeoutDue || s.exitDue || s.shotLimitDue || s.rampDownStartDue
    || s.rampDownEndDue || s.rampStepDue || allPoles.any (fun p => s.forcedDue p)

/-- The samples of this boundary are due. -/
def State.boundaryDue (s : State) : Bool := s.atBoundary && !s.time.sampleDone && !s.boundaryBusy

/-- SAMPLE_BOUNDARY (R53, R69). -/
def execSampleBoundary (s : State) : Result := .next (if s.boundaryDue then s.sampleBoundary else s)

end Sys2Proof.Machine
end

