-- ==== Sys2Proof/Machine/Timekeeping.lean ====
section
/-! DEFINITION. The Time Base: lock states, PPS edges, slews, timeouts, and the passing of one
microsecond. -/

namespace Sys2Proof.Machine

/-! ### Lock states (R128, R136, R137) -/

/-- The shot quality under a lock state (R136). -/
def TimeBase.judge (t : TimeBase) (active : Bool) : TimeBase :=
  if active && t.armedLocked then
    if t.lock = .locked then { t with quality := .good } else { t with quality := .degraded, degraded := true }
  else t

/-- The lock state takes a value: a change raises TIME_QUALITY, judges the shot quality, and, where it
leaves LOCKED in ARMED, ends an AT_TIME or PEER shot with TIME_LOST (R128, R136, R137). -/
def State.setLock (s : State) (l : LockState) : State :=
  if s.time.lock = l then s
  else
    let was := s.time.lock
    let s := { s with time := { s.time with lock := l }.judge s.shotActive }
    let s := s.raiseBoth .timeQuality
    if was = .locked ∧ s.seq.phase = .armed ∧ s.timedStart = true then s.softAbort .timeLost else s

/-! ### PPS_EDGE (R130 to R133, R135) -/

/-- The phase error of a counter value (R131). -/
def phaseError (c : Nat) : Int := if c < 500000 then c else (c : Int) - 1000000

/-- The interval since the last edge is good (R131). -/
def TimeBase.goodInterval (t : TimeBase) : Bool :=
  match t.lastEdge with
  | some e => decide (999998 ≤ t.localTime - e ∧ t.localTime - e ≤ 1000002)
  | none => false

/-- A phase error that is slewed and not stepped (R133). -/
def smallError (e : Int) : Bool := decide (e.natAbs ≤ 20)

/-- The second after one (R129). -/
def nextSecondOf (n : Nat) : Nat := (n + 1) % 4294967296

/-- A re-phase: the counter becomes 0 and the second that begins takes its number (R132). Where the
counter was not 0, the boundary and the input sample at counter 0 are new ones (R129); one that stood untaken at
the counter value left is not taken any more: DESIGN CHOICE (log 44). -/
def TimeBase.rephase (t : TimeBase) : TimeBase :=
  let number :=
    match t.loaded with
    | some n => n
    | none => if 500000 ≤ t.counter then nextSecondOf t.seconds else t.seconds
  let fresh : Bool := decide (t.counter ≠ 0)
  { t with
    counter := 0, seconds := number, loaded := none, nextSecond := none
    boundaryPassed := t.boundaryPassed && !fresh, sampleDone := t.sampleDone && !fresh
    inputsDone := t.inputsDone && !fresh, endFixed := t.endFixed && !fresh }

/-- A loaded value taken by an edge that does not re-phase: at once, or at the wrap that follows
(R130; DEDUCED, log 26). -/
def TimeBase.takeLoaded (t : TimeBase) (e : Int) : TimeBase :=
  match t.loaded with
  | none => t
  | some n =>
      if 0 ≤ e then { t with seconds := n, loaded := none } else { t with nextSecond := some n, loaded := none }

/-- The slew that a small error asks for (R133). -/
def TimeBase.slewFor (t : TimeBase) (e : Int) : TimeBase :=
  if 0 < e then { t with slew := .insert } else if e < 0 then { t with slew := .drop } else t

/-- The count of good intervals in LOCKING after an edge (R132). -/
def TimeBase.countGood (t : TimeBase) : TimeBase :=
  { t with good := if t.goodInterval then min 3 (t.good + 1) else 0, slew := .none }

/-- What an edge does to the Time Base, and the lock state it leaves, before the edge is stored
(R132, R133, R135). `active` says that a shot is active. A re-phase that a shot deferred is made by the first edge
in FREE or LOCKING after it; a Time Base that became LOCKED in the shot has nothing left of it and slews: DESIGN
CHOICE (log 45). -/
def TimeBase.edge (t : TimeBase) (active : Bool) : TimeBase × LockState :=
  let e := phaseError t.counter
  match t.lock with
  | .free =>
      let t := { t with good := 0 }
      (if active then t else t.rephase, .locking)
  | .locking =>
      let t := t.countGood
      let left := if active then e else 0
      (if active then t else t.rephase, if t.good = 3 ∧ smallError left = true then .locked else .locking)
  | .locked =>
      if smallError e then
        let t := t.slewFor e
        (if active then t else t.takeLoaded e, .locked)
      else
        let t := { t with good := 0, slew := .none }
        (if active then t else t.rephase, .locking)
  | .holdover =>
      if smallError e then
        let t := t.slewFor e
        (if active then t else t.takeLoaded e, .locked)
      else
        let t := { t with good := 0 }
        (if active then t else t.rephase, .locking)

/-- The edge is stored: its local time and its error (R131). -/
def TimeBase.store (t : TimeBase) (e : Int) : TimeBase := { t with lastEdge := some t.localTime, lastError := e }

/-- PPS_EDGE (R131). -/
def execPpsEdge (s : State) : Result :=
  let taken := s.time.edge s.shotActive
  .next (State.setLock { s with time := taken.1.store (phaseError s.time.counter) } taken.2)

/-! ### Timeouts (R135) -/

/-- Local time since the last edge has reached a span. -/
def TimeBase.silentFor (t : TimeBase) (span : Nat) : Bool :=
  match t.lastEdge with
  | some e => decide (e + span ≤ t.localTime)
  | none => false

/-- PPS_TIMEOUT is due: 1,100 ms without an edge, in LOCKED or LOCKING (R135). -/
def TimeBase.timeoutDue (t : TimeBase) : Bool :=
  decide (t.lock = .locked ∨ t.lock = .locking) && t.silentFor 1100000

/-- PPS_TIMEOUT: LOCKED becomes HOLDOVER, LOCKING becomes FREE with a count of 0 (R135). -/
def execPpsTimeout (s : State) : Result :=
  .next (if s.time.timeoutDue then
      match s.time.lock with
      | .locked => s.setLock .holdover
      | _ => State.setLock { s with time := { s.time with good := 0 } } .free
    else s)

/-- HOLDOVER_TIMEOUT is due: a further 60 s without an edge (R135). -/
def TimeBase.holdoverDue (t : TimeBase) : Bool := decide (t.lock = .holdover) && t.silentFor 61100000

/-- HOLDOVER_TIMEOUT: HOLDOVER becomes FREE (R135). -/
def execHoldoverTimeout (s : State) : Result := .next (if s.time.holdoverDue then s.setLock .free else s)

/-! ### The passing of time (R129, R134) -/

/-- Nothing has been taken yet at a new counter value. -/
def TimeBase.fresh (t : TimeBase) : TimeBase :=
  { t with boundaryPassed := false, sampleDone := false, inputsDone := false, endFixed := false }

/-- Local time after an advance: 64 bits (Table 8-1; log 10). -/
def advanceLocal (t n : Nat) : Nat := (t + n) % 18446744073709551616

/-- One microsecond of the oscillator: counter and local time advance, and the second changes at the wrap
(R129, R130). A number that an edge in IDLE left for the wrap is taken also where a shot has been armed in between:
DESIGN CHOICE (log 47). -/
def TimeBase.advance (t : TimeBase) : TimeBase :=
  let t := { t with localTime := advanceLocal t.localTime 1 }.fresh
  if t.counter = 999999 then
    { t with counter := 0, seconds := t.nextSecond.getD (nextSecondOf t.seconds), nextSecond := none }
  else { t with counter := t.counter + 1 }

/-- The microsecond of the slew point: INSERT holds the counter, DROP advances it by two (R134). -/
def TimeBase.slewed (t : TimeBase) : TimeBase :=
  match t.slew with
  | .none => t
  | .insert => { t with slew := .none }
  | .drop => { t with slew := .none, counter := t.counter + 2, localTime := advanceLocal t.localTime 2 }.fresh

/-- A slew is made at this instant: the slew point, in LOCKED or HOLDOVER, with one pending (R134). -/
def TimeBase.slewDue (t : TimeBase) : Bool :=
  decide (t.counter = 500004) && decide (t.slew ≠ .none) && decide (t.lock = .locked ∨ t.lock = .holdover)

/-- SLEW_POINT (R134). -/
def execSlewPoint (s : State) : Result :=
  .next (if s.time.slewDue then { s with time := s.time.slewed } else s)

/-- A counter value has been reached: it is marked whether the end of the visit stands fixed for it (R84). -/
def State.markEnd (s : State) : State := { s with time := { s.time with endFixed := s.visitEndsHere } }

/-- The clock of an idle part ticks (R129; log 1). -/
def State.advanceClock (s : State) : State := State.markEnd { s with time := s.time.advance }

end Sys2Proof.Machine
end

