-- ==== Sys2Proof/Machine/Dispatch.lean ====
section
/-! DEFINITION. One arm for each command and event: a direct call of its meaning. -/

namespace Sys2Proof.Machine

def exec (i : Instr) (s : State) : Host.Outcome State Fault Refusal :=
  match i with
  | .powerOn level => Sys2Proof.Machine.execPowerOn level s
  | .badFrame p => Sys2Proof.Machine.execBadFrame p s
  | .unknown p => Sys2Proof.Machine.execUnknown p s
  | .getStatus p sect => Sys2Proof.Machine.execGetStatus p sect s
  | .configChannel p channel range trim link => Sys2Proof.Machine.execConfigChannel p channel range trim link s
  | .configInput p input polarity debounce role => Sys2Proof.Machine.execConfigInput p input polarity debounce role s
  | .configOutput p output role => Sys2Proof.Machine.execConfigOutput p output role s
  | .configBreaker p setting tripTime closeTime => Sys2Proof.Machine.execConfigBreaker p setting tripTime closeTime s
  | .configTeleprotection p source delay => Sys2Proof.Machine.execConfigTeleprotection p source delay s
  | .writeState p index expected record => Sys2Proof.Machine.execWriteState p index expected record s
  | .writeBalanced p index expected group amplitude frequency angle order => Sys2Proof.Machine.execWriteBalanced p index expected group amplitude frequency angle order s
  | .readState p index selector => Sys2Proof.Machine.execReadState p index selector s
  | .eraseState p index => Sys2Proof.Machine.execEraseState p index s
  | .hold p => Sys2Proof.Machine.execHold p s
  | .release p => Sys2Proof.Machine.execRelease p s
  | .setAuthority p value => Sys2Proof.Machine.execSetAuthority p value s
  | .arm p first mode mask value startTime peer period initial => Sys2Proof.Machine.execArm p first mode mask value startTime peer period initial s
  | .start p => Sys2Proof.Machine.execStart p s
  | .abort p option => Sys2Proof.Machine.execAbort p option s
  | .adjust p target quantity mode value => Sys2Proof.Machine.execAdjust p target quantity mode value s
  | .setOutput p setMask clearMask => Sys2Proof.Machine.execSetOutput p setMask clearMask s
  | .setTime p seconds => Sys2Proof.Machine.execSetTime p seconds s
  | .drainEnable p selector => Sys2Proof.Machine.execDrainEnable p selector s
  | .readPage p page first => Sys2Proof.Machine.execReadPage p page first s
  | .releasePage p page => Sys2Proof.Machine.execReleasePage p page s
  | .notifyEnable p selector causes => Sys2Proof.Machine.execNotifyEnable p selector causes s
  | .notifyAck p causes => Sys2Proof.Machine.execNotifyAck p causes s
  | .softReset p => Sys2Proof.Machine.execSoftReset p s
  | .eStopAsserted => Sys2Proof.Machine.execEStopAsserted s
  | .eStopReleased => Sys2Proof.Machine.execEStopReleased s
  | .acceptedChange input => Sys2Proof.Machine.execAcceptedChange input s
  | .sampleBoundary => Sys2Proof.Machine.execSampleBoundary s
  | .amplifierReturn channel status => Sys2Proof.Machine.execAmplifierReturn channel status s
  | .rampStep => Sys2Proof.Machine.execRampStep s
  | .firstEntry => Sys2Proof.Machine.execFirstEntry s
  | .stateEntry => Sys2Proof.Machine.execStateEntry s
  | .stateTimeout => Sys2Proof.Machine.execStateTimeout s
  | .exitToEnd => Sys2Proof.Machine.execExitToEnd s
  | .shotLimit => Sys2Proof.Machine.execShotLimit s
  | .rampDownStart => Sys2Proof.Machine.execRampDownStart s
  | .rampDownEnd => Sys2Proof.Machine.execRampDownEnd s
  | .closingLingerEnd => Sys2Proof.Machine.execClosingLingerEnd s
  | .openingActionDue pole => Sys2Proof.Machine.execOpeningActionDue pole s
  | .closeActionDue pole => Sys2Proof.Machine.execCloseActionDue pole s
  | .forcedLimit pole => Sys2Proof.Machine.execForcedLimit pole s
  | .conditionActionDue index => Sys2Proof.Machine.execConditionActionDue index s
  | .stateOutputDue => Sys2Proof.Machine.execStateOutputDue s
  | .tpEdgeDue => Sys2Proof.Machine.execTpEdgeDue s
  | .keepaliveExpiry => Sys2Proof.Machine.execKeepaliveExpiry s
  | .flushTimerExpiry p => Sys2Proof.Machine.execFlushTimerExpiry p s
  | .ppsEdge => Sys2Proof.Machine.execPpsEdge s
  | .slewPoint => Sys2Proof.Machine.execSlewPoint s
  | .ppsTimeout => Sys2Proof.Machine.execPpsTimeout s
  | .holdoverTimeout => Sys2Proof.Machine.execHoldoverTimeout s
  | .sendTimerExpiry => Sys2Proof.Machine.execSendTimerExpiry s
  | .lossTimerExpiry => Sys2Proof.Machine.execLossTimerExpiry s
  | .invalidPeerFrame => Sys2Proof.Machine.execInvalidPeerFrame s
  | .hello version tag heard => Sys2Proof.Machine.execHello version tag heard s
  | .keepalive => Sys2Proof.Machine.execKeepalive s
  | .startPropose startTime => Sys2Proof.Machine.execStartPropose startTime s
  | .startAccept startTime => Sys2Proof.Machine.execStartAccept startTime s
  | .startReject startTime reason => Sys2Proof.Machine.execStartReject startTime reason s
  | .acceptDeadline => Sys2Proof.Machine.execAcceptDeadline s
  | .eventFrame input role level eventTime shot carrier => Sys2Proof.Machine.execEventFrame input role level eventTime shot carrier s
  | .stateFrame state cause entryTime => Sys2Proof.Machine.execStateFrame state cause entryTime s
  | .abortFrame cause => Sys2Proof.Machine.execAbortFrame cause s
  | .endFrame cause => Sys2Proof.Machine.execEndFrame cause s
  | .inputSample pins => Sys2Proof.Machine.execInputSample pins s

end Sys2Proof.Machine
end

