-- ==== Sys2Proof/Machine/Due.lean ====
section
/-! DEFINITION. The events that are due at this instant by the part itself: those that the passing of
time, the Timed Action List, the sequencer and the Input Timer bring about (00 section 1.3; log 1). -/

namespace Sys2Proof.Machine

/-- An event if it is due. -/
def dueIf (due : Bool) (i : Instr) : List Instr := if due then [i] else []

/-- The event of the timed action that falls due next (R140). -/
def State.actionEvents (s : State) : List Instr :=
  match s.dueAction with
  | none => []
  | some a =>
      match a.work with
      | .pole p .opening => [.openingActionDue p]
      | .pole p .closing => [.closeActionDue p]
      | .condition i => [.conditionActionDue i]
      | .stateOutput .. => [.stateOutputDue]
      | .tpEdge _ => [.tpEdgeDue]

/-- Inputs whose change has been accepted at this sample (R72, R76). -/
def State.acceptEvents (s : State) : List Instr :=
  (List.finRange 12).flatMap fun n =>
    dueIf (s.inputs.inputs[n].ready && s.inputs.inputs[n].candidate.isSome) (.acceptedChange n)

/-- The sequencer's events of this boundary (R28 to R37, R44, R62). -/
def State.sequencerEvents (s : State) : List Instr :=
  dueIf s.firstEntryDue .firstEntry ++ dueIf s.stateEntryDue .stateEntry ++ dueIf s.timeoutDue .stateTimeout
    ++ dueIf s.exitDue .exitToEnd ++ dueIf s.shotLimitDue .shotLimit
    ++ dueIf s.rampDownStartDue .rampDownStart ++ dueIf s.rampDownEndDue .rampDownEnd
    ++ dueIf s.lingerDue .closingLingerEnd ++ dueIf s.rampStepDue .rampStep

/-- The timers that have expired, but for the flush timers. -/
def State.timerEvents (s : State) : List Instr :=
  dueIf s.keepaliveDue .keepaliveExpiry ++ dueIf s.time.timeoutDue .ppsTimeout
    ++ dueIf s.time.holdoverDue .holdoverTimeout ++ dueIf s.sendDue .sendTimerExpiry
    ++ dueIf s.lossDue .lossTimerExpiry ++ dueIf s.deadlineDue .acceptDeadline

/-- Every event due at this instant but the flush expiries. None of them reads a drain channel, so that the
expiries leave them as they are. -/
def State.otherEvents (s : State) : List Instr :=
  s.acceptEvents ++ s.actionEvents ++ s.sequencerEvents
    ++ allPoles.flatMap (fun p => dueIf (s.forcedDue p) (.forcedLimit p))
    ++ s.timerEvents ++ dueIf s.boundaryDue .sampleBoundary
    ++ dueIf s.sampleDue (.inputSample s.inputs.pins)

/-- The flush expiries due at this instant (R121). -/
def State.flushEvents (s : State) : List Instr :=
  [Port.sequence, Port.panel].flatMap fun p => dueIf (s.flushDue p) (.flushTimerExpiry p)

/-- Every event due at this instant. -/
def State.dueEvents (s : State) : List Instr := s.otherEvents ++ s.flushEvents

/-- The event that the part takes next by itself, flush expiries apart: one of those due, in an order that the
manual leaves open, or the slew point once none is due (R134, R140; logs 1 and 3). -/
def State.nextEvent (s : State) : Option Instr :=
  match s.otherEvents with
  | [] => if s.time.slewDue then some .slewPoint else none
  | e :: rest => some ((e :: rest).getD (s.freeChoice (rest.length + 1)) e)

/-! ### Flush expiries (R122) -/

/-- No instant has as many events. -/
def eventsOfAnInstant : Nat := 100

/-- Within the events still to come at this instant, taken in the order in which they come, a page of the
port's channel is handed over: one of them copies a sixteenth record or a SHOT_END (R121, R122). The number
bounds the events looked at. -/
def State.restHandsOver (p : Port) : Nat → State → Bool
  | 0, _ => false
  | n + 1, s =>
      match s.otherEvents, s.nextEvent with
      | _ :: _, some e =>
          match exec e s.useFree with
          | .next t => decide ((t.drains.get p).count ≠ (s.drains.get p).count) || State.restHandsOver p n t
          | .fault _ => false
          | .refused _ => false
      | _, _ => false

/-- A flush expiry is taken now. It waits for a handover that the rest of its instant makes, and then finds the
timer stopped; with no other event due it is taken; and otherwise a free value says whether it comes before the
next event (R122; log 3). -/
def State.flushNow (s : State) (p : Port) : Bool :=
  s.flushDue p && !s.restHandsOver p eventsOfAnInstant
    && (s.otherEvents.isEmpty || Config.freeExpiry s.freeUsed p)

/-- The port whose flush expiry is taken now. Expiries of the two ports act on separate channels. -/
def State.flushPort (s : State) : Option Port := [Port.sequence, Port.panel].find? s.flushNow

end Sys2Proof.Machine
end

