-- ==== Sys2Proof/Machine/Step.lean ====
section
/-! DEFINITION. One step: the command at the front of the queue, or, when none waits, an event that is due
at this instant, or else one microsecond of the clock (log 1). -/

namespace Sys2Proof.Machine

/-- What the part does by itself while no command waits: a flush expiry, another event, or a microsecond
(00 section 1.3; log 1). Each event but a flush expiry counts one free value. -/
def State.idleStep (s : State) : Host.Outcome State Fault Refusal :=
  match s.flushPort, s.nextEvent with
  | some p, _ => exec (.flushTimerExpiry p) s
  | none, some e => exec e s.useFree
  | none, none => .next s.advanceClock

/-- One step. -/
def step (s : State) : Host.Outcome State Fault Refusal :=
  match s.pending with
  | c :: rest => exec c { s with pending := rest }
  | [] => s.idleStep

/-- The state with the command that a word spells put at the front of its queue. No word spells one
(log 27). -/
def State.withFetchWord (s : State) (nbits w : Nat) : State :=
  match decodeTableWord nbits w with
  | some c => { s with pending := c :: s.pending }
  | none => s

end Sys2Proof.Machine
end

