-- ==== Sys2Proof/Machine/Frames.lean ====
section
/-! DEFINITION. The byte layouts of chapter 12: the command that a command frame carries (R168, R169), the
event that a peer frame carries (R143, Table 12-8), and the bytes of a state record, a report record and a
peer frame (Tables 12-6 to 12-8). The order of a command's parameters is that in which its rule lists
them, in the number of bytes of Table 12-1 (DEDUCED, log 9). -/

namespace Sys2Proof.Machine

/-! ### Fields (12.5) -/

/-- A number sent most significant byte first. -/
def natOfBytes (bytes : List Byte) : Nat := bytes.foldl (fun n b => n * 256 + b.toNat) 0

/-- A field of `len` bytes at an offset. -/
def fieldAt (bytes : List Byte) (offset len : Nat) : Nat := natOfBytes ((bytes.drop offset).take len)

/-- A signed field, in two's complement. -/
def signedAt (bytes : List Byte) (offset len : Nat) : Int :=
  let n := fieldAt bytes offset len
  if n < 256 ^ len / 2 then n else (n : Int) - (256 ^ len : Nat)

/-- A 16-bit mask or match value. -/
def maskAt (bytes : List Byte) (offset : Nat) : Mask := BitVec.ofNat 16 (fieldAt bytes offset 2)

/-- An absolute time: 4 bytes of seconds and 3 bytes of microseconds. -/
def timeAt (bytes : List Byte) (offset : Nat) : AbsTime :=
  fieldAt bytes offset 4 * 1000000 + fieldAt bytes (offset + 4) 3

/-- A number as `len` bytes, most significant byte first. -/
def bytesOf : Nat → Nat → List Byte
  | 0, _ => []
  | len + 1, n => bytesOf len (n / 256) ++ [BitVec.ofNat 8 n]

/-- A signed number as `len` bytes in two's complement. -/
def signedBytes (len : Nat) (v : Int) : List Byte := bytesOf len (v % (256 ^ len : Nat)).toNat

/-- An absolute time as its 7 bytes. -/
def timeBytes (t : AbsTime) : List Byte := bytesOf 4 (t / 1000000) ++ bytesOf 3 (t % 1000000)

/-- A field of one byte. -/
def byteOf (n : Nat) : List Byte := bytesOf 1 n

def boolByte (b : Bool) : List Byte := byteOf (if b then 1 else 0)

/-- Bytes filled up with 0 to a length. -/
def padTo (len : Nat) (bytes : List Byte) : List Byte := (bytes ++ List.replicate len 0).take len

/-! ### The codes of enumerated values (12.5) -/

def portCode : Port → Nat
  | .sequence => 0
  | .panel => 1

def channelCode (c : Channel) : Nat := c.position - 1

def poleCode : Pole → Nat
  | .a => 0
  | .b => 1
  | .c => 2

def nextCode : Next → Nat
  | .state i => i.val
  | .finish => 255

def linkCode : BreakerLink → Nat
  | .configured => 0
  | .pole p => poleCode p + 1
  | .none => 4

def targetCode : Target → Nat
  | .channel c => channelCode c
  | .group .v => 7
  | .group .i => 8

def quantityCode : Quantity → Nat
  | .amplitude => 0
  | .phase => 1
  | .frequency => 2

def expectationCode : Expectation → Nat
  | .mustTrip => 0
  | .mustNotTrip => 1

def modeCode : StartMode → Nat
  | .immediate => 0
  | .onCommand => 1
  | .onInput .. => 2
  | .atTime _ => 3
  | .peer => 4

def lockCode : LockState → Nat
  | .free => 0
  | .locking => 1
  | .locked => 2
  | .holdover => 3

/-- Entry causes (Table 12-7). -/
def entryCode : EntryCause → Nat
  | .start => 0
  | .condition i => i.val + 1
  | .timeout => 5

def entryOfCode (n : Nat) : Option EntryCause :=
  if n = 0 then some .start
  else if h : n - 1 < 4 then some (.condition ⟨n - 1, h⟩)
  else if n = 5 then some .timeout
  else none

def sourceCode : OutputSource → Nat
  | .sequence => 0
  | .panel => 1
  | .state => 2
  | .close => 3
  | .breaker => 4
  | .teleprotection => 5

def outcomeCode : BreakerOutcome → Nat
  | .opened => 0
  | .closed => 1
  | .refused => 2

def verdictCode : Verdict → Nat
  | .pass => 0
  | .early => 1
  | .late => 2
  | .noTrip => 3
  | .unexpected => 4
  | .alreadyActive => 5
  | .aborted => 6

def tpKindCode : TpEventKind → Nat
  | .late => 0
  | .dropped => 1
  | .resync => 2

/-- The abort causes in the order of Table 11-2, from 1. -/
def abortCode : AbortCause → Nat
  | .aborted => 1
  | .guardExpired => 2
  | .overtemp => 3
  | .peerAbort => 4
  | .peerLost => 5
  | .shotLimit => 6
  | .timeLost => 7
  | .peerRefused => 8
  | .eStop => 9
  | .overload => 10
  | .disconnected => 11

def abortOfCode : Nat → Option AbortCause
  | 1 => some .aborted
  | 2 => some .guardExpired
  | 3 => some .overtemp
  | 4 => some .peerAbort
  | 5 => some .peerLost
  | 6 => some .shotLimit
  | 7 => some .timeLost
  | 8 => some .peerRefused
  | 9 => some .eStop
  | 10 => some .overload
  | 11 => some .disconnected
  | _ => none

/-- COMPLETED as 0, then the abort causes. -/
def endCode : EndCause → Nat
  | .completed => 0
  | .abort c => abortCode c

def endOfCode (n : Nat) : Option EndCause := if n = 0 then some .completed else (abortOfCode n).map .abort

def inputRoleCode : InputRole → Nat
  | .general => 0
  | .tripA => 1
  | .tripB => 2
  | .tripC => 3
  | .trip3P => 4
  | .close => 5
  | .carrierSend => 6

/-- Reasons in the order of Table 9-3. -/
def reasonCode : RejectReason → Nat
  | .alreadyAgreed => 0
  | .notArmed => 1
  | .notLocked => 2
  | .tooLate => 3

def reasonOfCode : Nat → Option RejectReason
  | 0 => some .alreadyAgreed
  | 1 => some .notArmed
  | 2 => some .notLocked
  | 3 => some .tooLate
  | _ => none

/-- Status codes (Table 12-2). -/
def Status.code : Status → Nat
  | .ok => 0
  | .badFrame => 1
  | .unknown => 2
  | .range => 3
  | .authority => 4
  | .busy => 5
  | .stale => 6
  | .pendingOther => 7
  | .undefinedTarget => 8
  | .conflict => 9
  | .notLocked => 10
  | .peerDown => 11
  | .logFull => 12
  | .noDrain => 13
  | .stopped => 14
  | .notReady => 15
  | .notOwner => 16

/-! ### The state record (Table 12-6) -/

def channelAt (b : List Byte) (o : Nat) : RawChannel :=
  { amplitude := fieldAt b o 3, phase := signedAt b (o + 3) 2, frequency := fieldAt b (o + 5) 3
    offsetTau := fieldAt b (o + 8) 2, link := fieldAt b (o + 10) 1 }

def conditionAt (b : List Byte) (o : Nat) : RawCondition :=
  { enable := maskAt b o, value := maskAt b (o + 2), hold := fieldAt b (o + 4) 3, next := fieldAt b (o + 7) 1 }

def rampAt (b : List Byte) (o : Nat) : RawRamp :=
  { target := fieldAt b o 1, quantity := fieldAt b (o + 1) 1, start := signedAt b (o + 2) 4
    step := signedAt b (o + 6) 4, limit := signedAt b (o + 10) 4, dwell := fieldAt b (o + 14) 3
    stopMask := maskAt b (o + 17) }

def assessmentAt (b : List Byte) (o : Nat) : RawAssessment :=
  { mask := maskAt b o, expectation := fieldAt b (o + 2) 1, nominal := fieldAt b (o + 3) 4
    tolAbs := fieldAt b (o + 7) 4, permille := fieldAt b (o + 11) 2 }

/-- A once byte other than 0 sets the flag (log 9). -/
def actionAt (b : List Byte) (o : Nat) : RawAction :=
  { output := fieldAt b o 1, level := fieldAt b (o + 1) 1, delay := fieldAt b (o + 2) 3
    once := decide (fieldAt b (o + 5) 1 ≠ 0) }

/-- The record of 216 bytes, as written (Table 12-6). Bits 3 to 7 of its byte 5, which the table does not name,
are not looked at: DESIGN CHOICE (log 9). -/
def recordOfBytes (b : List Byte) : RawRecord :=
  let flags := fieldAt b 5 1
  { duration := fieldAt b 0 4, timeoutNext := fieldAt b 4 1
    tpBlocked := flags.testBit 0, inceptionPresent := flags.testBit 1, rampPresent := flags.testBit 2
    channels :=
      { va := channelAt b 6, vb := channelAt b 17, vc := channelAt b 28, vx := channelAt b 39
        ia := channelAt b 50, ib := channelAt b 61, ic := channelAt b 72 }
    inceptionRef := fieldAt b 83 1, inceptionAngle := signedAt b 84 2
    conditionCount := fieldAt b 86 1
    conditions := [conditionAt b 87, conditionAt b 95, conditionAt b 103, conditionAt b 111]
    ramp := rampAt b 119
    assessmentCount := fieldAt b 138 1
    assessments := [assessmentAt b 139, assessmentAt b 152, assessmentAt b 165, assessmentAt b 178]
    actionCount := fieldAt b 191 1
    actions := [actionAt b 192, actionAt b 198, actionAt b 204, actionAt b 210] }

def ChannelEntry.bytes (e : ChannelEntry) : List Byte :=
  bytesOf 3 e.amplitude ++ signedBytes 2 e.phase ++ bytesOf 3 e.frequency ++ bytesOf 2 e.offsetTau
    ++ byteOf (linkCode e.link)

def Condition.bytes (c : Condition) : List Byte :=
  bytesOf 2 c.enable.toNat ++ bytesOf 2 c.value.toNat ++ bytesOf 3 c.hold ++ byteOf (nextCode c.next)

def Ramp.bytes (r : Ramp) : List Byte :=
  byteOf (targetCode r.target) ++ byteOf (quantityCode r.quantity) ++ signedBytes 4 r.start
    ++ signedBytes 4 r.step ++ signedBytes 4 r.limit ++ bytesOf 3 r.dwell ++ bytesOf 2 r.stopMask.toNat

def Assessment.bytes (a : Assessment) : List Byte :=
  bytesOf 2 a.mask.toNat ++ byteOf (expectationCode a.expectation) ++ bytesOf 4 a.nominal
    ++ bytesOf 4 a.tolAbs ++ bytesOf 2 a.permille

def OutputAction.bytes (a : OutputAction) : List Byte :=
  byteOf (a.output.val + 1) ++ boolByte a.level ++ bytesOf 3 a.delay ++ boolByte a.once

/-- The flag bits of a record (Table 12-6, byte 5). -/
def StateRecord.flagByte (r : StateRecord) : Nat :=
  (if r.tpBlocked then 1 else 0) + (if r.inception.isSome then 2 else 0) + (if r.ramp.isSome then 4 else 0)

/-- The 216 bytes of a record as it is read back: an absent part and entries beyond a count as 0
(Table 12-6). -/
def StateRecord.bytes (r : StateRecord) : List Byte :=
  bytesOf 4 r.duration ++ byteOf (nextCode r.timeoutNext) ++ byteOf r.flagByte
    ++ r.channels.va.bytes ++ r.channels.vb.bytes ++ r.channels.vc.bytes ++ r.channels.vx.bytes
    ++ r.channels.ia.bytes ++ r.channels.ib.bytes ++ r.channels.ic.bytes
    ++ padTo 3 (match r.inception with
        | some i => byteOf (channelCode i.reference) ++ signedBytes 2 i.angle
        | none => [])
    ++ byteOf r.conditions.length ++ padTo 32 (r.conditions.flatMap Condition.bytes)
    ++ padTo 19 (match r.ramp with
        | some p => p.bytes
        | none => [])
    ++ byteOf r.assessments.length ++ padTo 52 (r.assessments.flatMap Assessment.bytes)
    ++ byteOf r.actions.length ++ padTo 24 (r.actions.flatMap OutputAction.bytes)

/-! ### Command frames (R169, Tables 12-1 and 12-5) -/

/-- Parameter bytes of a command code; a code not in the table has none (Table 12-1). -/
def parameterBytes : Nat → Option Nat
  | 0x01 => some 1
  | 0x02 => some 7
  | 0x03 => some 5
  | 0x04 => some 2
  | 0x05 => some 5
  | 0x06 => some 3
  | 0x07 => some 219
  | 0x08 => some 13
  | 0x09 => some 2
  | 0x0A => some 1
  | 0x0B => some 0
  | 0x0C => some 0
  | 0x0D => some 1
  | 0x0E => some 17
  | 0x0F => some 0
  | 0x10 => some 1
  | 0x11 => some 7
  | 0x12 => some 2
  | 0x13 => some 4
  | 0x14 => some 1
  | 0x15 => some 2
  | 0x16 => some 1
  | 0x17 => some 3
  | 0x18 => some 2
  | 0x19 => some 0
  | _ => none

/-- The command with a code of the table, with its parameters (Table 12-1). -/
def commandOf (p : Port) (code : Nat) (b : List Byte) : Instr :=
  match code with
  | 0x01 => .getStatus p (fieldAt b 0 1)
  | 0x02 => .configChannel p (fieldAt b 0 1) (fieldAt b 1 3) (fieldAt b 4 2) (fieldAt b 6 1)
  | 0x03 => .configInput p (fieldAt b 0 1) (fieldAt b 1 1) (fieldAt b 2 2) (fieldAt b 4 1)
  | 0x04 => .configOutput p (fieldAt b 0 1) (fieldAt b 1 1)
  | 0x05 => .configBreaker p (fieldAt b 0 1) (fieldAt b 1 2) (fieldAt b 3 2)
  | 0x06 => .configTeleprotection p (fieldAt b 0 1) (fieldAt b 1 2)
  | 0x07 => .writeState p (fieldAt b 0 1) (fieldAt b 1 2) (recordOfBytes (b.drop 3))
  | 0x08 => .writeBalanced p (fieldAt b 0 1) (fieldAt b 1 2) (fieldAt b 3 1) (fieldAt b 4 3) (fieldAt b 7 3)
      (signedAt b 10 2) (fieldAt b 12 1)
  | 0x09 => .readState p (fieldAt b 0 1) (fieldAt b 1 1)
  | 0x0A => .eraseState p (fieldAt b 0 1)
  | 0x0B => .hold p
  | 0x0C => .release p
  | 0x0D => .setAuthority p (fieldAt b 0 1)
  | 0x0E => .arm p (fieldAt b 0 1) (fieldAt b 1 1) (maskAt b 2) (maskAt b 4) (timeAt b 6) (fieldAt b 13 1)
      (fieldAt b 14 2) (fieldAt b 16 1)
  | 0x0F => .start p
  | 0x10 => .abort p (fieldAt b 0 1)
  | 0x11 => .adjust p (fieldAt b 0 1) (fieldAt b 1 1) (fieldAt b 2 1) (signedAt b 3 4)
  | 0x12 => .setOutput p (fieldAt b 0 1) (fieldAt b 1 1)
  | 0x13 => .setTime p (fieldAt b 0 4)
  | 0x14 => .drainEnable p (fieldAt b 0 1)
  | 0x15 => .readPage p (fieldAt b 0 1) (fieldAt b 1 1)
  | 0x16 => .releasePage p (fieldAt b 0 1)
  | 0x17 => .notifyEnable p (fieldAt b 0 1) (maskAt b 1)
  | 0x18 => .notifyAck p (maskAt b 0)
  | 0x19 => .softReset p
  | _ => .unknown p

/-- The command that a transaction's bytes carry: incomplete, unknown, of a wrong length, or a command.
Bytes beyond the frame are padding (R168, R169). -/
def commandOfFrame (p : Port) (bytes : List Byte) : Instr :=
  match bytes with
  | code :: len :: rest =>
      if rest.length < len.toNat then .badFrame p
      else
        match parameterBytes code.toNat with
        | none => .unknown p
        | some n => if n = len.toNat then commandOf p code.toNat (rest.take n) else .badFrame p
  | _ => .badFrame p

/-! ### Peer frames (R143, Table 12-8) -/

/-- One bit of the CRC register shifted out, with the generator x^16 + x^12 + x^5 + 1 (R143). -/
def crcShift (c : BitVec 16) : BitVec 16 := if c.getLsbD 15 then (c <<< 1) ^^^ 0x1021#16 else c <<< 1

/-- One byte taken into the CRC, most significant bit first. -/
def crcByte (c : BitVec 16) (b : Byte) : BitVec 16 :=
  Nat.repeat crcShift 8 (c ^^^ (b.setWidth 16 <<< 8))

/-- The CRC-16 of a frame's bytes, from all ones, not inverted (R143). -/
def crc16 (bytes : List Byte) : BitVec 16 := bytes.foldl crcByte 0xFFFF#16

/-- Payload bytes of a frame kind (Table 12-8). -/
def payloadBytes : Nat → Option Nat
  | 0 => some 10
  | 1 => some 0
  | 2 => some 7
  | 3 => some 7
  | 4 => some 8
  | 5 => some 11
  | 6 => some 9
  | 7 => some 1
  | 8 => some 1
  | _ => none

/-- The event of a valid frame, by kind. A code that its table does not list, which no far VT430 sends,
leaves a valid frame with no other effect, as a KEEPALIVE; the role of an EVENT, the cause of an ABORT and bits
2 to 7 of an EVENT's flags are not looked at; any byte but 0 sets the heard flag of HELLO and the level of EVENT;
an EVENT's input that is 0 or above 12 and a STATE's state above 31 are taken as they stand (DESIGN CHOICE,
log 9). -/
def peerEvent (kind : Nat) (b : List Byte) : Instr :=
  match kind with
  | 0 => .hello (BitVec.ofNat 8 (fieldAt b 0 1)) (BitVec.ofNat 64 (fieldAt b 1 8)) (decide (fieldAt b 9 1 ≠ 0))
  | 1 => .keepalive
  | 2 => .startPropose (timeAt b 0)
  | 3 => .startAccept (timeAt b 0)
  | 4 =>
      match reasonOfCode (fieldAt b 7 1) with
      | some r => .startReject (timeAt b 0) r
      | none => .keepalive
  | 5 => .eventFrame (fieldAt b 0 1) ((InputRole.ofCode (fieldAt b 1 1)).getD .general)
      (decide (fieldAt b 2 1 ≠ 0)) (timeAt b 3) ((fieldAt b 10 1).testBit 0) ((fieldAt b 10 1).testBit 1)
  | 6 =>
      match entryOfCode (fieldAt b 1 1) with
      | some c => .stateFrame (fieldAt b 0 1) c (timeAt b 2)
      | none => .keepalive
  | 7 => .abortFrame ((abortOfCode (fieldAt b 0 1)).getD .aborted)
  | 8 =>
      match endOfCode (fieldAt b 0 1) with
      | some c => .endFrame c
      | none => .keepalive
  | _ => .invalidPeerFrame

/-- The event of a received frame: valid when its kind is known, its length agrees with its kind and its
CRC checks (R143). -/
def eventOfPeerFrame (bytes : List Byte) : Instr :=
  match bytes with
  | kind :: len :: rest =>
      let n := len.toNat
      let checked := crc16 (kind :: len :: rest.take n)
      if payloadBytes kind.toNat = some n ∧ rest.length = n + 2 ∧ checked.toNat = fieldAt rest n 2 then
        peerEvent kind.toNat (rest.take n)
      else .invalidPeerFrame
  | _ => .invalidPeerFrame

/-- Kind and payload of a frame sent (Tables 9-2 and 12-8). -/
def PeerFrame.payload : PeerFrame → Nat × List Byte
  | .hello v tag heard => (0, [v] ++ bytesOf 8 tag.toNat ++ boolByte heard)
  | .keepalive => (1, [])
  | .startPropose t => (2, timeBytes t)
  | .startAccept t => (3, timeBytes t)
  | .startReject t r => (4, timeBytes t ++ byteOf (reasonCode r))
  | .event input role level t shot carrier =>
      (5, byteOf input ++ byteOf (inputRoleCode role) ++ boolByte level ++ timeBytes t
            ++ byteOf ((if shot then 1 else 0) + if carrier then 2 else 0))
  | .state i cause t => (6, byteOf i ++ byteOf (entryCode cause) ++ timeBytes t)
  | .abort c => (7, byteOf (abortCode c))
  | .finish c => (8, byteOf (endCode c))

/-- The bytes of a frame sent (Table 12-8). -/
def PeerFrame.bytes (f : PeerFrame) : List Byte :=
  let head := byteOf f.payload.1 ++ byteOf f.payload.2.length ++ f.payload.2
  head ++ bytesOf 2 (crc16 head).toNat

/-! ### The report record (Table 12-7) -/

/-- The seven counts of 4 bits from the most significant (Table 12-7). -/
def VerdictCounts.packed (v : VerdictCounts) : Nat :=
  [v.pass, v.early, v.late, v.noTrip, v.unexpected, v.alreadyActive, v.aborted, 0].foldl
    (fun n c => n * 16 + c) 0

/-- The clip mask, VA as bit 0 (DEDUCED, log 9). -/
def clipByte (m : PerChannel Bool) : Nat :=
  allChannels.foldl (fun n c => n + if m.get c then 2 ^ channelCode c else 0) 0

/-- The kind's own flag of Table 6-4. -/
def RecordBody.ownFlag : RecordBody → Bool
  | .stateEntry _ _ deferred => deferred
  | .breakerOp _ _ delayedZero => delayedZero
  | .abort _ atStateEnd => atStateEnd
  | .shotEnd _ _ _ saturated _ _ _ => saturated
  | _ => false

/-- The optional field of Table 6-3 is present. -/
def RecordBody.hasOptional : RecordBody → Bool
  | .shotStart _ _ _ t => t.isSome
  | .assessment _ _ _ m _ _ => m.isSome
  | .rampResult _ _ _ v => v.isSome
  | .shotEnd _ secondary _ _ _ _ _ => secondary.isSome
  | _ => false

/-- The kind, 1 to 12 in the order of Table 6-3, and the bytes 7 onward (Table 12-7). -/
def RecordBody.fields : RecordBody → Nat × List Byte
  | .shotStart p m q t =>
      (1, byteOf (portCode p) ++ byteOf (modeCode m) ++ byteOf (lockCode q) ++ (t.map timeBytes).getD [])
  | .stateEntry i c _ => (2, byteOf i.val ++ byteOf (entryCode c))
  | .inputChange n level remote t => (3, byteOf n ++ boolByte level ++ boolByte remote ++ timeBytes t)
  | .outputChange n level src => (4, byteOf (n.val + 1) ++ boolByte level ++ byteOf (sourceCode src))
  | .breakerOp p o _ => (5, byteOf (poleCode p) ++ byteOf (outcomeCode o))
  | .assessment i n v m low high =>
      (6, byteOf i.val ++ byteOf n ++ byteOf (verdictCode v) ++ bytesOf 4 low ++ bytesOf 4 high
            ++ bytesOf 4 (m.getD 0))
  | .rampResult i t q v =>
      (7, byteOf i.val ++ byteOf (targetCode t) ++ byteOf (quantityCode q) ++ boolByte v.isNone
            ++ signedBytes 4 (v.getD 0))
  | .adjust t q v p =>
      (8, byteOf (targetCode t) ++ byteOf (quantityCode q) ++ byteOf (portCode p) ++ signedBytes 4 v)
  | .clip c i => (9, byteOf (channelCode c) ++ byteOf i.val)
  | .tpEvent k => (10, byteOf (tpKindCode k))
  | .abort c _ => (11, byteOf (abortCode c))
  | .shotEnd e secondary lost _ clips verdicts q =>
      (12, byteOf (endCode e) ++ byteOf ((secondary.map abortCode).getD 0) ++ bytesOf 4 lost
            ++ byteOf (clipByte clips) ++ bytesOf 4 verdicts.packed
            ++ byteOf (match q with
                | .good => 0
                | .degraded => 1))

/-- The flag bits of a record (Table 12-7, byte 2). -/
def LogRecord.flagByte (r : LogRecord) : Nat :=
  (if r.degraded then 1 else 0) + (if r.body.ownFlag then 2 else 0) + (if r.body.hasOptional then 4 else 0)

/-- The 24 bytes of a report record (Table 12-7). -/
def LogRecord.bytes (r : LogRecord) : List Byte :=
  byteOf r.body.fields.1 ++ byteOf r.shot ++ byteOf r.flagByte ++ bytesOf 4 r.time
    ++ padTo 17 r.body.fields.2

end Sys2Proof.Machine
end

