-- ==== Sys2Proof/Machine/Responses.lean ====
section
/-! DEFINITION. The bytes of a response, and what a transaction clocks out (R168, Table 12-5). The manual
gives a response's status, its data length and what its data carries, and the layout of the state and
report records in it. The layout of the other data is a DESIGN CHOICE (log 8): the items in the order in
which the command's rule lists them, most significant byte first, each in the width of the parameter or
record field that holds the same quantity, and in one byte where there is none. -/

namespace Sys2Proof.Machine

/-! ### Items -/

/-- An item that may be absent: its presence mark, then its bytes, 0 where it is absent (R170). -/
def optBytes {α : Type} (len : Nat) (f : α → List Byte) : Option α → List Byte
  | some a => boolByte true ++ padTo len (f a)
  | none => boolByte false ++ padTo len []

/-- A set of notification causes, as the masks of R172 and R173. -/
def causeBytes (c : CauseSet) : List Byte := bytesOf 2 c.toNat

/-- Flags as one byte, the first as bit 0. -/
def flagsByte (flags : List Bool) : List Byte :=
  byteOf (flags.foldr (fun b n => 2 * n + if b then 1 else 0) 0)

def phaseCode : Phase → Nat
  | .idle => 0
  | .armed => 1
  | .running => 2
  | .rampingDown => 3
  | .closing => 4

def authorityCode : Authority → Nat
  | .shared => 0
  | .local_ => 1
  | .remote => 2

def pageCode : PageName → Nat
  | .x => 0
  | .y => 1

def ownerCode : Owner → Nat
  | .part => 0
  | .port => 1

/-- Handover causes in the order of Table 7-2. -/
def handoverCode : HandoverCause → Nat
  | .pageFull => 0
  | .flush => 1
  | .shotEnd => 2

def polarityCode : Polarity → Nat
  | .normal => 0
  | .inverted => 1

def outputRoleCode : OutputRole → Nat
  | .none => 0
  | .aux52A => 1
  | .aux52B => 2
  | .tpReceive => 3
  | .stateDriven => 4
  | .manual => 5

def positionCode : Position → Nat
  | .closed => 0
  | .opening => 1
  | .opened => 2
  | .closing => 3

def interruptionCode : Interruption → Nat
  | .none => 0
  | .inProgress => 1
  | .complete => 2

def silencingCode : Silencing → Nat
  | .conducting => 0
  | .interrupting => 1
  | .silenced => 2

def ampStatusCode : AmpStatus → Nat
  | .ok => 0
  | .overload => 1
  | .overtemp => 2

def linkStateCode : LinkState → Nat
  | .down => 0
  | .linking => 1
  | .up => 2

def agreementCode : Agreement → Nat
  | .none => 0
  | .proposing => 1
  | .waiting => 2
  | .agreed => 3

def tpSourceCode : TpSource → Nat
  | .peer => 0
  | .localLoop => 1

def qualityCode : Quality → Nat
  | .good => 0
  | .degraded => 1

def eStopCode : EStopLevel → Nat
  | .asserted => 0
  | .released => 1

/-- A default link: A, B, C or NONE (Table 1-5). -/
def poleLinkCode : Option Pole → Nat
  | some p => poleCode p
  | none => 3

/-- The pending tag: NONE, SEQUENCE or PANEL (R15). -/
def tagCode : Option Port → Nat
  | none => 0
  | some p => portCode p + 1

/-- The flags of an OK response, in the first data byte (Table 12-2, note 2). That the byte holds one number, by
the order in which the note names the flags, and 0 where no flag is set, is a DESIGN CHOICE (log 8). -/
def responseFlagCode : ResponseFlag → Nat
  | .none => 0
  | .noShot => 1
  | .alreadyEnding => 2
  | .shotDiscarded => 3

/-- The number by which a RANGE response names a parameter that is no field of Table 1-1: 128 and on, in the
order of the commands of Table 12-1 (DESIGN CHOICE, log 8). -/
def Param.number : Param → Nat
  | .sect => 128
  | .channel => 129
  | .range => 130
  | .link => 131
  | .input => 132
  | .polarity => 133
  | .role => 134
  | .output => 135
  | .setting => 136
  | .tripTime => 137
  | .closeTime => 138
  | .source => 139
  | .group => 140
  | .order => 141
  | .index => 142
  | .selector => 143
  | .authority => 144
  | .firstState => 145
  | .startMode => 146
  | .peerLinked => 147
  | .guardPeriod => 148
  | .initialPosition => 149
  | .startTime => 150
  | .option => 151
  | .target => 152
  | .quantity => 153
  | .mode => 154
  | .masks => 155
  | .page => 156
  | .first => 157
  | .causes => 158

/-! ### The sections of GET_STATUS (Table 12-3) -/

def LastEntry.bytes (l : LastEntry) : List Byte :=
  byteOf l.state.val ++ bytesOf 4 l.entryShot ++ timeBytes l.entryAbs

def ShotStatus.bytes (d : ShotStatus) : List Byte :=
  byteOf (phaseCode d.phase) ++ byteOf d.shotNumber ++ optBytes 1 (fun m => byteOf (modeCode m)) d.mode
    ++ optBytes 1 (fun i : Fin 32 => byteOf i.val) d.currentState ++ optBytes 4 (bytesOf 4) d.entryShot
    ++ optBytes 7 timeBytes d.entryAbs ++ optBytes 4 (bytesOf 4) d.visitCount ++ optBytes 7 timeBytes d.startTime
    ++ optBytes 12 LastEntry.bytes d.lastEntry ++ optBytes 1 (fun c => byteOf (endCode c)) d.endCause
    ++ optBytes 1 (fun c => byteOf (abortCode c)) d.secondary ++ bytesOf 4 d.verdicts.packed

def ChannelStatus.bytes (d : ChannelStatus) : List Byte :=
  bytesOf 3 d.amplitude ++ signedBytes 2 d.phase ++ bytesOf 3 d.frequency ++ signedBytes 2 d.last
    ++ byteOf (silencingCode d.silencing) ++ boolByte d.clip ++ byteOf (ampStatusCode d.amplifier)

def InputStatus.bytes (d : InputStatus) : List Byte :=
  byteOf (polarityCode d.polarity) ++ bytesOf 2 d.debounce ++ byteOf (inputRoleCode d.role) ++ boolByte d.active
    ++ optBytes 7 timeBytes d.lastChange

def Output.bytes (o : Output) : List Byte := byteOf (outputRoleCode o.role) ++ boolByte o.level

def PoleStatus.bytes (d : PoleStatus) : List Byte :=
  byteOf (positionCode d.position) ++ byteOf (interruptionCode d.interruption) ++ boolByte d.openSignal

def breakerBytes (enabled : Bool) (tripTime closeTime : Nat) : List Byte :=
  boolByte (!enabled) ++ bytesOf 2 tripTime ++ bytesOf 2 closeTime

def BreakerStatus.bytes (d : BreakerStatus) : List Byte :=
  breakerBytes d.enabled d.tripTime d.closeTime ++ d.poles.a.bytes ++ d.poles.b.bytes ++ d.poles.c.bytes

/-- OPEN, CAPTURED with its time, or ALREADY_ACTIVE (R103). -/
def Capture.bytes : Capture → List Byte
  | .waiting => byteOf 0 ++ bytesOf 4 0
  | .captured t => byteOf 1 ++ bytesOf 4 t
  | .alreadyActive => byteOf 2 ++ bytesOf 4 0

def ContextStatus.bytes (d : ContextStatus) : List Byte :=
  byteOf d.state.val ++ bytesOf 4 d.entry ++ byteOf d.captures.length
    ++ padTo 20 (d.captures.flatMap Capture.bytes)

def DrainStatus.bytes (d : DrainStatus) : List Byte :=
  boolByte d.enabled ++ byteOf (ownerCode d.xOwner) ++ byteOf d.xCount ++ bytesOf 2 d.xNumber
    ++ byteOf (ownerCode d.yOwner) ++ byteOf d.yCount ++ bytesOf 2 d.yNumber ++ byteOf (pageCode d.toggle)
    ++ bytesOf 2 d.awaiting

def ReportStatus.bytes (d : ReportStatus) : List Byte :=
  optBytes 26 ContextStatus.bytes d.context ++ bytesOf 2 d.held ++ bytesOf 2 d.free ++ byteOf d.reservation
    ++ bytesOf 4 d.lost ++ boolByte d.saturated ++ d.drains.sequence.bytes ++ d.drains.panel.bytes

def TimeStatus.bytes (d : TimeStatus) : List Byte :=
  bytesOf 4 d.seconds ++ bytesOf 3 d.counter ++ byteOf (lockCode d.lock) ++ byteOf d.good
    ++ signedBytes 4 d.lastError ++ optBytes 4 (bytesOf 4) d.loaded ++ byteOf (qualityCode d.quality)
    ++ boolByte d.degraded ++ byteOf d.poleCount ++ byteOf d.condCount ++ byteOf d.outputCount
    ++ byteOf d.tpCount

def FarState.bytes (d : FarState) : List Byte :=
  byteOf d.state ++ byteOf (entryCode d.cause) ++ bytesOf 4 d.entryShot

def Teleprotection.bytes (d : Teleprotection) : List Byte :=
  byteOf (tpSourceCode d.source) ++ bytesOf 2 d.delay ++ boolByte d.lastReceived ++ boolByte d.applied
    ++ boolByte d.receive ++ boolByte d.resync

def PeerStatus.bytes (d : PeerStatus) : List Byte :=
  byteOf (linkStateCode d.link) ++ optBytes 8 (fun t : BitVec 64 => bytesOf 8 t.toNat) d.farTag
    ++ bytesOf 4 d.sendLeft ++ optBytes 4 (bytesOf 4) d.lossLeft ++ byteOf (agreementCode d.agreement)
    ++ optBytes 1 (fun r => byteOf (reasonCode r)) d.lastReject ++ optBytes 6 FarState.bytes d.farState
    ++ optBytes 1 (fun c => byteOf (endCode c)) d.farEnded ++ bytesOf 2 d.lateDrops ++ bytesOf 2 d.discards
    ++ d.tp.bytes

def FaultLatches.bytes (d : FaultLatches) : List Byte := flagsByte [d.overload, d.disconnected, d.overtemp]

def ControlStatus.bytes (d : ControlStatus) : List Byte :=
  byteOf (authorityCode d.authority) ++ boolByte d.hold.sequence ++ boolByte d.hold.panel
    ++ byteOf d.pendingOf.sequence ++ byteOf d.pendingOf.panel ++ bytesOf 2 d.period
    ++ optBytes 4 (bytesOf 4) d.timerLeft ++ byteOf (eStopCode d.eStop)
    ++ allChannels.flatMap (fun c => (d.latches.get c).bytes)
    ++ causeBytes d.requests ++ causeBytes d.enables ++ causeBytes d.repeated

def StatusData.bytes : StatusData → List Byte
  | .shot d => d.bytes
  | .channels d => allChannels.flatMap fun c => (d.get c).bytes
  | .io inputs signals outputs =>
      inputs.flatMap InputStatus.bytes ++ bytesOf 2 signals.toNat ++ outputs.flatMap Output.bytes
  | .breaker d => d.bytes
  | .report d => d.bytes
  | .time d => d.bytes
  | .peer d => d.bytes
  | .control d => d.bytes

/-! ### Responses (R168, Table 12-5) -/

def WorkingValues.bytes (w : WorkingValues) : List Byte :=
  byteOf (channelCode w.channel) ++ bytesOf 3 w.amplitude ++ signedBytes 2 w.phase ++ bytesOf 3 w.frequency

/-- The data bytes of a response. A copy that READ_STATE does not find, the mark EMPTY or ABSENT, is a
presence mark of 0 with nothing after it. -/
def RespData.bytes : RespData → List Byte
  | .none => []
  | .flag f => byteOf (responseFlagCode f)
  | .field code position => byteOf code ++ byteOf position
  | .param p => byteOf p.number
  | .authority a => byteOf (authorityCode a)
  | .written revision outcome =>
      bytesOf 2 revision ++ byteOf (match outcome with
        | .applied => 0
        | .staged => 1)
  | .record revision tag copy =>
      bytesOf 2 revision ++ byteOf (tagCode tag) ++ boolByte copy.isSome ++ (copy.map StateRecord.bytes).getD []
  | .conflictState i inActive inStaged => byteOf i.val ++ flagsByte [inActive, inStaged]
  | .conflictOutput n => byteOf (n.val + 1)
  | .emptyTarget i => byteOf i.val ++ byteOf 0 ++ byteOf 0
  | .badAction i staged n => byteOf i.val ++ boolByte staged ++ byteOf n
  | .shotNumber n => byteOf n
  | .channelConfig c => bytesOf 3 c.range ++ bytesOf 2 c.trim ++ byteOf (poleLinkCode c.link)
  | .inputConfig polarity debounce role =>
      byteOf (polarityCode polarity) ++ bytesOf 2 debounce ++ byteOf (inputRoleCode role)
  | .breakerConfig enabled tripTime closeTime => breakerBytes enabled tripTime closeTime
  | .tpConfig source delay => byteOf (tpSourceCode source) ++ bytesOf 2 delay
  | .working values => values.flatMap WorkingValues.bytes
  | .levels a b c d => flagsByte [a, b, c, d]
  | .page n number cause count records =>
      byteOf (pageCode n) ++ bytesOf 2 number ++ byteOf ((cause.map handoverCode).getD 255) ++ byteOf count
        ++ records.flatMap LogRecord.bytes
  | .olderPage n => byteOf (pageCode n)
  | .enables e => causeBytes e
  | .notified requests repeated => causeBytes requests ++ causeBytes repeated
  | .status d => d.bytes

/-- The data of a response: at most 250 bytes (R168). -/
def Response.dataBytes (r : Response) : List Byte := r.data.bytes.take 250

/-- A response as it is clocked out: status, data length, data (Table 12-5). -/
def Response.bytes (r : Response) : List Byte :=
  byteOf r.status.code ++ byteOf r.dataBytes.length ++ r.dataBytes

/-- What a transaction of `n` bytes clocks out: the buffer's response from its first byte, and 00H after its
last (R168). -/
def PortInterface.clockedOut (q : PortInterface) (n : Nat) : List Byte := padTo n q.response.bytes

/-- A transaction of a port: the bytes that it clocks out while `bytes` come in, and the command that is taken
at its end (R168). -/
def State.transaction (s : State) (p : Port) (bytes : List Byte) : List Byte × Instr :=
  ((s.ports.get p).clockedOut bytes.length, commandOfFrame p bytes)

end Sys2Proof.Machine
end

