-- ==== Sys2Proof/WellFormed.lean ====
section
/-! DEFINITION. Which commands a frame can carry: every number fits the bytes that the layouts of
chapter 12 give it, a record has its four places in each list, and a peer frame holds the values
that a far VT430 sends. The meanings are defined on every command; this says which ones can come. -/

namespace Sys2Proof

/-- A number that `bytes` bytes can carry, unsigned. -/
def fitsBytes (bytes n : Nat) : Bool := decide (n < 256 ^ bytes)

/-- A number that `bytes` bytes can carry in two's complement (12.5). -/
def fitsSigned (bytes : Nat) (v : Int) : Bool :=
  decide (-(256 ^ bytes / 2 : Int) ≤ v ∧ v < (256 ^ bytes / 2 : Int))

/-- An absolute time that 4 bytes of seconds and 3 bytes of microseconds can carry (12.5). -/
def fitsAbsTime (t : AbsTime) : Bool := decide (t < 4294967296 * 1000000 + 16777216)

/-- A channel entry fits its 11 bytes (Table 12-6). -/
def RawChannel.wellFormed (c : RawChannel) : Bool :=
  fitsBytes 3 c.amplitude && fitsSigned 2 c.phase && fitsBytes 3 c.frequency
    && fitsBytes 2 c.offsetTau && fitsBytes 1 c.link

/-- A condition fits its 8 bytes (Table 12-6). -/
def RawCondition.wellFormed (c : RawCondition) : Bool := fitsBytes 3 c.hold && fitsBytes 1 c.next

/-- The ramp fits its 19 bytes (Table 12-6). -/
def RawRamp.wellFormed (r : RawRamp) : Bool :=
  fitsBytes 1 r.target && fitsBytes 1 r.quantity && fitsSigned 4 r.start && fitsSigned 4 r.step
    && fitsSigned 4 r.limit && fitsBytes 3 r.dwell

/-- An assessment fits its 13 bytes (Table 12-6). -/
def RawAssessment.wellFormed (a : RawAssessment) : Bool :=
  fitsBytes 1 a.expectation && fitsBytes 4 a.nominal && fitsBytes 4 a.tolAbs && fitsBytes 2 a.permille

/-- An output action fits its 6 bytes (Table 12-6). -/
def RawAction.wellFormed (a : RawAction) : Bool :=
  fitsBytes 1 a.output && fitsBytes 1 a.level && fitsBytes 3 a.delay

/-- A record fits its 216 bytes: every field its width, every list its four places (Table 12-6). -/
def RawRecord.wellFormed (r : RawRecord) : Bool :=
  fitsBytes 4 r.duration && fitsBytes 1 r.timeoutNext
    && r.channels.va.wellFormed && r.channels.vb.wellFormed && r.channels.vc.wellFormed
    && r.channels.vx.wellFormed && r.channels.ia.wellFormed && r.channels.ib.wellFormed
    && r.channels.ic.wellFormed
    && fitsBytes 1 r.inceptionRef && fitsSigned 2 r.inceptionAngle
    && fitsBytes 1 r.conditionCount && r.conditions.length == 4 && r.conditions.all (·.wellFormed)
    && r.ramp.wellFormed
    && fitsBytes 1 r.assessmentCount && r.assessments.length == 4 && r.assessments.all (·.wellFormed)
    && fitsBytes 1 r.actionCount && r.actions.length == 4 && r.actions.all (·.wellFormed)

/-- The commands and events that can reach the part. -/
def Instr.wellFormed : Instr → Bool
  | .powerOn _ => true
  | .badFrame _ => true
  | .unknown _ => true
  | .getStatus _ sect => fitsBytes 1 sect
  | .configChannel _ channel range trim link =>
      fitsBytes 1 channel && fitsBytes 3 range && fitsBytes 2 trim && fitsBytes 1 link
  | .configInput _ input polarity debounce role =>
      fitsBytes 1 input && fitsBytes 1 polarity && fitsBytes 2 debounce && fitsBytes 1 role
  | .configOutput _ output role => fitsBytes 1 output && fitsBytes 1 role
  | .configBreaker _ setting tripTime closeTime =>
      fitsBytes 1 setting && fitsBytes 2 tripTime && fitsBytes 2 closeTime
  | .configTeleprotection _ source delay => fitsBytes 1 source && fitsBytes 2 delay
  | .writeState _ index expected record =>
      fitsBytes 1 index && fitsBytes 2 expected && record.wellFormed
  | .writeBalanced _ index expected group amplitude frequency angle order =>
      fitsBytes 1 index && fitsBytes 2 expected && fitsBytes 1 group && fitsBytes 3 amplitude
        && fitsBytes 3 frequency && fitsSigned 2 angle && fitsBytes 1 order
  | .readState _ index selector => fitsBytes 1 index && fitsBytes 1 selector
  | .eraseState _ index => fitsBytes 1 index
  | .hold _ => true
  | .release _ => true
  | .setAuthority _ value => fitsBytes 1 value
  | .arm _ first mode _ _ startTime peer period initial =>
      fitsBytes 1 first && fitsBytes 1 mode && fitsAbsTime startTime && fitsBytes 1 peer
        && fitsBytes 2 period && fitsBytes 1 initial
  | .start _ => true
  | .abort _ option => fitsBytes 1 option
  | .adjust _ target quantity mode value =>
      fitsBytes 1 target && fitsBytes 1 quantity && fitsBytes 1 mode && fitsSigned 4 value
  | .setOutput _ setMask clearMask => fitsBytes 1 setMask && fitsBytes 1 clearMask
  | .setTime _ seconds => fitsBytes 4 seconds
  | .drainEnable _ selector => fitsBytes 1 selector
  | .readPage _ page first => fitsBytes 1 page && fitsBytes 1 first
  | .releasePage _ page => fitsBytes 1 page
  | .notifyEnable _ selector _ => fitsBytes 1 selector
  | .notifyAck _ _ => true
  | .softReset _ => true
  | .eStopAsserted => true
  | .eStopReleased => true
  | .acceptedChange _ => true
  | .sampleBoundary => true
  | .amplifierReturn _ _ => true
  | .rampStep => true
  | .firstEntry => true
  | .stateEntry => true
  | .stateTimeout => true
  | .exitToEnd => true
  | .shotLimit => true
  | .rampDownStart => true
  | .rampDownEnd => true
  | .closingLingerEnd => true
  | .openingActionDue _ => true
  | .closeActionDue _ => true
  | .forcedLimit _ => true
  | .conditionActionDue _ => true
  | .stateOutputDue => true
  | .tpEdgeDue => true
  | .keepaliveExpiry => true
  | .flushTimerExpiry _ => true
  | .ppsEdge => true
  | .slewPoint => true
  | .ppsTimeout => true
  | .holdoverTimeout => true
  | .sendTimerExpiry => true
  | .lossTimerExpiry => true
  | .invalidPeerFrame => true
  | .hello _ _ _ => true
  | .keepalive => true
  | .startPropose startTime => fitsAbsTime startTime
  | .startAccept startTime => fitsAbsTime startTime
  | .startReject startTime _ => fitsAbsTime startTime
  | .acceptDeadline => true
  | .eventFrame input _ _ eventTime _ _ => decide (1 ≤ input ∧ input ≤ 12) && fitsAbsTime eventTime
  | .stateFrame state _ entryTime => decide (state < 32) && fitsAbsTime entryTime
  | .abortFrame _ => true
  | .endFrame _ => true
  | .inputSample _ => true

end Sys2Proof
end

