-- ==== Sys2Proof/Safety.lean ====
section
/-! DEFINITION. What counts as a safe run, and the conditions on a state that statements use: the
invariants of the blocks, each decided from the state alone, and who sends a command. -/

namespace Sys2Proof

/-- The port whose transaction carries a command; an event has none (00 section 1.3). -/
def Instr.sender : Instr → Option Port
  | .badFrame p | .unknown p | .getStatus p _ | .configChannel p .. | .configInput p .. | .configOutput p ..
  | .configBreaker p .. | .configTeleprotection p .. | .writeState p .. | .writeBalanced p .. | .readState p ..
  | .eraseState p _ | .hold p | .release p | .setAuthority p _ | .arm p .. | .start p | .abort p _
  | .adjust p .. | .setOutput p .. | .setTime p _ | .drainEnable p _ | .readPage p .. | .releasePage p _
  | .notifyEnable p .. | .notifyAck p _ | .softReset p => some p
  | _ => none

/-- The sender of a command that authority gates (Table 10-1). -/
def Instr.gatedSender : Instr → Option Port
  | .writeState p .. | .writeBalanced p .. | .eraseState p _ | .configChannel p .. | .configInput p ..
  | .configOutput p .. | .configBreaker p .. | .configTeleprotection p .. | .setOutput p .. | .setTime p _
  | .arm p .. | .start p | .adjust p .. | .hold p | .release p | .softReset p => some p
  | _ => none

/-- The sender of a command that is taken only in IDLE (Table 2-1). -/
def Instr.idleSender : Instr → Option Port
  | .configChannel p .. | .configInput p .. | .configOutput p .. | .configBreaker p ..
  | .configTeleprotection p .. | .eraseState p _ | .arm p .. => some p
  | _ => none

namespace Machine

/-! ### Runs -/

/-- A run of any number of steps, each answering a next state. -/
inductive Runs : State → State → Prop where
  | stop (s : State) : Runs s s
  | more (s t u : State) : step s = .next t → Runs t u → Runs s u

/-- A state from which no run comes to a fault or a refusal. -/
def State.Safe (s : State) : Prop := ∀ t, Runs s t → ∃ u, step t = .next u

/-! ### Invariants -/

/-- The Time Base's items lie within Table 8-1, and so does a second still to be numbered (R130). -/
def TimeBase.InRange (t : TimeBase) : Prop :=
  t.counter < 1000000 ∧ t.seconds < 4294967296 ∧ t.localTime < 18446744073709551616 ∧ t.good ≤ 3
    ∧ (∀ n, t.loaded = some n → n < 4294967296) ∧ (∀ n, t.nextSecond = some n → n < 4294967296)
    ∧ -500000 ≤ t.lastError ∧ t.lastError ≤ 499999

/-- No group of the Timed Action List holds more than its entries (R139, Table 8-4). -/
def TimedList.WithinGroups (l : TimedList) : Prop := ∀ g : Group, l.held g ≤ g.capacity

/-- One entry stands before another (R138). -/
def TimedAction.Before (a b : TimedAction) : Prop := a.due < b.due ∨ (a.due = b.due ∧ a.insertion < b.insertion)

/-- The entries stand in order of due time and then of insertion number, and the number to be given next
is above all of them (R138). -/
def TimedList.Ordered (l : TimedList) : Prop :=
  l.entries.Pairwise TimedAction.Before ∧ ∀ a ∈ l.entries, a.insertion < l.next

/-- Just the condition and output actions are owned by a visit (R138, Table 8-4). -/
def TimedList.OwnedByKind (l : TimedList) : Prop :=
  ∀ a ∈ l.entries, a.owner = none ↔ (a.work.group = .pole ∨ a.work.group = .tpEdge)

/-- The log has room for its reservation, which stands exactly while a shot is active (R109, R114). -/
def State.LogReserved (s : State) : Prop :=
  s.log.records.length + s.log.reservation ≤ 1024 ∧ s.log.reservation = (if s.shotActive then 1 else 0)

/-- In IDLE with neither port holding, no slot has a pending copy (R160). -/
def State.NothingForgotten (s : State) : Prop :=
  s.seq.phase = .idle → s.noHold = true → ∀ i : Fin 32, s.store.slots[i].staged = none

/-- A code within -32,767 to +32,767 (R53). -/
def CodeInRange (v : Int) : Prop := -32767 ≤ v ∧ v ≤ 32767

/-- Every last sample and every code of the outgoing frame is in range (R53, R54). -/
def State.CodesInRange (s : State) : Prop :=
  ∀ c : Channel, CodeInRange (s.synth.channels.get c).last ∧ CodeInRange (s.amp.frame.get c).code

/-- A record lies within the configured ranges: each channel's amplitude, and the values of an AMPLITUDE
ramp for every channel of its target (R12, R18). -/
def StateRecord.WithinRanges (r : StateRecord) (cfg : PerChannel ChannelConfig) : Prop :=
  ∀ c : Channel, r.exceeds c (cfg.get c).range = false

/-- Every active and pending copy lies within the configured ranges (R18). -/
def ProgramStore.WithinRanges (st : ProgramStore) : Prop :=
  ∀ i : Fin 32, (∀ r, st.slots[i].active = some r → r.WithinRanges st.config)
    ∧ (∀ p r, st.slots[i].staged = some (p, r) → r.WithinRanges st.config)

/-- A record has at most four conditions, four assessments and four output actions (R7, R9, R10). -/
def StateRecord.WithinCounts (r : StateRecord) : Prop :=
  r.conditions.length ≤ 4 ∧ r.assessments.length ≤ 4 ∧ r.actions.length ≤ 4

/-- Every active and pending copy has at most four entries in each of its lists. -/
def ProgramStore.WithinCounts (st : ProgramStore) : Prop :=
  ∀ i : Fin 32, (∀ r, st.slots[i].active = some r → r.WithinCounts)
    ∧ (∀ p r, st.slots[i].staged = some (p, r) → r.WithinCounts)

/-- The older page of a channel: the one that the toggle names when the port owns it, for then it owns both,
and the other one otherwise (R121, R124). -/
def Drain.older (d : Drain) : PageName :=
  if (d.page d.toggle).owner = .port then d.toggle else d.toggle.other

/-- The records that a channel's pages hold, the older page's first. -/
def Drain.held (d : Drain) : List LogRecord := (d.page d.older).records ++ (d.page d.older.other).records

/-- The pages of a channel by their owners: the port owns the page being filled only when it owns both; the
page being filled is never full, and its flush timer runs exactly while it holds a record; the other page,
when the part owns it, is empty (R120, R121). -/
def Drain.PagesInOrder (d : Drain) : Prop :=
  (d.page d.toggle).records.length ≤ 16 ∧ (d.page d.toggle.other).records.length ≤ 16
    ∧ ((d.page d.toggle).owner = .port → (d.page d.toggle.other).owner = .port ∧ d.flush = none)
    ∧ ((d.page d.toggle).owner = .part → (d.page d.toggle).records.length < 16
        ∧ (d.flush.isSome = true ↔ (d.page d.toggle).records ≠ []))
    ∧ ((d.page d.toggle.other).owner = .part → (d.page d.toggle.other).records = [])

/-- An enabled channel holds in its two pages, the older one first, just the records of the log from its
consumed position to its copy position, in the log's order; a disabled one has no positions and empty
pages of its own (Table 7-1, notes 1 and 2). -/
def Drain.HoldsItsRecords (d : Drain) (l : ReportLog) : Prop :=
  match d.enabled, d.consumedPos, d.copyPos with
  | true, some consumed, some copy =>
      l.freed ≤ consumed ∧ consumed ≤ copy ∧ copy ≤ l.freed + l.records.length
        ∧ d.held = (l.records.drop (consumed - l.freed)).take (copy - consumed)
        ∧ d.PagesInOrder
  | false, none, none =>
      d.x.owner = .part ∧ d.x.records = [] ∧ d.y.owner = .part ∧ d.y.records = [] ∧ d.flush = none
  | _, _, _ => False

/-- A record awaits copying only while the port owns the page to be filled (R120). -/
def Drain.WaitsOnlyForThePort (d : Drain) (l : ReportLog) : Prop :=
  l.awaiting d ≠ [] → (d.page d.toggle).owner = .port

/-- A drain channel stands consistent with a log. -/
def Drain.Consistent (d : Drain) (l : ReportLog) : Prop := d.HoldsItsRecords l ∧ d.WaitsOnlyForThePort l

/-- Both drain channels stand consistent with the log: each holds its records in order, so that no record held
back by a port is freed and none is passed over or copied twice (R120, R121, R125). -/
def State.DrainsConsistent (s : State) : Prop :=
  s.drains.sequence.Consistent s.log ∧ s.drains.panel.Consistent s.log

/-- What the sequencer holds agrees with its phase: a visit and an assessment context exactly in RUNNING,
the instants of RAMPING_DOWN and CLOSING exactly there, an end cause from the first abort on, and every
action that a visit owns owned by the present one (Table 2-2, R29, R37, R44, R103, R141). -/
def State.ShotConsistent (s : State) : Prop :=
  (s.seq.phase = .running ↔ s.seq.visit.isSome = true)
    ∧ (s.assess.isSome = true ↔ s.seq.visit.isSome = true)
    ∧ (s.seq.phase = .rampingDown ↔ s.seq.rampDownAt.isSome = true)
    ∧ (s.seq.phase = .closing ↔ s.seq.closingAt.isSome = true)
    ∧ ((s.seq.softEnd.isSome = true ∨ s.seq.phase = .rampingDown ∨ s.seq.phase = .closing) →
        s.seq.endCause.isSome = true)
    ∧ (∀ a ∈ s.actions.entries, ∀ b, a.owner = some b → ∃ v, s.seq.visit = some v ∧ v.entry = b)

/-- The pending actions of a pole, with what owns them (R91). -/
def TimedList.ofPole (l : TimedList) (q : Pole) : List (Work × Option Nat) :=
  (l.entries.map fun a => (a.work, a.owner)).filter fun x => decide (x.1 = .pole q .opening ∨ x.1 = .pole q .closing)

/-- The action that a pole waits for in its position: one that no visit owns while it moves, and none while it
stands (R91). -/
def Position.awaits (q : Pole) : Position → List (Work × Option Nat)
  | .opening => [(.pole q .opening, none)]
  | .closing => [(.pole q .closing, none)]
  | .closed | .opened => []

/-- The Timed Action List holds for each pole just the action that its position waits for, and an interruption is
in progress only while the channels inject (R91, R97). -/
def State.PolesConsistent (s : State) : Prop :=
  ∀ q : Pole, s.actions.ofPole q = (s.breaker.poles.get q).position.awaits q
    ∧ ((s.breaker.poles.get q).interruption = .inProgress → s.injecting = true)

/-- A state that the sequencer may enter next: the first state of an armed shot; in RUNNING, the state
chosen, and the states that a condition of the visit or its timeout leads to (R19, R33). -/
def State.MayEnter (s : State) (i : Fin 32) : Prop :=
  match s.seq.phase with
  | .armed => s.seq.firstState = some i
  | .running =>
      (∃ c, s.seq.chosen = some c ∧ c.target = .state i)
        ∨ ∃ v, s.seq.visit = some v
            ∧ ((∃ c ∈ v.conditions, c.condition.next = .state i)
                ∨ (v.timeoutAt.isSome = true ∧ v.record.timeoutNext = .state i))
  | _ => False

/-- A state leads to another: in any number of steps, each to a target of the active or of the pending
copy (R19). -/
inductive Leads (slots : Vector Slot 32) : Fin 32 → Fin 32 → Prop where
  | here (i : Fin 32) : Leads slots i i
  | step (i j k : Fin 32) : j ∈ targetsOf slots i → Leads slots j k → Leads slots i k

/-- Every state that a shot can still come to is defined, whichever pending copies are applied on the way
(R19, R21). -/
def State.AheadDefined (s : State) : Prop :=
  ∀ i j : Fin 32, s.MayEnter i → Leads s.store.slots i j → s.store.slots[j].active.isSome = true

/-! ### Answers and frames -/

/-- The state after a command that changes nothing but its port's response, its frame having been taken
for the keepalive (R164, R168). -/
def State.answered (s : State) (p : Port) (st : Status) (d : RespData) : State :=
  (s.takeFrame p).respond p st d

/-- A record is offered to a log: written if an unreserved slot is free, lost otherwise (R111). -/
def ReportLog.offered (l : ReportLog) (r : LogRecord) : ReportLog :=
  if 1 ≤ l.unreserved then l.write r else l.lose

end Machine
end Sys2Proof
end

