-- ==== Sys2Proof/Certificates/Slice0/Obligations.lean ====
section
/-! DEFINITION. The statements for the provers: what each command and event does, what it leaves
unchanged, and the invariants that every step keeps. -/

open Sys2Proof Sys2Proof.Machine

/-! ### The step -/

/-- With a command at the front of the queue, a step runs it on the queue's rest. -/
def Obligations.StepRunsTheFrontCommand : Prop :=
  ∀ (c : Instr) (rest : List Instr) (s : State), s.pending = c :: rest →
    step s = exec c { s with pending := rest }

/-- With no command waiting and events due, a step runs one of them; every event but a flush expiry counts a
free value. DESIGN CHOICE of the model (logs 1 and 3). -/
def IdleStepRunsADueEvent : Prop :=
  ∀ s : State, s.pending = [] → s.dueEvents ≠ [] →
    (∃ p, s.flushDue p = true ∧ step s = exec (.flushTimerExpiry p) s)
    ∨ ∃ e ∈ s.otherEvents, step s = exec e { s with freeUsed := s.freeUsed + 1 }

/-- With no command waiting and nothing due, a step is one microsecond: counter and local time advance by
one, and the second changes at the wrap (R129, R130). That the step is the tick (log 1), and that a number left by an
edge in IDLE is taken by the wrap also where a shot has been armed in between (log 47), are DESIGN CHOICES. -/
def IdleStepIsAMicrosecond : Prop :=
  ∀ s : State, s.pending = [] → s.dueEvents = [] → s.time.slewDue = false → s.time.InRange →
    ∃ t, step s = .next t ∧ t = { s with time := t.time }
      ∧ t.time = { s.time with
          counter := (s.time.counter + 1) % 1000000
          seconds :=
            if s.time.counter = 999999 then s.time.nextSecond.getD ((s.time.seconds + 1) % 4294967296)
            else s.time.seconds
          nextSecond := if s.time.counter = 999999 then none else s.time.nextSecond
          localTime := (s.time.localTime + 1) % 18446744073709551616
          boundaryPassed := false, sampleDone := false, inputsDone := false
          endFixed := t.visitEndsHere }

/-- With no command waiting, nothing due and a slew pending at the slew point, a step is SLEW_POINT, which counts a
free value (R134). That the slew comes after every other event of its instant is DEDUCED (log 1). -/
def IdleStepMakesTheSlew : Prop :=
  ∀ s : State, s.pending = [] → s.dueEvents = [] → s.time.slewDue = true →
    step s = exec .slewPoint { s with freeUsed := s.freeUsed + 1 }

/-- Flush expiries apart, the events of the instant of `s` taken from `s` on, `k` of them, lead to `u`. -/
def EventsOfTheInstant (s : State) : Nat → State → Prop
  | 0, u => u = s
  | k + 1, u => ∃ m e, EventsOfTheInstant s k m ∧ m.otherEvents ≠ [] ∧ m.nextEvent = some e
      ∧ exec e { m with freeUsed := m.freeUsed + 1 } = .next u

/-- Where an event still to come at an instant hands over a page of a channel, be it due already or only made
due by an event before it, the step is not the flush expiry of that channel: the handover of the copy is taken
first (R122). -/
def FlushYieldsToAHandover : Prop :=
  ∀ (p : Port) (k : Nat) (s m u : State), s.pending = [] → k < 100 →
    EventsOfTheInstant s k m → EventsOfTheInstant m 1 u → (u.drains.get p).count ≠ (m.drains.get p).count →
    (∃ q, q ≠ p ∧ s.flushDue q = true ∧ step s = exec (.flushTimerExpiry q) s)
    ∨ ∃ e ∈ s.otherEvents, step s = exec e { s with freeUsed := s.freeUsed + 1 }

/-- With no command waiting a step is the part's own: an event that is due, the flush expiry after a handover
of its instant, the slew, or a microsecond. DESIGN CHOICE (logs 1 and 3). -/
def Obligations.IdleStepRunsAnEventOrTicks : Prop :=
  IdleStepRunsADueEvent ∧ IdleStepMakesTheSlew ∧ IdleStepIsAMicrosecond ∧ FlushYieldsToAHandover

/-! ### Power-on -/

/-- What the manual states for power-on, block by block. -/
def ResetValues (s : State) : Prop :=
  (∀ i : Fin 32, s.store.slots[i] = { active := none, staged := none, revision := 0 })
    ∧ (∀ c : Channel, (s.store.config.get c).range = (if c.isVoltage then 300000 else 12500)
        ∧ (s.store.config.get c).trim = 32768)
    ∧ s.edit.authority = .shared ∧ s.edit.hold = { sequence := false, panel := false }
    ∧ s.seq.phase = .idle ∧ s.seq.shotNumber = 0 ∧ s.seq.visit = none ∧ (∀ i : Fin 32, s.seq.visitCounts[i] = 0)
    ∧ (∀ c : Channel, (s.synth.channels.get c).acc = 0 ∧ (s.synth.channels.get c).amplitude = 0
        ∧ (s.synth.channels.get c).frequency = 50000 ∧ (s.synth.channels.get c).increment = 21474836
        ∧ (s.synth.channels.get c).last = 0 ∧ (s.synth.channels.get c).silencing = .conducting
        ∧ (s.synth.channels.get c).link = (s.store.config.get c).link)
    ∧ s.synth.ramp.state = .none
    ∧ (∀ c : Channel, s.amp.frame.get c = { code := 0, valid := false, mute := true }
        ∧ (s.amp.channels.get c).status = .ok ∧ (s.amp.channels.get c).overload = 0
        ∧ (s.amp.channels.get c).missing = 0)
    ∧ (∀ n : Fin 12, s.inputs.inputs[n].polarity = .normal ∧ s.inputs.inputs[n].debounce = 20
        ∧ s.inputs.inputs[n].role = .general ∧ s.inputs.inputs[n].candidate = none)
    ∧ (∀ n : Fin 4, s.outputs[n] = { role := .none, level := false })
    ∧ s.breaker.enabled = true ∧ s.breaker.tripTime = 400 ∧ s.breaker.closeTime = 800
    ∧ (∀ p : Pole, s.breaker.poles.get p
        = { position := .closed, interruption := .none, start := none, openSignal := false })
    ∧ s.assess = none
    ∧ s.log.records = [] ∧ s.log.reservation = 0 ∧ s.log.lost = 0 ∧ s.log.saturated = false
    ∧ (∀ p : Port, (s.drains.get p).enabled = true ∧ (s.drains.get p).x.owner = .part
        ∧ (s.drains.get p).y.owner = .part ∧ (s.drains.get p).toggle = .x ∧ (s.drains.get p).count = 0
        ∧ (s.drains.get p).flush = none)
    ∧ s.time.counter = 0 ∧ s.time.seconds = 0 ∧ s.time.lock = .free ∧ s.time.slew = .none
    ∧ s.actions.entries = []
    ∧ s.peer.link = .down ∧ s.peer.agreement = .none ∧ s.tp.source = .peer ∧ s.tp.delay = 100
    ∧ s.guard.period = 0 ∧ s.guard.expiry = none
    ∧ (∀ p : Port, s.ports.get p
        = { response := { status := .ok, data := .none }, requests := 0, enables := 0, repeated := 0 })

/-- POWER_ON gives every block its power-on values, with the E-STOP level as found (R2, R22, R48, R71, R80,
R87, R109, R119, R128, R138, R142, R155, R163, R168, R171). The pins, the queue and the count of free
values are not the part's. -/
def Obligations.PowerOnGivesTheResetState : Prop :=
  ∀ (l : EStopLevel) (s : State),
    ∃ t, exec (.powerOn l) s = .next t ∧ ResetValues t ∧ t.guard.eStop = l
      ∧ t = { State.reset with
          pending := s.pending
          inputs := { State.reset.inputs with pins := s.inputs.pins }
          guard := { State.reset.guard with eStop := l }
          freeUsed := s.freeUsed }

/-! ### Invariants: at reset -/

/-- Every invariant below holds at reset. -/
def InvariantsHoldAtReset : Prop :=
  State.reset.time.InRange ∧ State.reset.actions.WithinGroups ∧ State.reset.actions.Ordered
    ∧ State.reset.LogReserved ∧ State.reset.NothingForgotten ∧ State.reset.CodesInRange
    ∧ State.reset.store.WithinRanges ∧ State.reset.DrainsConsistent ∧ State.reset.ShotConsistent
    ∧ State.reset.AheadDefined ∧ State.reset.PolesConsistent ∧ State.reset.actions.OwnedByKind
    ∧ State.reset.store.WithinCounts

/-- The reset state has the manual's values for power-on, and every invariant below. -/
def Obligations.ResetHasItsValuesAndInvariants : Prop :=
  ResetValues State.reset ∧ InvariantsHoldAtReset

/-! ### Invariants: kept by every step -/

/-- Every step keeps the Time Base's items within Table 8-1. -/
def Obligations.StepKeepsTimeInRange : Prop :=
  ∀ s t : State, s.time.InRange → step s = .next t → t.time.InRange

/-- The Timed Action List never holds more than its groups allow, hence never more than 24 actions and
never more than 13 teleprotection actions (R139). -/
def StepKeepsActionGroups : Prop :=
  ∀ s t : State, s.actions.WithinGroups → step s = .next t →
    t.actions.WithinGroups ∧ t.actions.entries.length ≤ 24

/-- The Timed Action List stays in order of due time and then of insertion (R138). -/
def StepKeepsActionOrder : Prop :=
  ∀ s t : State, s.actions.Ordered → step s = .next t → t.actions.Ordered

/-- The list holds for each pole just the action that its position waits for, and an interruption is in progress
only while the channels inject (R91, R97). -/
def StepKeepsPoleActions : Prop :=
  ∀ s t : State, s.PolesConsistent → step s = .next t → t.PolesConsistent

/-- Every condition and output action on the list has an owner visit, and no pole or teleprotection action has
(R138). -/
def StepKeepsActionOwners : Prop :=
  ∀ s t : State, s.actions.OwnedByKind → step s = .next t → t.actions.OwnedByKind

/-- Every step keeps the Timed Action List within its groups and in its order, its actions owned as their kind says,
and its pole actions in agreement with the poles (R91, R97, R138, R139). -/
def Obligations.StepKeepsTheTimedActionList : Prop :=
  StepKeepsActionGroups ∧ StepKeepsActionOrder ∧ StepKeepsActionOwners ∧ StepKeepsPoleActions

/-- From ARM until SHOT_END is written the log holds one free slot reserved for it, and at no other time
(R114). -/
def Obligations.StepKeepsTheReservedSlot : Prop :=
  ∀ s t : State, s.LogReserved → step s = .next t → t.LogReserved

/-- In IDLE with neither port holding, no slot has a pending copy (R160). -/
def Obligations.StepKeepsNothingForgotten : Prop :=
  ∀ s t : State, s.NothingForgotten → step s = .next t → t.NothingForgotten

/-- Every sample on every channel lies within -32,767 to +32,767; -32,768 is never emitted (R53, R54). -/
def Obligations.StepKeepsCodesInRange : Prop :=
  ∀ s t : State, s.CodesInRange → step s = .next t → t.CodesInRange

/-- Every defined record, active or pending, lies within its channels' configured ranges (R18), and none has more
than four conditions, assessments or output actions (R7, R9, R10). -/
def Obligations.StepKeepsRecordsWithinRanges : Prop :=
  ∀ s t : State, step s = .next t →
    (s.store.WithinRanges → t.store.WithinRanges) ∧ (s.store.WithinCounts → t.store.WithinCounts)

/-- No record that a port has still to release is freed, and none is passed over or copied twice: each enabled
channel holds in its two pages, the older one first, just the records of the log from its consumed to its copy
position, in their order; a page being filled is never full, and a record awaits copying only while the port
owns both pages (R120, R121, R124, R125). -/
def Obligations.StepKeepsDrainsConsistent : Prop :=
  ∀ s t : State, s.DrainsConsistent → step s = .next t → t.DrainsConsistent

/-- What the sequencer holds agrees with its phase (Table 2-2, R29, R37, R44, R103, R141). -/
def Obligations.StepKeepsTheShotConsistent : Prop :=
  ∀ s t : State, s.ShotConsistent → step s = .next t → t.ShotConsistent

/-- A shot whose states ahead are all defined never faults: each step answers a next state, and the states
ahead stay defined, through every write, apply and entry (R19, R21). A run that starts where no shot is
active therefore never faults. -/
def Obligations.StepNeverFaults : Prop :=
  (∀ s : State, s.AheadDefined → ∃ t, step s = .next t ∧ t.AheadDefined)
    ∧ (∀ s : State, s.seq.phase = .idle → s.AheadDefined ∧ s.Safe)

/-! ### Frames and answers -/

/-- A transaction with an incomplete frame or a wrong length is answered BAD_FRAME with no data and
changes nothing else; an unknown code is answered UNKNOWN, and counts for the keepalive (R169). -/
def BadAndUnknownFramesAnswered : Prop :=
  ∀ (p : Port) (s : State),
    exec (.badFrame p) s = .next (s.respond p .badFrame .none)
      ∧ exec (.unknown p) s = .next (s.answered p .unknown .none)

/-- A frame taken from the arming port restarts a running keepalive timer to the present instant plus the
guard period, and does nothing else; a frame of the other port, or with the timer stopped, does nothing
(R164). -/
def KeepaliveRestartedByTheArmingPort : Prop :=
  ∀ (p : Port) (s : State),
    (s.guard.expiry = none → s.takeFrame p = s)
      ∧ (s.seq.armingPort ≠ some p → s.takeFrame p = s)
      ∧ (∀ e, s.guard.expiry = some e → s.seq.armingPort = some p →
          s.takeFrame p = { s with guard := { s.guard with expiry := some (s.now + s.guard.period * 1000) } })

/-- A response replaces its own port's buffer and nothing else (R168). -/
def ResponseReplacesItsPortsBuffer : Prop :=
  ∀ (p : Port) (st : Status) (d : RespData) (s : State),
    ((s.respond p st d).ports.get p) = { s.ports.get p with response := { status := st, data := d } }
      ∧ (s.respond p st d).ports.get p.other = s.ports.get p.other
      ∧ s.respond p st d = { s with ports := (s.respond p st d).ports }

/-- What taking a frame and answering it do, and the answers to frames that carry no command. -/
def Obligations.FramesAreTakenAndAnswered : Prop :=
  BadAndUnknownFramesAnswered ∧ KeepaliveRestartedByTheArmingPort ∧ ResponseReplacesItsPortsBuffer

/-- Every gated command from the excluded port is refused with AUTHORITY, which carries the authority in
force, and changes nothing else (R156, Table 10-1). -/
def GatedCommandsRefusedToTheExcludedPort : Prop :=
  ∀ (c : Instr) (p : Port) (s : State), c.gatedSender = some p → s.excluded p = true →
    exec c s = .next (s.answered p .authority (.authority s.edit.authority))

/-- Configuration, ERASE_STATE and ARM are taken only in IDLE: in every other phase a port with authority
is answered BUSY, and nothing else changes (R16, R17, R23, R79, R81, R102, R151). -/
def IdleCommandsRefusedDuringAShot : Prop :=
  ∀ (c : Instr) (p : Port) (s : State), c.idleSender = some p → s.excluded p = false → s.seq.phase ≠ .idle →
    exec c s = .next (s.answered p .busy .none)

/-- NOTIFY_ENABLE names its selector where that is unknown, whatever its mask: the model's choice (log 46). -/
def TheSelectorIsNamedFirst : Prop :=
  ∀ (p : Port) (m : Mask) (s : State) (sel : Nat), 1 < sel →
    exec (.notifyEnable p sel m) s = .next (s.answered p .range (.param .selector))

/-- AUTHORITY for a gated command of the excluded port, BUSY for a command of IDLE within a shot, and which of two
bad parameters NOTIFY_ENABLE names: the model's choice (log 46). -/
def Obligations.CommandsRefusedByAuthorityAndPhase : Prop :=
  GatedCommandsRefusedToTheExcludedPort ∧ IdleCommandsRefusedDuringAShot ∧ TheSelectorIsNamedFirst

/-- A frame whose code takes `n` parameter bytes but whose length differs is answered BAD_FRAME. -/
def WrongLengthRefused (p : Port) (code : Byte) (n : Nat) : Prop :=
  ∀ (len : Byte) (rest : List Byte), len.toNat ≠ n →
    commandOfFrame p (code :: len :: rest) = .badFrame p

/-- The SHOT section (R22, R46, R115): the sequencer's items, the entry of the current state in both scales, the
visit count of the state entered last, and the verdict counts. -/
def ShotSection (p : Port) (s : State) : Prop :=
  exec (.getStatus p 0) s = .next (s.answered p .ok (.status (.shot
    { phase := s.seq.phase, shotNumber := s.seq.shotNumber, mode := s.seq.mode
      currentState := s.seq.visit.map (·.state)
      entryShot := s.seq.visit.map fun v => s.shotTime v.entry
      entryAbs := s.seq.visit.map (·.entryAbs)
      visitCount := s.seq.lastEntry.map fun l => s.seq.visitCounts[l.state]
      startTime := s.seq.startTime, lastEntry := s.seq.lastEntry, endCause := s.seq.endCause
      secondary := s.seq.secondary, verdicts := s.log.verdicts })))

/-- The CHANNELS section (R48, R70). -/
def ChannelsSection (p : Port) (s : State) : Prop :=
  ∃ d, exec (.getStatus p 1) s = .next (s.answered p .ok (.status (.channels d)))
    ∧ ∀ c : Channel, PerChannel.get d c
      = { amplitude := (s.synth.channels.get c).amplitude, phase := (s.synth.channels.get c).phase
          frequency := (s.synth.channels.get c).frequency, last := (s.synth.channels.get c).last
          silencing := (s.synth.channels.get c).silencing, clip := (s.synth.channels.get c).clip
          amplifier := (s.amp.channels.get c).status }

/-- An input is active: its level, inverted where its polarity is INVERTED (R74). -/
def InputActive (i : Input) : Bool :=
  match i.polarity with
  | .normal => i.level
  | .inverted => !i.level

/-- The IO section (R71, R74, R80): the twelve inputs, the signal vector bit by bit, and the four outputs. -/
def IoSection (p : Port) (s : State) : Prop :=
  ∃ inputs signals outputs,
    exec (.getStatus p 2) s = .next (s.answered p .ok (.status (.io inputs signals outputs)))
    ∧ inputs.length = 12 ∧ outputs.length = 4
    ∧ (∀ n : Fin 12, inputs[n.val]?
        = some { polarity := s.inputs.inputs[n].polarity, debounce := s.inputs.inputs[n].debounce
                 role := s.inputs.inputs[n].role, active := InputActive s.inputs.inputs[n]
                 lastChange := s.inputs.inputs[n].lastChange }
      ∧ signals.getLsbD n.val = InputActive s.inputs.inputs[n])
    ∧ (∀ q : Pole, signals.getLsbD (Pole.signal q) = (s.breaker.poles.get q).openSignal)
    ∧ signals.getLsbD 15 = s.tp.receive
    ∧ (∀ n : Fin 4, outputs[n.val]? = some s.outputs[n])

/-- The BREAKER section (R87). -/
def BreakerSection (p : Port) (s : State) : Prop :=
  ∃ d, exec (.getStatus p 3) s = .next (s.answered p .ok (.status (.breaker d)))
    ∧ d.enabled = s.breaker.enabled ∧ d.tripTime = s.breaker.tripTime ∧ d.closeTime = s.breaker.closeTime
    ∧ ∀ q : Pole, d.poles.get q
      = { position := (s.breaker.poles.get q).position, interruption := (s.breaker.poles.get q).interruption
          openSignal := (s.breaker.poles.get q).openSignal }

/-- The REPORT section (R103, R109, R119): the context, the log's counts, and each drain channel with the
records that await copying. -/
def ReportSection (p : Port) (s : State) : Prop :=
  ∃ d, exec (.getStatus p 4) s = .next (s.answered p .ok (.status (.report d)))
    ∧ d.context = s.assess.map (fun ctx =>
        { state := ctx.state, entry := ctx.entry, captures := ctx.captures.map (·.capture) })
    ∧ d.held = s.log.records.length ∧ d.free = 1024 - s.log.records.length
    ∧ d.reservation = s.log.reservation ∧ d.lost = s.log.lost ∧ d.saturated = s.log.saturated
    ∧ ∀ q : Port, d.drains.get q
      = { enabled := (s.drains.get q).enabled
          xOwner := (s.drains.get q).x.owner, xCount := (s.drains.get q).x.records.length
          xNumber := (s.drains.get q).x.number
          yOwner := (s.drains.get q).y.owner, yCount := (s.drains.get q).y.records.length
          yNumber := (s.drains.get q).y.number, toggle := (s.drains.get q).toggle
          awaiting := (match (s.drains.get q).copyPos with
                       | some copy => s.log.records.length - (copy - s.log.freed)
                       | none => 0) }

/-- The TIME section (R128, R138): the Time Base's items and the entries held in each group of the list. -/
def TimeSection (p : Port) (s : State) : Prop :=
  exec (.getStatus p 5) s = .next (s.answered p .ok (.status (.time
    { seconds := s.time.seconds, counter := s.time.counter, lock := s.time.lock, good := s.time.good
      lastError := s.time.lastError, loaded := s.time.loaded, quality := s.time.quality
      degraded := s.time.degraded, poleCount := s.actions.held .pole, condCount := s.actions.held .condition
      outputCount := s.actions.held .stateOutput, tpCount := s.actions.held .tpEdge })))

/-- The PEER section (R142): every item of Tables 9-1 and 9-4, the timers as the time left. -/
def PeerSection (p : Port) (s : State) : Prop :=
  exec (.getStatus p 6) s = .next (s.answered p .ok (.status (.peer
    { link := s.peer.link, farTag := s.peer.farTag, sendLeft := s.peer.sendAt - s.now
      lossLeft := s.peer.lossAt.map (· - s.now), agreement := s.peer.agreement
      lastReject := s.peer.lastReject, farState := s.peer.farState, farEnded := s.peer.farEnded
      lateDrops := s.peer.lateDrops, discards := s.peer.discards, tp := s.tp })))

/-- The slots that hold a pending copy tagged by a port (R155). -/
def PendingOf (s : State) (q : Port) : Nat :=
  (s.store.slots.toList.filter fun sl => decide (sl.staged.map (·.1) = some q)).length

/-- The CONTROL section (R155, R163, R170): authority, holds and pending counts, the guard's items, with the
keepalive timer as this frame leaves it, and the sets of the asking port. -/
def ControlSection (p : Port) (s : State) : Prop :=
  exec (.getStatus p 7) s = .next (s.answered p .ok (.status (.control
    { authority := s.edit.authority, hold := s.edit.hold
      pendingOf := { sequence := PendingOf s .sequence, panel := PendingOf s .panel }
      period := s.guard.period, timerLeft := (s.takeFrame p).guard.expiry.map (· - s.now)
      eStop := s.guard.eStop, latches := s.guard.latches, requests := (s.ports.get p).requests
      enables := (s.ports.get p).enables, repeated := (s.ports.get p).repeated })))

/-- GET_STATUS answers every item of its section as it stands and changes nothing else; an unknown section is
RANGE (R170, Table 12-3). -/
def Obligations.StatusReportsTheState : Prop :=
  ∀ (p : Port) (s : State),
    (∀ sect, 7 < sect → exec (.getStatus p sect) s = .next (s.answered p .range (.param .sect)))
      ∧ ShotSection p s ∧ ChannelsSection p s ∧ IoSection p s ∧ BreakerSection p s ∧ ReportSection p s
      ∧ TimeSection p s ∧ PeerSection p s ∧ ControlSection p s

/-! ### Notifications -/

/-- NOTIFY_ENABLE (R172): it acts on the sending port's enables under every authority, refuses an unknown
selector and a mask bit above 9, of two bad parameters naming either, leaves requests and repeated bits, and the
line follows the sets. -/
def Obligations.NotifyEnableSetsAndClears : Prop :=
  ∀ (p : Port) (m : Mask) (s : State),
    (∀ sel, 1 < sel → m.toNat < 1024 →
        exec (.notifyEnable p sel m) s = .next (s.answered p .range (.param .selector)))
      ∧ (∀ sel, 1 < sel → 1024 ≤ m.toNat →
          exec (.notifyEnable p sel m) s = .next (s.answered p .range (.param .selector))
          ∨ exec (.notifyEnable p sel m) s = .next (s.answered p .range (.param .causes)))
      ∧ (∀ sel, sel ≤ 1 → 1024 ≤ m.toNat →
          exec (.notifyEnable p sel m) s = .next (s.answered p .range (.param .causes)))
      ∧ (∀ sel e, sel ≤ 1 → m.toNat < 1024 →
          (∀ k, k < 10 → e.getLsbD k
            = if sel = 0 then (s.ports.get p).enables.getLsbD k || m.getLsbD k
              else (s.ports.get p).enables.getLsbD k && !m.getLsbD k) →
          ∃ t, exec (.notifyEnable p sel m) s = .next t
            ∧ t = { (s.takeFrame p) with ports := t.ports }
            ∧ t.ports.get p = { s.ports.get p with
                enables := e, response := { status := .ok, data := .enables e } }
            ∧ t.ports.get p.other = s.ports.get p.other
            ∧ (t.ports.get p).notifyLine = decide ((s.ports.get p).requests &&& e ≠ 0))

/-- NOTIFY_ACK (R173): the response records the request and repeated sets as found, the masked causes are
cleared in both, the others keep their bits, and the line follows. A cause raised just before is shown and
cleared; a cause raised just after sets its request anew. -/
def Obligations.NotifyAckClears : Prop :=
  ∀ (p : Port) (m : Mask) (s : State),
    (1024 ≤ m.toNat → exec (.notifyAck p m) s = .next (s.answered p .range (.param .causes)))
      ∧ (m.toNat < 1024 →
          ∃ t, exec (.notifyAck p m) s = .next t
            ∧ t = { (s.takeFrame p) with ports := t.ports }
            ∧ t.ports.get p.other = s.ports.get p.other
            ∧ (t.ports.get p).enables = (s.ports.get p).enables
            ∧ (t.ports.get p).response
                = { status := .ok
                    data := .notified (s.ports.get p).requests (s.ports.get p).repeated }
            ∧ (∀ k, k < 10 → (t.ports.get p).requests.getLsbD k
                = ((s.ports.get p).requests.getLsbD k && !m.getLsbD k))
            ∧ (∀ k, k < 10 → (t.ports.get p).repeated.getLsbD k
                = ((s.ports.get p).repeated.getLsbD k && !m.getLsbD k))
            ∧ (t.ports.get p).notifyLine
                = decide ((t.ports.get p).requests &&& (t.ports.get p).enables ≠ 0))
      ∧ (∀ c : NotifyCause, m.toNat < 1024 → c.bit.setWidth 16 &&& m = c.bit.setWidth 16 →
          (∃ t, exec (.notifyAck p m) (s.raiseFor p c) = .next t
            ∧ (t.ports.get p).requests &&& c.bit = 0
            ∧ ∃ req rep, (t.ports.get p).response = { status := .ok, data := .notified req rep }
                ∧ req &&& c.bit = c.bit)
          ∧ (∃ t, exec (.notifyAck p m) s = .next t
            ∧ ((t.raiseFor p c).ports.get p).requests &&& c.bit = c.bit
            ∧ (c.bit &&& (s.ports.get p).enables = c.bit →
                ((t.raiseFor p c).ports.get p).notifyLine = true)))

/-! ### The program -/

/-- READ_STATE (R15): from either port under every authority and in every phase, it answers the revision,
the pending tag and the copy selected, and changes nothing else. Frame length, then index, then selector
are checked. That the marks EMPTY and ABSENT are one value, an absent copy, and that the data is typed is the
model's choice (log 8). -/
def Obligations.ReadStateReturnsTheCopy : Prop :=
  ∀ (p : Port) (s : State),
    WrongLengthRefused p 0x09#8 2
      ∧ (∀ index sel, 32 ≤ index →
          exec (.readState p index sel) s = .next (s.answered p .range (.field 1 0)))
      ∧ (∀ (i : Fin 32) sel, 1 < sel →
          exec (.readState p i sel) s = .next (s.answered p .range (.param .selector)))
      ∧ (∀ i : Fin 32,
          exec (.readState p i 0) s = .next (s.answered p .ok
            (.record s.store.slots[i].revision (s.store.slots[i].staged.map (·.1)) s.store.slots[i].active))
          ∧ exec (.readState p i 1) s = .next (s.answered p .ok
            (.record s.store.slots[i].revision (s.store.slots[i].staged.map (·.1))
              (s.store.slots[i].staged.map (·.2)))))

/-- ERASE_STATE (R16): gated, only in IDLE, index checked last. It empties the active copy, discards any
pending copy and increments the revision; an empty slot with no pending copy is answered OK and not
changed; no other slot and no visit count is touched. That OK carries no data is the model's choice (log 38). -/
def Obligations.EraseStateEmptiesTheSlot : Prop :=
  ∀ (p : Port) (s : State),
    WrongLengthRefused p 0x0A#8 1
      ∧ (∀ index, s.excluded p = true →
          exec (.eraseState p index) s = .next (s.answered p .authority (.authority s.edit.authority)))
      ∧ (s.excluded p = false →
          (∀ index, s.seq.phase ≠ .idle → exec (.eraseState p index) s = .next (s.answered p .busy .none))
          ∧ (s.seq.phase = .idle →
              (∀ index, 32 ≤ index →
                exec (.eraseState p index) s = .next (s.answered p .range (.field 1 0)))
              ∧ (∀ i : Fin 32, s.store.slots[i].active = none → s.store.slots[i].staged = none →
                  exec (.eraseState p i) s = .next (s.answered p .ok .none))
              ∧ (∀ i : Fin 32, (s.store.slots[i].active ≠ none ∨ s.store.slots[i].staged ≠ none) →
                  exec (.eraseState p i) s = .next (State.answered
                    (s.setSlot i { active := none, staged := none
                                   revision := (s.store.slots[i].revision + 1) % 65536 }) p .ok .none))))

/-- What a write does to a slot that passes its checks: at once in IDLE for a port that does not hold and a
slot with no pending copy; otherwise as a pending copy of the port, with the active copy and the revision
as they were (R1, R11, R158). -/
def WriteTakesEffect (p : Port) (i : Fin 32) (r : StateRecord) (s : State) (c : Instr) : Prop :=
  (s.seq.phase = .idle → s.edit.hold.get p = false → s.store.slots[i].staged = none →
    exec c s = .next (State.answered
      (s.setSlot i { active := some r, staged := none, revision := (s.store.slots[i].revision + 1) % 65536 })
      p .ok (.written ((s.store.slots[i].revision + 1) % 65536) .applied)))
  ∧ (s.seq.phase = .idle → s.store.slots[i].otherStaged p = false →
      (s.edit.hold.get p = true ∨ s.store.slots[i].staged ≠ none) →
      exec c s = .next (State.answered
        (s.setSlot i { active := s.store.slots[i].active, staged := some (p, r)
                       revision := s.store.slots[i].revision })
        p .ok (.written s.store.slots[i].revision .staged)))
  ∧ (s.seq.phase ≠ .idle → s.store.slots[i].otherStaged p = false → s.stagedWalk p i r = none →
      exec c s = .next (State.answered
        (s.setSlot i { active := s.store.slots[i].active, staged := some (p, r)
                       revision := s.store.slots[i].revision })
        p .ok (.written s.store.slots[i].revision .staged)))

/-- The refusals that follow the range checks of a write, in order: STALE, PENDING_OTHER and, for a write to
be staged while a shot is not IDLE, UNDEFINED_TARGET. Nothing else changes (Table 1-3, R21, R159). -/
def WriteRefused (p : Port) (i : Fin 32) (expected : Nat) (r : StateRecord) (s : State) (c : Instr) : Prop :=
  (expected ≠ s.store.slots[i].revision → exec c s = .next (s.answered p .stale .none))
  ∧ (expected = s.store.slots[i].revision → s.store.slots[i].otherStaged p = true →
      exec c s = .next (s.answered p .pendingOther .none))
  ∧ (∀ d, expected = s.store.slots[i].revision → s.store.slots[i].otherStaged p = false →
      s.seq.phase ≠ .idle → s.stagedWalk p i r = some d →
      exec c s = .next (s.answered p .undefinedTarget d))

/-! The walk of the states that a program can reach (R19 to R21). -/

/-- The states that a record leads to, in the order of R19: the next state of each condition in list order, then
timeout_next where the duration is nonzero. END is no state. -/
def TargetsOfRecord (r : StateRecord) : List (Fin 32) :=
  (r.conditions.map (·.next) ++ if r.duration = 0 then [] else [r.timeoutNext]).flatMap fun n =>
    match n with
    | .state j => [j]
    | .finish => []

/-- The states that a slot leads to: those of its active copy, then those of its pending copy (R19). -/
def TargetsOfSlot (slots : Vector Slot 32) (i : Fin 32) : List (Fin 32) :=
  (slots[i].active.map TargetsOfRecord).getD [] ++ (slots[i].staged.map fun x => TargetsOfRecord x.2).getD []

/-- The states reachable from `roots`, each once, in breadth-first order: the roots, then what the first of the
order leads to, then what the second leads to, and so on, each at its first occurrence (R19). -/
def BreadthFirst (slots : Vector Slot 32) (roots order : List (Fin 32)) : Prop :=
  order = (roots ++ order.flatMap (TargetsOfSlot slots)).eraseDups
  ∧ ∀ j ∈ order, ∃ i ∈ roots, Relation.ReflTransGen (fun a b => b ∈ TargetsOfSlot slots a) i j

/-- The first output action of a record whose output is not STATE_DRIVEN is the one with entry index `n` (R20). -/
def FirstBadAction (outputs : Vector Output 4) (r : StateRecord) (n : Nat) : Prop :=
  ∃ before a after, r.actions = before ++ a :: after ∧ n = before.length + 1
    ∧ outputs[a.output].role ≠ .stateDriven ∧ ∀ b ∈ before, outputs[b.output].role = .stateDriven

/-- Every output action of a record names a STATE_DRIVEN output (R20). -/
def ActionsSound (outputs : Vector Output 4) (r : StateRecord) : Prop :=
  ∀ a ∈ r.actions, outputs[a.output].role = .stateDriven

/-- A reached state passes: its active copy is defined, and the output actions of its copies are sound (R19, R20). -/
def StateSound (slots : Vector Slot 32) (outputs : Vector Output 4) (j : Fin 32) : Prop :=
  (∃ r, slots[j].active = some r ∧ ActionsSound outputs r) ∧ ∀ x, slots[j].staged = some x → ActionsSound outputs x.2

/-- What a reached state fails with: the empty state itself, or the state, the copy and the entry index of the
first bad output action, active copy first (R19, R20). -/
def StateFails (slots : Vector Slot 32) (outputs : Vector Output 4) (j : Fin 32) (d : RespData) : Prop :=
  (slots[j].active = none ∧ d = .emptyTarget j)
  ∨ ∃ r, slots[j].active = some r
      ∧ ((∃ n, FirstBadAction outputs r n ∧ d = .badAction j false n)
          ∨ (ActionsSound outputs r ∧ ∃ x n, slots[j].staged = some x ∧ FirstBadAction outputs x.2 n
              ∧ d = .badAction j true n))

/-- A walk from `roots` answers nothing where every reachable state passes, and otherwise what the first that
does not, in breadth-first order, fails with (R19, R20). -/
def WalkAnswers (slots : Vector Slot 32) (outputs : Vector Output 4) (roots : List (Fin 32))
    (answer : Option RespData) : Prop :=
  ∃ order, BreadthFirst slots roots order
    ∧ (answer = none ↔ ∀ j ∈ order, StateSound slots outputs j)
    ∧ ∀ before j after d, order = before ++ j :: after → (∀ i ∈ before, StateSound slots outputs i) →
        StateFails slots outputs j d → answer = some d

/-- What the target check of a write to be staged answers: the record's own output actions first, then a walk
from its targets, with the record in place of its slot's pending copy (R21). -/
def StagedWalkAnswers : Prop :=
  ∀ (s : State) (p : Port) (i : Fin 32) (r : StateRecord),
    (∀ n, FirstBadAction s.outputs r n → s.stagedWalk p i r = some (.badAction i true n))
    ∧ (ActionsSound s.outputs r →
        WalkAnswers (s.store.slots.set i { s.store.slots[i] with staged := some (p, r) }) s.outputs
          (TargetsOfRecord r) (s.stagedWalk p i r))

/-- A value of the quantity of a ramp is out of range (Table 1-2). -/
def RampValueBad (cfg : PerChannel ChannelConfig) (tg : Target) (q : Quantity) (v : Int) : Prop :=
  match q with
  | .amplitude => v < 0 ∨ ∃ c, tg.covers c = true ∧ ((cfg.get c).range : Int) < v
  | .phase => v < -18000 ∨ 17999 < v
  | .frequency => v < 10000 ∨ 1000000 < v

/-- A step of the quantity of a ramp is out of range (Table 1-2). -/
def RampStepBad (cfg : PerChannel ChannelConfig) (tg : Target) (q : Quantity) (v : Int) : Prop :=
  v = 0 ∨ match q with
    | .amplitude => ∃ c, tg.covers c = true ∧ (cfg.get c).range < v.natAbs
    | .phase => 35999 < v.natAbs
    | .frequency => 990000 < v.natAbs

/-- The code is neither a state, 0 to 31, nor END, 255. -/
def NextBad (n : Nat) : Prop := 32 ≤ n ∧ n ≠ 255

/-- A field of a channel entry is out of its range, by its code (Table 1-1, R5). -/
def ChannelFieldBad (cfg : PerChannel ChannelConfig) (c : Channel) (e : RawChannel) : Nat → Prop
  | 4 => (cfg.get c).range < e.amplitude
  | 5 => e.phase < -18000 ∨ 17999 < e.phase
  | 6 => e.frequency < 10000 ∨ 1000000 < e.frequency
  | 7 => 5000 < e.offsetTau
  | 8 => 4 < e.link ∨ (c.isVoltage = true ∧ 1 ≤ e.link ∧ e.link ≤ 3)
  | _ => False

/-- A field of the ramp is out of its range, by its code (Table 1-1, R8). -/
def RampFieldBad (cfg : PerChannel ChannelConfig) (w : RawRamp) : Nat → Prop
  | 14 => 8 < w.target
  | 15 => 2 < w.quantity
  | 16 => ∃ tg q, Target.ofCode w.target = some tg ∧ Quantity.ofCode w.quantity = some q
      ∧ RampValueBad cfg tg q w.start
  | 17 => ∃ tg q, Target.ofCode w.target = some tg ∧ Quantity.ofCode w.quantity = some q
      ∧ RampStepBad cfg tg q w.step
  | 18 => ∃ tg q, Target.ofCode w.target = some tg ∧ Quantity.ofCode w.quantity = some q
      ∧ (RampValueBad cfg tg q w.limit ∨ (0 < w.step ∧ w.limit < w.start) ∨ (w.step < 0 ∧ w.start < w.limit))
  | 19 => w.dwell = 0 ∨ 100000 < w.dwell
  | 20 => w.stopMask = 0
  | _ => False

/-- The field with a code, at a channel position or entry index, which is 0 where it has neither, is out of its
range (Table 1-1; R12: fields of an absent part and entries beyond a count are not looked at). -/
def FieldBad (cfg : PerChannel ChannelConfig) (index : Nat) (raw : RawRecord) (code pos : Nat) : Prop :=
  (code = 1 ∧ pos = 0 ∧ 32 ≤ index)
  ∨ (code = 2 ∧ pos = 0 ∧ 36000000 < raw.duration)
  ∨ (code = 3 ∧ pos = 0 ∧ NextBad raw.timeoutNext)
  ∨ (∃ c : Channel, pos = c.position ∧ ChannelFieldBad cfg c (raw.channels.get c) code)
  ∨ (raw.inceptionPresent = true ∧ pos = 0
      ∧ (code = 9 ∧ 6 < raw.inceptionRef
          ∨ code = 10 ∧ (raw.inceptionAngle < -18000 ∨ 17999 < raw.inceptionAngle)))
  ∨ (code = 11 ∧ pos = 0 ∧ 4 < raw.conditionCount)
  ∨ (∃ c, 1 ≤ pos ∧ pos ≤ raw.conditionCount ∧ raw.conditions[pos - 1]? = some c
      ∧ (code = 12 ∧ 100000 < c.hold ∨ code = 13 ∧ NextBad c.next))
  ∨ (raw.rampPresent = true ∧ pos = 0 ∧ RampFieldBad cfg raw.ramp code)
  ∨ (code = 21 ∧ pos = 0 ∧ 4 < raw.assessmentCount)
  ∨ (∃ a, 1 ≤ pos ∧ pos ≤ raw.assessmentCount ∧ raw.assessments[pos - 1]? = some a
      ∧ (code = 22 ∧ a.mask = 0 ∨ code = 23 ∧ 1 < a.expectation ∨ code = 24 ∧ 3600000000 < a.nominal
          ∨ code = 25 ∧ 3600000000 < a.tolAbs ∨ code = 26 ∧ 1000 < a.permille))
  ∨ (code = 27 ∧ pos = 0 ∧ 4 < raw.actionCount)
  ∨ (∃ a, 1 ≤ pos ∧ pos ≤ raw.actionCount ∧ raw.actions[pos - 1]? = some a
      ∧ (code = 28 ∧ (a.output = 0 ∨ 4 < a.output) ∨ code = 29 ∧ 1 < a.level ∨ code = 30 ∧ 100000 < a.delay))

/-- Two codes belong to one repeated part of the record: a channel, a condition, an assessment or an output
action. -/
def SamePart (a b : Nat) : Prop :=
  (4 ≤ a ∧ a ≤ 8 ∧ 4 ≤ b ∧ b ≤ 8) ∨ (12 ≤ a ∧ a ≤ 13 ∧ 12 ≤ b ∧ b ≤ 13)
    ∨ (22 ≤ a ∧ a ≤ 26 ∧ 22 ≤ b ∧ b ≤ 26) ∨ (28 ≤ a ∧ a ≤ 30 ∧ 28 ≤ b ∧ b ≤ 30)

/-- One field is looked at before another: by code, but channel by channel and entry by entry (R12). -/
def FieldBefore (a x b y : Nat) : Prop :=
  (SamePart a b ∧ (x < y ∨ (x = y ∧ a < b))) ∨ (¬ SamePart a b ∧ a < b)

/-- WRITE_STATE (R8, R11, R12): the first field out of range, in the order of R12, is named by its code and its
position, and nothing changes; a record with none is applied, staged or refused as Table 1-3 and R158 give. -/
def WriteStateChecksAndWrites : Prop :=
  ∀ (p : Port) (index expected : Nat) (raw : RawRecord) (s : State), s.excluded p = false →
    (∀ code pos, FieldBad s.store.config index raw code pos →
      (∀ c x, FieldBefore c x code pos → ¬ FieldBad s.store.config index raw c x) →
      exec (.writeState p index expected raw) s = .next (s.answered p .range (.field code pos)))
    ∧ (∀ i : Fin 32, index = i → (∀ code pos, ¬ FieldBad s.store.config index raw code pos) →
        WriteRefused p i expected (RawRecord.stored raw) s (.writeState p index expected raw)
          ∧ (expected = s.store.slots[i].revision →
              WriteTakesEffect p i (RawRecord.stored raw) s (.writeState p index expected raw)))

/-- WRITE_STATE, and the target check of a write to be staged (R8, R11, R12, R21, R158, R159). That STALE and
PENDING_OTHER carry no data is the model's choice (log 38). -/
def Obligations.WriteStateAppliesOrStages : Prop :=
  WriteStateChecksAndWrites ∧ StagedWalkAnswers

/-- The record that a balanced write of a group gives: amplitude and frequency on its three channels, φ on
phase A and φ less and plus 12,000, or plus and less for ACB, on B and C, each wrapped; every other item
kept (R13). -/
def BalancedRecord (r r' : StateRecord) (g : PhaseGroup) (amplitude frequency : Nat) (angle : Int)
    (acb : Bool) : Prop :=
  r' = { r with channels := r'.channels }
    ∧ (∀ c : Channel, c.group ≠ some g → r'.channels.get c = r.channels.get c)
    ∧ (∀ c : Channel, c.group = some g →
        r'.channels.get c = { r.channels.get c with
          amplitude := amplitude, frequency := frequency, phase := (r'.channels.get c).phase })
    ∧ (∀ a b c : Channel, g.channels = [a, b, c] →
        (r'.channels.get a).phase = angle
        ∧ (r'.channels.get b).phase = wrapAngle (if acb then angle + 12000 else angle - 12000)
        ∧ (r'.channels.get c).phase = wrapAngle (if acb then angle - 12000 else angle + 12000))

/-- The range checks of WRITE_BALANCED (R13): the amplitude against each channel of the group in channel order,
then the frequency, then the angle, each named with its code and its position. That the index stands before
them, the group after it and the sequence last is the model's choice (log 20). -/
def WriteBalancedRefusesByRange : Prop :=
  ∀ (p : Port) (index expected group amplitude frequency order : Nat) (angle : Int) (s : State),
    s.excluded p = false →
    ∀ c, c = Instr.writeBalanced p index expected group amplitude frequency angle order →
    (32 ≤ index → exec c s = .next (s.answered p .range (.field 1 0)))
    ∧ (index < 32 → 1 < group → exec c s = .next (s.answered p .range (.param .group)))
    ∧ (∀ g, index < 32 → PhaseGroup.ofCode group = some g →
        (∀ ch : Channel, ch.group = some g → (s.store.config.get ch).range < amplitude →
          (∀ b : Channel, b.group = some g → b.position < ch.position → amplitude ≤ (s.store.config.get b).range) →
          exec c s = .next (s.answered p .range (.field 4 ch.position)))
        ∧ ((∀ b : Channel, b.group = some g → amplitude ≤ (s.store.config.get b).range) →
            ∀ posA, posA = (if g = .v then 1 else 5) →
            ((frequency < 10000 ∨ 1000000 < frequency) →
              exec c s = .next (s.answered p .range (.field 6 posA)))
            ∧ (10000 ≤ frequency → frequency ≤ 1000000 → (angle < -18000 ∨ 17999 < angle) →
              exec c s = .next (s.answered p .range (.field 5 posA)))
            ∧ (10000 ≤ frequency → frequency ≤ 1000000 → -18000 ≤ angle → angle ≤ 17999 → 1 < order →
              exec c s = .next (s.answered p .range (.param .order)))))

/-- WRITE_BALANCED (R13, R14): on the writer's pending copy, else the active copy, else the default record,
it writes the three channels of the group, and the result is treated as a WRITE_STATE of it. -/
def WriteBalancedWritesItsGroup : Prop :=
  ∀ (p : Port) (i : Fin 32) (expected amplitude frequency : Nat) (angle : Int) (g : PhaseGroup)
    (acb : Bool) (s : State) (base : StateRecord), s.excluded p = false →
    (∀ c : Channel, c.group = some g → amplitude ≤ (s.store.config.get c).range) →
    10000 ≤ frequency → frequency ≤ 1000000 → -18000 ≤ angle → angle ≤ 17999 →
    (∀ r, s.store.slots[i].staged = some (p, r) → base = r) →
    (s.store.slots[i].ownStaged p = none → base = s.store.slots[i].active.getD StateRecord.default) →
    ∃ r', BalancedRecord base r' g amplitude frequency angle acb
      ∧ WriteRefused p i expected r' s
          (.writeBalanced p i expected (if g = .v then 0 else 1) amplitude frequency angle (if acb then 1 else 0))
      ∧ (expected = s.store.slots[i].revision →
          WriteTakesEffect p i r' s
            (.writeBalanced p i expected (if g = .v then 0 else 1) amplitude frequency angle
              (if acb then 1 else 0)))

/-- WRITE_BALANCED: its range checks, and what it writes (R13, R14). That STALE and PENDING_OTHER carry no data is
the model's choice (log 38), and so is the order of the index, the group and the sequence (log 20). -/
def Obligations.WriteBalancedWritesOneGroup : Prop :=
  WriteBalancedRefusesByRange ∧ WriteBalancedWritesItsGroup

/-! ### Edit control -/

/-- Every pending copy applied: it replaces the active copy, the revision counts, the tag goes; slots
without one are not changed (R1, R161). -/
def PendingCopiesApplied (s t : State) : Prop :=
  ∀ i : Fin 32,
    (s.store.slots[i].staged = none → t.store.slots[i] = s.store.slots[i])
      ∧ (∀ q r, s.store.slots[i].staged = some (q, r) →
          t.store.slots[i] = { active := some r, staged := none
                               revision := (s.store.slots[i].revision + 1) % 65536 })

/-- HOLD and RELEASE (R160, R161): HOLD sets the flag. RELEASE clears it, and where it clears it in IDLE and
the other port does not hold, every pending copy is applied and, if there was one, EDITS_APPLIED raised;
in every other case it applies nothing. -/
def HoldAndRelease : Prop :=
  ∀ (p : Port) (s : State), s.excluded p = false →
    exec (.hold p) s = .next (State.answered
        { s with edit := { s.edit with hold := s.edit.hold.set p true } } p .ok .none)
    ∧ (s.edit.hold.get p = false → exec (.release p) s = .next (s.answered p .ok .none))
    ∧ (s.edit.hold.get p = true → (s.seq.phase ≠ .idle ∨ s.edit.hold.get p.other = true) →
        exec (.release p) s = .next (State.answered
          { s with edit := { s.edit with hold := s.edit.hold.set p false } } p .ok .none))
    ∧ (s.edit.hold.get p = true → s.seq.phase = .idle → s.edit.hold.get p.other = false →
        ∃ t, exec (.release p) s = .next t
          ∧ t = { (s.takeFrame p) with
              store := t.store, ports := t.ports
              edit := { s.edit with hold := s.edit.hold.set p false } }
          ∧ PendingCopiesApplied s t ∧ t.store.config = s.store.config
          ∧ (t.ports.get p).response = { status := .ok, data := .none }
          ∧ ∀ q, (t.ports.get q).requests
              = if s.store.anyStaged then (s.ports.get q).requests ||| NotifyCause.editsApplied.bit
                else (s.ports.get q).requests)

/-- SET_AUTHORITY (R157): the checks in order; an equal value changes nothing; a value that differs is
stored and raises AUTHORITY_CHANGED; a port that it excludes loses its hold and its pending copies, and
where neither port then holds, the other port's copies are applied. -/
def SetAuthority : Prop :=
  ∀ (p : Port) (s : State),
    (∀ v, 2 < v → exec (.setAuthority p v) s = .next (s.answered p .range (.param .authority)))
    ∧ (∀ v, v ≤ 2 → p = .sequence → (v = 1 ∨ s.edit.authority = .local_) →
        exec (.setAuthority p v) s = .next (s.answered p .authority (.authority s.edit.authority)))
    ∧ (∀ v a, Authority.ofCode v = some a → (p = .panel ∨ (a ≠ .local_ ∧ s.edit.authority ≠ .local_)) →
        (s.seq.phase ≠ .idle → exec (.setAuthority p v) s = .next (s.answered p .busy .none))
        ∧ (s.seq.phase = .idle → a = s.edit.authority →
            exec (.setAuthority p v) s = .next (s.answered p .ok (.authority a)))
        ∧ (s.seq.phase = .idle → a ≠ s.edit.authority →
            ∃ t, exec (.setAuthority p v) s = .next t
              ∧ t = { (s.takeFrame p) with store := t.store, edit := t.edit, ports := t.ports }
              ∧ t.edit.authority = a ∧ t.store.config = s.store.config
              ∧ (t.ports.get p).response = { status := .ok, data := .authority a }
              ∧ (∀ q, (t.ports.get q).requests &&& NotifyCause.authorityChanged.bit
                  = NotifyCause.authorityChanged.bit)
              ∧ (a.excludes = none → t.edit.hold = s.edit.hold ∧ t.store = s.store)
              ∧ (∀ q, a.excludes = some q →
                  t.edit.hold = s.edit.hold.set q false
                  ∧ ∀ i : Fin 32,
                      (∀ r, s.store.slots[i].staged = some (q, r) →
                        t.store.slots[i] = { s.store.slots[i] with staged := none })
                      ∧ (s.store.slots[i].staged = none → t.store.slots[i] = s.store.slots[i])
                      ∧ (∀ r, s.store.slots[i].staged = some (q.other, r) →
                          t.store.slots[i]
                            = if s.edit.hold.get q.other then s.store.slots[i]
                              else { active := some r, staged := none
                                     revision := (s.store.slots[i].revision + 1) % 65536 }))))

/-- HOLD, RELEASE and SET_AUTHORITY (R157, R160, R161). That OK of HOLD and RELEASE carries no data is the
model's choice (log 38). -/
def Obligations.EditControlFollowsItsCommands : Prop :=
  HoldAndRelease ∧ SetAuthority

/-! ### Configuration and outputs -/

/-- A range is one of the two of the channel's kind (Table 1-5). -/
def RangeOfKind (c : Channel) (range : Nat) : Prop :=
  if c.isVoltage then range = 150000 ∨ range = 300000 else range = 12500 ∨ range = 50000

/-- CONFIG_CHANNEL (R17, R18): the parameters in order; a lowered range that a record would exceed is
refused with CONFLICT naming the first such state and its copies; otherwise the three values are stored,
with the trim clamped, and nothing else changes. That the response carries them is DEDUCED (log 19). -/
def Obligations.ConfigChannelReplacesOneChannel : Prop :=
  ∀ (p : Port) (channel range trim link : Nat) (s : State), s.excluded p = false → s.seq.phase = .idle →
    (7 ≤ channel →
      exec (.configChannel p channel range trim link) s = .next (s.answered p .range (.param .channel)))
    ∧ (∀ c : Channel, Channel.ofCode channel = some c →
        (¬ RangeOfKind c range →
          exec (.configChannel p channel range trim link) s = .next (s.answered p .range (.param .range)))
        ∧ (RangeOfKind c range → (3 < link ∨ (c.isVoltage = true ∧ link ≠ 3)) →
          exec (.configChannel p channel range trim link) s = .next (s.answered p .range (.param .link)))
        ∧ (∀ l, RangeOfKind c range → poleLinkOfCode link = some l → (c.isVoltage = true → l = none) →
            (∀ i : Fin 32, range < (s.store.config.get c).range →
              (∀ j : Fin 32, j < i → s.store.slots[j].exceeds c range = (false, false)) →
              s.store.slots[i].exceeds c range ≠ (false, false) →
              exec (.configChannel p channel range trim link) s = .next (s.answered p .conflict
                (.conflictState i (s.store.slots[i].exceeds c range).1 (s.store.slots[i].exceeds c range).2)))
            ∧ ((range < (s.store.config.get c).range →
                  ∀ i : Fin 32, s.store.slots[i].exceeds c range = (false, false)) →
              ∀ cfg : ChannelConfig, cfg = { range := range, trim := max 29491 (min 36045 trim), link := l } →
                exec (.configChannel p channel range trim link) s = .next (State.answered
                  { s with store := { s.store with config := s.store.config.set c cfg } }
                  p .ok (.channelConfig cfg)))))

/-- CONFIG_OUTPUT (R81): the role is stored and the level set at once to what the role gives; no record is
written and nothing else changes. -/
def ConfigOutputSetsRoleAndLevel : Prop :=
  ∀ (p : Port) (output role : Nat) (s : State), s.excluded p = false → s.seq.phase = .idle →
    ((output = 0 ∨ 4 < output) →
      exec (.configOutput p output role) s = .next (s.answered p .range (.param .output)))
    ∧ (1 ≤ output → output ≤ 4 → 5 < role →
      exec (.configOutput p output role) s = .next (s.answered p .range (.param .role)))
    ∧ (∀ n r, outputOfCode output = some n → OutputRole.ofCode role = some r →
        ∀ level : Bool,
          (level = true ↔
            (r = .aux52A ∧ ∀ q : Pole, (s.breaker.poles.get q).position = .closed)
            ∨ (r = .aux52B ∧ ∀ q : Pole, (s.breaker.poles.get q).position = .opened)
            ∨ (r = .manual ∧ s.outputs[n].role = .manual ∧ s.outputs[n].level = true)) →
          exec (.configOutput p output role) s = .next (State.answered
            { s with outputs := s.outputs.set n { role := r, level := level } } p .ok .none))

/-- CONFIG_BREAKER (R102): parameters in order. ENABLED stores the three values and changes nothing else.
DISABLED also removes every pole action, makes every pole CLOSED, lets its linked channels conduct, sets
the AUX outputs, and writes no record. -/
def Obligations.ConfigBreakerEnablesOrDisables : Prop :=
  ∀ (p : Port) (setting tripTime closeTime : Nat) (s : State),
    s.excluded p = false → s.seq.phase = .idle →
    (1 < setting →
      exec (.configBreaker p setting tripTime closeTime) s
        = .next (s.answered p .range (.param .setting)))
    ∧ (setting ≤ 1 → 5000 < tripTime →
      exec (.configBreaker p setting tripTime closeTime) s
        = .next (s.answered p .range (.param .tripTime)))
    ∧ (setting ≤ 1 → tripTime ≤ 5000 → 10000 < closeTime →
      exec (.configBreaker p setting tripTime closeTime) s
        = .next (s.answered p .range (.param .closeTime)))
    ∧ (tripTime ≤ 5000 → closeTime ≤ 10000 →
        exec (.configBreaker p 0 tripTime closeTime) s = .next (State.answered
          { s with breaker := { s.breaker with
              enabled := true, tripTime := tripTime, closeTime := closeTime } }
          p .ok (.breakerConfig true tripTime closeTime)))
    ∧ (tripTime ≤ 5000 → closeTime ≤ 10000 → s.seq.visit = none →
        ∃ t, exec (.configBreaker p 1 tripTime closeTime) s = .next t
          ∧ t = { (s.takeFrame p) with
              synth := t.synth, outputs := t.outputs, breaker := t.breaker, actions := t.actions
              ports := (State.answered s p .ok (.breakerConfig false tripTime closeTime)).ports }
          ∧ t.breaker.enabled = false ∧ t.breaker.tripTime = tripTime ∧ t.breaker.closeTime = closeTime
          ∧ (∀ q : Pole, t.breaker.poles.get q
              = { position := .closed, interruption := .none, start := none, openSignal := false })
          ∧ t.actions = { s.actions with entries := s.actions.entries.filter fun a => !a.work.isPole }
          ∧ t.synth.ramp = s.synth.ramp
          ∧ (∀ c : Channel, t.synth.channels.get c
              = if (s.synth.channels.get c).link = none then s.synth.channels.get c
                else (s.synth.channels.get c).poleClosed)
          ∧ ∀ n : Fin 4, t.outputs[n].role = s.outputs[n].role
              ∧ t.outputs[n].level
                = match s.outputs[n].role with
                  | .aux52A => true
                  | .aux52B => false
                  | _ => s.outputs[n].level)

/-- CONFIG_TELEPROTECTION (R151): an unknown source is RANGE, a delay above 1,000 is clamped; the same
source changes only the delay; a new source drops every TP_EDGE action and the pending resync, and takes
the level the new source holds. -/
def Obligations.ConfigTeleprotectionReplacesTheSource : Prop :=
  ∀ (p : Port) (source delay : Nat) (s : State), s.excluded p = false → s.seq.phase = .idle →
    (1 < source →
      exec (.configTeleprotection p source delay) s = .next (s.answered p .range (.param .source)))
    ∧ (∀ src, TpSource.ofCode source = some src →
        (src = s.tp.source →
          exec (.configTeleprotection p source delay) s = .next (State.answered
            { s with tp := { s.tp with delay := min 1000 delay } } p .ok (.tpConfig src (min 1000 delay))))
        ∧ (src ≠ s.tp.source →
          ∀ level, level = (decide (src = .localLoop) && s.roleActive .carrierSend) →
            exec (.configTeleprotection p source delay) s = .next (State.answered
              { s with
                actions := { s.actions with
                  entries := s.actions.entries.filter fun a => decide (a.work.group ≠ .tpEdge) }
                tp := { s.tp with
                  source := src, delay := min 1000 delay, lastReceived := level, applied := level
                  resync := false } }
              p .ok (.tpConfig src (min 1000 delay)))))

/-- The level that SET_OUTPUT's masks give an output: 1 if set, 0 if cleared, else as it was. -/
def MaskedLevel (setMask clearMask : Nat) (s : State) (n : Fin 4) : Bool :=
  if setMask.testBit n.val then true else if clearMask.testBit n.val then false else s.outputs[n].level

/-- SET_OUTPUT (R82, R86): masks, then the roles of the outputs named; each named output takes its level in
index order, a change within a shot is recorded with the port as its source, and the response shows all
four levels. -/
def SetOutputDrivesManualOutputs : Prop :=
  ∀ (p : Port) (setMask clearMask : Nat) (s : State), s.excluded p = false →
    ((16 ≤ setMask ∨ 16 ≤ clearMask ∨ setMask &&& clearMask ≠ 0) →
      exec (.setOutput p setMask clearMask) s = .next (s.answered p .range (.param .masks)))
    ∧ (setMask < 16 → clearMask < 16 → setMask &&& clearMask = 0 →
        (∀ n : Fin 4, (setMask ||| clearMask).testBit n.val = true → s.outputs[n].role ≠ .manual →
          (∀ k : Fin 4, k < n → (setMask ||| clearMask).testBit k.val = true → s.outputs[k].role = .manual) →
          exec (.setOutput p setMask clearMask) s = .next (s.answered p .conflict (.conflictOutput n)))
        ∧ ((∀ n : Fin 4, (setMask ||| clearMask).testBit n.val = true → s.outputs[n].role = .manual) →
            ∃ t, exec (.setOutput p setMask clearMask) s = .next t
              ∧ t = { (s.takeFrame p) with
                  outputs := t.outputs, log := t.log, drains := t.drains, ports := t.ports }
              ∧ (∀ n : Fin 4, t.outputs[n]
                  = { s.outputs[n] with level := MaskedLevel setMask clearMask s n })
              ∧ (t.ports.get p).response
                  = { status := .ok
                      data := .levels (MaskedLevel setMask clearMask s 0) (MaskedLevel setMask clearMask s 1)
                        (MaskedLevel setMask clearMask s 2) (MaskedLevel setMask clearMask s 3) }
              ∧ t.log = (List.finRange 4).foldl (fun l n =>
                  if s.shotActive && decide (MaskedLevel setMask clearMask s n ≠ s.outputs[n].level) then
                    l.offered (s.makeRecord (s.shotTime s.now)
                      (.outputChange n (MaskedLevel setMask clearMask s n) (Port.source p)))
                  else l) s.log))

/-- CONFIG_OUTPUT and SET_OUTPUT (R81, R82, R86). That OK of CONFIG_OUTPUT carries no data, that bit 0 of a mask
is BO1, that the records stand in the outputs' order, and which parameter a RANGE names, are the model's choices
(logs 38, 39, 41 and 46). -/
def Obligations.OutputsAreConfiguredAndDriven : Prop :=
  ConfigOutputSetsRoleAndLevel ∧ SetOutputDrivesManualOutputs

/-! ### ARM -/

/-- What the sequencer's start mode asks of the peer-linked flag (R23). -/
def FlagAllowed (m : StartMode) (linked : Bool) : Prop :=
  match m with
  | .immediate | .onCommand | .onInput .. => linked = false
  | .atTime _ => True
  | .peer => linked = true

/-- The ARM command with its parameters in order; flags coded 0 and 1. -/
def armCommand (p : Port) (i : Fin 32) (mode : Nat) (mask value : Mask) (startTime : AbsTime) (linked : Bool)
    (period : Nat) (opened : Bool) : Instr :=
  .arm p i mode mask value startTime (if linked then 1 else 0) period (if opened then 1 else 0)

/-- Check 4 of Table 2-3: the first parameter out of range is named, in the order of Table 2-3 (R23). -/
def ArmNamesTheFirstBadParameter : Prop :=
  ∀ (p : Port) (first mode : Nat) (mask value : Mask) (startTime : AbsTime) (peer period initial : Nat)
    (s : State), s.excluded p = false → s.seq.phase = .idle →
    ∀ c, c = Instr.arm p first mode mask value startTime peer period initial →
    (32 ≤ first → exec c s = .next (s.answered p .range (.param .firstState)))
    ∧ (first < 32 → 5 ≤ mode → exec c s = .next (s.answered p .range (.param .startMode)))
    ∧ (first < 32 → mode < 5 → (2 ≤ peer ∨ (peer = 1 ∧ mode < 3) ∨ (peer = 0 ∧ mode = 4)) →
        exec c s = .next (s.answered p .range (.param .peerLinked)))
    ∧ (first < 32 → (peer = 0 ∧ mode < 4 ∨ peer = 1 ∧ (mode = 3 ∨ mode = 4)) →
        ((period ≠ 0 ∧ (period < 50 ∨ 5000 < period)) →
          exec c s = .next (s.answered p .range (.param .guardPeriod)))
        ∧ ((period = 0 ∨ 50 ≤ period ∧ period ≤ 5000) → 2 ≤ initial →
          exec c s = .next (s.answered p .range (.param .initialPosition))))

/-- Check 9 of Table 2-3 (R27): an AT_TIME start lies after now, by 3,600 s at most, and by 200 ms at least
for a peer-linked shot. -/
def StartAcceptable (s : State) (m : StartMode) (linked : Bool) : Prop :=
  ∀ t, m = .atTime t →
    0 < s.aheadOf t ∧ s.aheadOf t ≤ 3600000000 ∧ (linked = true → 200000 ≤ s.aheadOf t)

/-- Checks 5 to 10 of Table 2-3. -/
def ArmConditions (s : State) (m : StartMode) (linked : Bool) : Prop :=
  s.guard.eStop = .released
    ∧ (s.drains.sequence.enabled = true ∨ s.drains.panel.enabled = true)
    ∧ s.log.records.length ≤ 1022
    ∧ (m.isTimed = true → s.time.lock = .locked)
    ∧ StartAcceptable s m linked
    ∧ (linked = true → s.peer.link = .up)

/-- Checks 5 to 11 of Table 2-3, in order: an ARM whose parameters are in range is refused with the status
of the first check that fails, and nothing changes (R19, R20, R23, R27). -/
def ArmRefusedByTheFirstFailedCheck : Prop :=
  ∀ (p : Port) (i : Fin 32) (mode : Nat) (mask value : Mask) (startTime : AbsTime) (linked : Bool)
    (period : Nat) (opened : Bool) (m : StartMode) (s : State),
    s.excluded p = false → s.seq.phase = .idle → (period = 0 ∨ 50 ≤ period ∧ period ≤ 5000) →
    StartMode.ofCode mask value ((startTime + 99) / 100 * 100 % daySpan) mode = some m →
    FlagAllowed m linked →
    ∀ c, c = armCommand p i mode mask value startTime linked period opened →
    (s.guard.eStop = .asserted → exec c s = .next (s.answered p .stopped .none))
    ∧ (s.guard.eStop = .released → s.drains.sequence.enabled = false → s.drains.panel.enabled = false →
        exec c s = .next (s.answered p .noDrain .none))
    ∧ (s.guard.eStop = .released → (s.drains.sequence.enabled = true ∨ s.drains.panel.enabled = true) →
        (1022 < s.log.records.length → exec c s = .next (s.answered p .logFull .none))
        ∧ (s.log.records.length ≤ 1022 →
            (m.isTimed = true → s.time.lock ≠ .locked → exec c s = .next (s.answered p .notLocked .none))
            ∧ ((m.isTimed = true → s.time.lock = .locked) →
                (¬ StartAcceptable s m linked →
                  exec c s = .next (s.answered p .range (.param .startTime)))
                ∧ (StartAcceptable s m linked → linked = true → s.peer.link ≠ .up →
                  exec c s = .next (s.answered p .peerDown .none)))))
    ∧ (ArmConditions s m linked → ∀ d, s.armWalk i = some d →
        exec c s = .next (s.answered p .undefinedTarget d))

/-- What the walk of ARM from a first state answers (R19, R20). -/
def ArmWalkAnswers : Prop :=
  ∀ (i : Fin 32) (s : State), WalkAnswers s.store.slots s.outputs [i] (s.armWalk i)

/-- An ARM that fails a check is refused by the first that fails, and changes nothing (Table 2-3, R19, R20). That
the peer-linked flag is coded 0 and 1 and that of several bad parameters the first listed is named are the model's
choices (logs 39 and 46), and that a start time's distance is the shorter way round the day span is DEDUCED
(log 35). -/
def Obligations.ArmIsRefusedInTheOrderOfItsChecks : Prop :=
  ArmNamesTheFirstBadParameter ∧ ArmRefusedByTheFirstFailedCheck ∧ ArmWalkAnswers

/-- A pole at ARM's initial position (R100). -/
def InitialPole (opened : Bool) : PoleState :=
  if opened then { position := .opened, interruption := .complete, start := none, openSignal := true }
  else { position := .closed, interruption := .none, start := none, openSignal := false }

/-- ARM takes effect (R24, R25, R26, R49, R55, R70, R100, R114, R115, R136, R142, R146, R147, R163): the
sequencer of a new shot, SHOT_START and the reserved slot, the initial position, the loaded channels, and
the start fixed for IMMEDIATE and for an ON_INPUT match true already. Nothing else changes. That the boundary
of the instant of ARM itself, its choice not yet taken, is the first boundary after it is DEDUCED (log 4). The
codes of the flags and the items of a ramp context of state NONE are the model's choices (logs 39 and 31), and
that a rounded start time wraps at the end of the day span is DEDUCED (log 35). -/
def Obligations.ArmMakesAShot : Prop :=
  ∀ (p : Port) (i : Fin 32) (mode : Nat) (mask value : Mask) (startTime : AbsTime) (linked : Bool)
    (period : Nat) (opened : Bool) (m : StartMode) (r : StateRecord) (s : State),
    s.excluded p = false → s.seq.phase = .idle → (period = 0 ∨ 50 ≤ period ∧ period ≤ 5000) →
    StartMode.ofCode mask value ((startTime + 99) / 100 * 100 % daySpan) mode = some m →
    FlagAllowed m linked → ArmConditions s m linked → s.armWalk i = none →
    s.store.slots[i].active = some r →
    s.log.reservation = 0 →
    ∃ t, exec (armCommand p i mode mask value startTime linked period opened) s = .next t
      ∧ t = { (s.takeFrame p) with
          seq := t.seq, synth := t.synth, amp := t.amp, outputs := t.outputs, breaker := t.breaker
          assess := t.assess, log := t.log, drains := t.drains, time := t.time, actions := t.actions
          peer := t.peer, guard := t.guard, ports := t.ports }
      ∧ (∃ n, n = (if s.seq.shotNumber ≥ 255 then 1 else s.seq.shotNumber + 1)
          ∧ t.seq = { Sequencer.powerOn with
              phase := .armed, shotNumber := n, armingPort := some p, mode := some m
              peerLinked := linked, firstState := some i, startTime := m.startTime
              startBoundary := t.seq.startBoundary }
          ∧ (t.ports.get p).response = { status := .ok, data := .shotNumber n })
      ∧ t.seq.startBoundary
          = (match m with
             | .immediate => some s.nextBoundary
             | .onInput mask value =>
                 if t.signals &&& mask = value &&& mask then some s.nextBoundary else none
             | _ => none)
      ∧ t.time = { s.time with
          quality := .good, degraded := false, armedLocked := decide (s.time.lock = .locked) }
      ∧ t.guard = { s.guard with period := period, expiry := none, latches := FaultLatches.allClear }
      ∧ t.peer = { s.peer with
          agreement := (match m with
                        | .atTime _ => if linked then .proposing else .none
                        | .peer => .waiting
                        | _ => .none)
          lastReject := none, farState := none, farEnded := none, lateDrops := 0
          sent := (match m with
                   | .atTime u => if linked then s.peer.sent ++ [.startPropose u] else s.peer.sent
                   | _ => s.peer.sent) }
      ∧ t.breaker = { s.breaker with poles := t.breaker.poles }
      ∧ (∀ q : Pole, t.breaker.poles.get q
          = if s.breaker.enabled then InitialPole opened else s.breaker.poles.get q)
      ∧ t.actions = { s.actions with entries :=
          if s.breaker.enabled then s.actions.entries.filter fun a => !a.work.isPole
          else s.actions.entries }
      ∧ (∀ n : Fin 4, t.outputs[n].role = s.outputs[n].role
          ∧ t.outputs[n].level
            = match s.outputs[n].role, s.breaker.enabled with
              | .aux52A, true => !opened
              | .aux52B, true => opened
              | _, _ => s.outputs[n].level)
      ∧ (s.assess = none → t.assess = none)
      ∧ t.synth.ramp = RampContext.powerOn
      ∧ (∀ c : Channel, ∀ e cfg, e = r.channels.get c → cfg = s.store.config.get c →
          t.synth.channels.get c = { s.synth.channels.get c with
            acc := 0, amplitude := e.amplitude, phase := e.phase, frequency := e.frequency
            peak := peakCode e.amplitude cfg.range cfg.trim, increment := incrementOf e.frequency
            phaseOffset := angleCode e.phase, offset := 0, last := 0, silencing := .conducting
            link := e.link.resolve cfg, clip := false, clipRecorded := false, resuming := false })
      ∧ t.amp.frame = s.amp.frame
      ∧ (∀ c : Channel, t.amp.channels.get c = { s.amp.channels.get c with overload := 0, missing := 0 })
      ∧ t.log.reservation = 1 ∧ t.log.freed = s.log.freed ∧ t.log.verdicts = VerdictCounts.zero
      ∧ (∃ changes, t.log.records = s.log.records
            ++ { shot := t.seq.shotNumber, time := 0, degraded := false
                 body := .shotStart p m s.time.lock m.startTime } :: changes
          ∧ (∀ x ∈ changes, ∃ n level, x =
              { shot := t.seq.shotNumber, time := 0, degraded := false, body := .outputChange n level .breaker })
          ∧ t.log.lost + changes.length ≤ 4
          ∧ (s.breaker.enabled = false → changes = [] ∧ t.log.lost = 0))

/-! ### START, ABORT, ADJUST -/

/-- START (R25): taken once, in ARMED with mode ON_COMMAND, it fixes the first entry for the next boundary;
at any other time it is answered BUSY. Nothing else changes. -/
def StartFixesTheFirstEntry : Prop :=
  ∀ (p : Port) (s : State), s.excluded p = false →
    (s.seq.phase = .armed → s.seq.mode = some .onCommand → s.seq.startBoundary = none →
      exec (.start p) s = .next (State.answered
        { s with seq := { s.seq with startBoundary := some s.nextBoundary } } p .ok .none))
    ∧ ((s.seq.phase ≠ .armed ∨ s.seq.mode ≠ some .onCommand ∨ s.seq.startBoundary ≠ none) →
      exec (.start p) s = .next (s.answered p .busy .none))

/-- What the entry to CLOSING leaves (R44, R66, R85, R97, R141, R153, R164): `s` is the state before the
event that makes it. -/
def ClosingEntered (s t : State) : Prop :=
  t.seq.phase = .closing ∧ t.seq.closingAt = some s.now ∧ t.seq.visit = none
  ∧ t.seq.startBoundary = none ∧ t.seq.chosen = none ∧ t.seq.deferring = false ∧ t.seq.softEnd = none
  ∧ t.seq.rampDownAt = none ∧ t.seq.endAtExit = false
  ∧ t.guard.expiry = none ∧ t.guard.period = s.guard.period
  ∧ (∀ c : Channel, t.synth.channels.get c = { s.synth.channels.get c with
      offset := 0, last := 0
      silencing := if (s.synth.channels.get c).silencing = .interrupting then .silenced
                   else (s.synth.channels.get c).silencing })
  ∧ (∀ q : Pole, t.breaker.poles.get q = { s.breaker.poles.get q with
      interruption := if (s.breaker.poles.get q).interruption = .inProgress then .complete
                      else (s.breaker.poles.get q).interruption })
  ∧ (∀ a ∈ t.actions.entries, a ∈ s.actions.entries ∧ a.work.isPole = true)
  ∧ (∀ a ∈ s.actions.entries, a.work.isPole = true → a.owner = none → a ∈ t.actions.entries)
  ∧ t.tp = { s.tp with applied := s.tp.lastReceived, receive := false, resync := false }
  ∧ (∀ n : Fin 4, t.outputs[n].role = s.outputs[n].role
      ∧ (s.outputs[n].role = .stateDriven → t.outputs[n].level = false)
      ∧ (s.outputs[n].role = .tpReceive → s.tp.receive = true → t.outputs[n].level = false)
      ∧ (s.outputs[n].role ≠ .stateDriven → s.outputs[n].role ≠ .tpReceive → t.outputs[n] = s.outputs[n]))

/-- A record written now, unless no unreserved slot is free for it, stands in the log directly after the
records held (R111). -/
def RecordFirst (s t : State) (time : Nat) (b : RecordBody) : Prop :=
  1 ≤ s.log.unreserved → ∃ more, t.log.records = s.log.records ++ s.makeRecord time b :: more

/-- The frames sent once an abort cause has been taken as the end cause: with the link UP a peer-linked shot sends
ABORT, but not for PEER_ABORT and PEER_LOST (R148). -/
def SentWithAbort (s : State) (c : AbortCause) : List PeerFrame :=
  if s.seq.peerLinked = true ∧ c ≠ .peerAbort ∧ c ≠ .peerLost ∧ s.peer.link = .up
  then s.peer.sent ++ [.abort c] else s.peer.sent

/-- The number of assessments of the visit. -/
def CaptureCount (s : State) : Nat := (s.assess.map fun ctx : AssessContext => ctx.captures.length).getD 0

/-- What the end of the visit has left in the log, `first` being the records of the event before it: its verdicts
are counted and, with slots free, its ASSESSMENT and NO_PICKUP records stand next, before every other record of
the event (R29, R64, R107, R108, R115); State.endVisit gives both, as VisitsEndWithVerdicts says. -/
def VisitEndLogged (s t : State) (byAbort : Bool) (first : List LogRecord) : Prop :=
  t.log.verdicts = (s.endVisit byAbort).log.verdicts
  ∧ (first.length + CaptureCount s + 1 ≤ s.log.unreserved →
      ∃ own more, (s.endVisit byAbort).log.records = s.log.records ++ own
        ∧ t.log.records = s.log.records ++ first ++ own ++ more)

/-- An abort cause taken as the end cause in ARMED (R39, R44, R146, R148). -/
def AbortedInArmed (s t : State) (c : AbortCause) : Prop :=
  ClosingEntered s t
  ∧ t.seq.endCause = some (.abort c) ∧ t.seq.secondary = s.seq.secondary
  ∧ t.peer = { s.peer with agreement := .none, sent := SentWithAbort s c }
  ∧ RecordFirst s t (s.shotTime s.now) (.abort c false) ∧ t.log.verdicts = s.log.verdicts

/-- The state in which a soft abort, taken as the end cause in RUNNING, waits for its boundary (R37, R43,
R148): the visit goes on until then. -/
def SoftAbortTaken (s t : State) (c : AbortCause) : Prop :=
  t.seq = { s.seq with
      endCause := some (.abort c), endAtExit := false
      softEnd := some (s.seq.softEnd.getD s.nextBoundary) }
  ∧ t.peer = { s.peer with sent := SentWithAbort s c }
  ∧ t.log = s.log.offered (s.makeRecord (s.shotTime s.now) (.abort c false))

/-- An abort cause taken after the end cause, the phase as it was (R40, R43): the first is the secondary cause and is
recorded; a later one is neither stored nor recorded; each drops a pending AT_STATE_END. -/
def SecondaryTaken (s t : State) (c : AbortCause) : Prop :=
  (s.seq.secondary = none →
    t.seq = { s.seq with secondary := some c, endAtExit := false }
    ∧ t.log = s.log.offered (s.makeRecord (s.shotTime s.now) (.abort c false)))
  ∧ (s.seq.secondary ≠ none →
    t.seq = { s.seq with endAtExit := false } ∧ t.log = s.log ∧ t.drains = s.drains)

/-- ABORT by phase (R42, R43, Table 2-5). That a plain ABORT which finds a soft abort waiting for its boundary is
the secondary cause, and leaves that boundary, is DEDUCED (log 12). -/
def AbortActsByPhase : Prop :=
  ∀ (p : Port) (option : Nat) (s : State),
    (1 < option → exec (.abort p option) s = .next (s.answered p .range (.param .option)))
    ∧ (option ≤ 1 →
        (s.seq.phase = .idle → exec (.abort p option) s = .next (s.answered p .ok (.flag .noShot)))
        ∧ (s.seq.phase = .closing → exec (.abort p option) s = .next (s.answered p .ok (.flag .alreadyEnding)))
        ∧ (s.seq.phase = .armed → s.seq.visit = none →
            ∃ t, exec (.abort p option) s = .next t ∧ AbortedInArmed s t .aborted
              ∧ (t.ports.get p).response = { status := .ok, data := .flag .none }
              ∧ t.store = s.store ∧ t.edit = s.edit ∧ t.amp = s.amp ∧ t.inputs = s.inputs
              ∧ t.time = s.time ∧ t.pending = s.pending)
        ∧ (s.seq.phase = .rampingDown →
            (s.seq.secondary ≠ none →
              exec (.abort p option) s = .next (State.answered
                { s with seq := { s.seq with endAtExit := false } } p .ok (.flag .alreadyEnding)))
            ∧ (s.seq.secondary = none →
              ∃ t, exec (.abort p option) s = .next t
                ∧ t = { (s.takeFrame p) with
                    seq := { s.seq with secondary := some .aborted, endAtExit := false }
                    log := s.log.offered (s.makeRecord (s.shotTime s.now) (.abort .aborted false))
                    drains := t.drains, ports := t.ports }
                ∧ (t.ports.get p).response = { status := .ok, data := .flag .alreadyEnding })))
    ∧ (s.seq.phase = .running →
        (s.seq.endCause = none →
          ∃ t, exec (.abort p 0) s = .next t ∧ SoftAbortTaken s t .aborted
            ∧ t = { (s.takeFrame p) with
                seq := t.seq, log := t.log, drains := t.drains, peer := t.peer, ports := t.ports }
            ∧ (t.ports.get p).response = { status := .ok, data := .flag .none })
        ∧ (s.seq.endCause ≠ none → s.seq.softEnd ≠ none →
          ∃ t, exec (.abort p 0) s = .next t ∧ SecondaryTaken s t .aborted
            ∧ t = { (s.takeFrame p) with seq := t.seq, log := t.log, drains := t.drains, ports := t.ports }
            ∧ (t.ports.get p).response = { status := .ok, data := .flag .none })
        ∧ (s.seq.endAtExit = true → exec (.abort p 1) s = .next (s.answered p .ok (.flag .none)))
        ∧ (s.seq.endAtExit = false →
          ∃ t, exec (.abort p 1) s = .next t
            ∧ t = { (s.takeFrame p) with
                seq := { s.seq with
                  endAtExit := true, deferring := false
                  chosen := s.seq.chosen.map fun ch => Chosen.toEnd ch s.nextBoundary }
                log := s.log.offered (s.makeRecord (s.shotTime s.now) (.abort .aborted true))
                drains := t.drains, ports := t.ports }
            ∧ (t.ports.get p).response = { status := .ok, data := .flag .none }))

/-- START and ABORT, by the phase (R25, R42, R43). That OK of START carries no data and the codes of AT_STATE_END
are the model's choices (logs 38 and 39); that a boundary whose choice is open is the next one is DEDUCED
(log 4). -/
def Obligations.StartAndAbortActByPhase : Prop :=
  StartFixesTheFirstEntry ∧ AbortActsByPhase

/-- The channel that an ADJUST leaves (R60): the value limited or wrapped, its constant recomputed. For a
group with DELTA the result is formed from phase A (DEDUCED, log 16). -/
def AdjustedChannel (s : State) (t : Target) (q : Quantity) (delta : Bool) (v : Int) (c : Channel) :
    SynthChannel :=
  let ch := s.synth.channels.get c
  let lead := s.synth.channels.get t.lead
  let cfg := s.store.config.get c
  match q with
  | .amplitude =>
      let a := (max 0 (min (if delta then lead.amplitude + v else v) cfg.range)).toNat
      { ch with amplitude := a, peak := peakCode a cfg.range cfg.trim }
  | .frequency =>
      let f := (max 10000 (min (if delta then lead.frequency + v else v) 1000000)).toNat
      { ch with frequency := f, increment := incrementOf f }
  | .phase =>
      let a := wrapAngle (ch.phase + (if delta then v else v - lead.phase))
      { ch with phase := a, phaseOffset := angleCode a }

/-- ADJUST (R59, R60): BUSY outside RUNNING; codes in order; CONFLICT on the ramp of the visit; otherwise the
targeted channels' working sets change, an ADJUST record is offered, and nothing else changes. That CONFLICT
carries no data and that of several bad codes the first listed is named are the model's choices (logs 38 and
46). -/
def Obligations.AdjustChangesTheWorkingSet : Prop :=
  ∀ (p : Port) (target quantity mode : Nat) (v : Int) (s : State), s.excluded p = false →
    ∀ c, c = Instr.adjust p target quantity mode v →
    (s.seq.phase ≠ .running → exec c s = .next (s.answered p .busy .none))
    ∧ (s.seq.phase = .running →
        (8 < target → exec c s = .next (s.answered p .range (.param .target)))
        ∧ (target ≤ 8 → 2 < quantity → exec c s = .next (s.answered p .range (.param .quantity)))
        ∧ (target ≤ 8 → quantity ≤ 2 → 1 < mode → exec c s = .next (s.answered p .range (.param .mode)))
        ∧ (∀ tg q, Target.ofCode target = some tg → Quantity.ofCode quantity = some q → mode ≤ 1 →
            ((∃ vis rmp, s.seq.visit = some vis ∧ vis.record.ramp = some rmp ∧ rmp.quantity = q
                ∧ ∃ ch, tg.covers ch = true ∧ rmp.target.covers ch = true) →
              exec c s = .next (s.answered p .conflict .none))
            ∧ ((∀ vis rmp, s.seq.visit = some vis → vis.record.ramp = some rmp →
                rmp.quantity = q → ∀ ch, tg.covers ch = true → rmp.target.covers ch = false) →
              ∃ t, exec c s = .next t
                ∧ t = { (s.takeFrame p) with
                    synth := { s.synth with channels := t.synth.channels }
                    log := t.log, drains := t.drains, ports := t.ports }
                ∧ (∀ ch, t.synth.channels.get ch
                    = if tg.covers ch then AdjustedChannel s tg q (decide (mode = 1)) v ch
                      else s.synth.channels.get ch)
                ∧ t.log = s.log.offered (s.makeRecord (s.shotTime s.now)
                    (.adjust tg q ((t.synth.channels.get tg.lead).quantity q) p))
                ∧ (t.ports.get p).response
                    = { status := .ok
                        data := .working (tg.channels.map fun ch =>
                          { channel := ch, amplitude := (t.synth.channels.get ch).amplitude
                            phase := (t.synth.channels.get ch).phase
                            frequency := (t.synth.channels.get ch).frequency }) })))

/-! ### Drain channels -/

/-- DRAIN_ENABLE (R126, R127). OFF drops the channel's pages and positions, keeps its page count, and the log
frees what the other channel has consumed, or everything where no channel remains; it is refused with
NO_DRAIN for the last enabled channel within a shot. ON starts from the oldest record held and copies up to
two pages. A command that changes nothing is answered OK. That the pages dropped have the number 0 and that OK
carries no data are the model's choices (logs 32 and 38). -/
def Obligations.DrainEnableSwitchesAChannel : Prop :=
  ∀ (p : Port) (s : State) (d : Drain), d = s.drains.get p →
    (∀ sel, 1 < sel → exec (.drainEnable p sel) s = .next (s.answered p .range (.param .selector)))
    ∧ (d.enabled = true → exec (.drainEnable p 0) s = .next (s.answered p .ok .none))
    ∧ (d.enabled = false → exec (.drainEnable p 1) s = .next (s.answered p .ok .none))
    ∧ (d.enabled = true → (s.drains.get p.other).enabled = false → s.seq.phase ≠ .idle →
        exec (.drainEnable p 1) s = .next (s.answered p .noDrain .none))
    ∧ (d.enabled = true → ((s.drains.get p.other).enabled = true ∨ s.seq.phase = .idle) →
        exec (.drainEnable p 1) s = .next (State.answered
          { s with
            drains := s.drains.set p { Drain.powerOn with
              enabled := false, copyPos := none, consumedPos := none, count := d.count }
            log := s.log.freeTo
              ((s.drains.get p.other).consumedPos.getD (s.log.freed + s.log.records.length)) }
          p .ok .none))
    ∧ (d.enabled = false →
        ∃ t k, exec (.drainEnable p 0) s = .next t
          ∧ t = { (s.takeFrame p) with drains := t.drains, ports := t.ports }
          ∧ (t.ports.get p).response = { status := .ok, data := .none }
          ∧ t.drains.get p.other = s.drains.get p.other
          ∧ (t.drains.get p).enabled = true
          ∧ (t.drains.get p).consumedPos = some s.log.freed
          ∧ (t.drains.get p).copyPos = some (s.log.freed + k)
          ∧ k ≤ s.log.records.length
          ∧ (t.drains.get p).x.records ++ (t.drains.get p).y.records = s.log.records.take k
          ∧ (k = s.log.records.length
              ∨ ((t.drains.get p).page (t.drains.get p).toggle).owner = .port))

/-- READ_PAGE (R123): page code, first index, ownership; the header and at most eight records from the first
index; it changes nothing. -/
def ReadPageAnswersRecords : Prop :=
  ∀ (p : Port) (s : State) (d : Drain), d = s.drains.get p →
    WrongLengthRefused p 0x15#8 2
    ∧ (∀ page first, 1 < page → exec (.readPage p page first) s = .next (s.answered p .range (.param .page)))
    ∧ (∀ page n first, PageName.ofCode page = some n →
        (15 < first → exec (.readPage p page first) s = .next (s.answered p .range (.param .first)))
        ∧ (first ≤ 15 → (d.enabled = false ∨ (d.page n).owner = .part) →
            exec (.readPage p page first) s = .next (s.answered p .notReady .none))
        ∧ (first ≤ 15 → d.enabled = true → (d.page n).owner = .port →
            exec (.readPage p page first) s = .next (s.answered p .ok
              (.page n (d.page n).number (d.page n).cause (d.page n).records.length
                (((d.page n).records.drop first).take 8)))))

/-- RELEASE_PAGE (R124, R125): NOT_OWNER for a page the port does not own, and, naming the older page, for
the younger of two. A release consumes the page's records, the log frees what every enabled channel has
consumed, and the page is returned empty; the other channel keeps its own. That a returned page keeps its
number and that OK carries no data are the model's choices (logs 32 and 38). -/
def ReleasePageConsumesRecords : Prop :=
  ∀ (p : Port) (s : State) (d : Drain), d = s.drains.get p →
    (∀ page, 1 < page → exec (.releasePage p page) s = .next (s.answered p .range (.param .page)))
    ∧ (∀ page n, PageName.ofCode page = some n →
        ((d.enabled = false ∨ (d.page n).owner = .part) →
          exec (.releasePage p page) s = .next (s.answered p .notOwner .none))
        ∧ (d.enabled = true → (d.page n).owner = .port → (d.page n.other).owner = .port → n ≠ d.toggle →
          exec (.releasePage p page) s = .next (s.answered p .notOwner (.olderPage d.toggle)))
        ∧ (∀ consumed, d.enabled = true → (d.page n).owner = .port →
            (n = d.toggle ∨ (d.page n.other).owner = .part) → d.consumedPos = some consumed →
            ∃ t, exec (.releasePage p page) s = .next t
              ∧ t = { (s.takeFrame p) with
                  log := s.log.freeTo
                    (match (s.drains.get p.other).consumedPos with
                     | some other => min (consumed + (d.page n).records.length) other
                     | none => consumed + (d.page n).records.length)
                  drains := t.drains, ports := t.ports }
              ∧ (t.ports.get p).response = { status := .ok, data := .none }
              ∧ t.drains.get p.other = s.drains.get p.other
              ∧ (t.drains.get p).consumedPos = some (consumed + (d.page n).records.length)
              ∧ (s.log.awaiting d = [] →
                  (t.drains.get p).page n
                    = { owner := .part, records := [], number := (d.page n).number, cause := none }
                  ∧ (t.drains.get p).page n.other = d.page n.other
                  ∧ (t.drains.get p).copyPos = d.copyPos ∧ (t.drains.get p).toggle = d.toggle)))

/-- A release of the older of two handed pages, with records awaiting, resumes copying into it (R120, R121,
R124): the records that wait are copied in their order, up to the sixteenth or to a SHOT_END, which hands the
page over again under the next page number; with fewer waiting the page keeps filling, its flush timer
running. -/
def ReleaseResumesCopying : Prop :=
  ∀ (p : Port) (s : State) (d : Drain) (page consumed copy : Nat) (w : List LogRecord),
    d = s.drains.get p → s.DrainsConsistent → d.enabled = true → d.x.owner = .port → d.y.owner = .port →
    PageName.ofCode page = some d.toggle → d.consumedPos = some consumed → d.copyPos = some copy →
    s.log.records.drop (copy - s.log.freed) = w →
    ∃ t, exec (.releasePage p page) s = .next t
      ∧ (w.length < 16 → (∀ r ∈ w, r.body.isShotEnd = false) →
          t.drains.get p
            = { d.setPage d.toggle { owner := .part, records := w, number := (d.page d.toggle).number
                                     cause := none } with
                copyPos := some (copy + w.length)
                consumedPos := some (consumed + (d.page d.toggle).records.length)
                flush := if w = [] then none else some (s.now + 20000) })
      ∧ (∀ k r cause, k < 16 → (∀ x ∈ w.take k, RecordBody.isShotEnd x.body = false) → w[k]? = some r →
          (r.body.isShotEnd = true ∧ cause = .shotEnd
            ∨ r.body.isShotEnd = false ∧ k = 15 ∧ cause = .pageFull) →
          t.drains.get p
            = { d.setPage d.toggle { owner := .port, records := w.take (k + 1), number := (d.count + 1) % 65536
                                     cause := some cause } with
                copyPos := some (copy + (k + 1))
                consumedPos := some (consumed + (d.page d.toggle).records.length)
                flush := none, count := (d.count + 1) % 65536, toggle := d.toggle.other }
          ∧ (t.ports.get p).requests &&& NotifyCause.pageReady.bit = NotifyCause.pageReady.bit)

/-- READ_PAGE and RELEASE_PAGE (R120, R121, R123 to R125). That a page returned keeps its number, that OK of
RELEASE_PAGE carries no data, and that of a bad page and a bad first index the page is named, are the model's
choices (logs 32, 38 and 46). -/
def Obligations.PagesAreReadAndReleased : Prop :=
  ReadPageAnswersRecords ∧ ReleasePageConsumesRecords ∧ ReleaseResumesCopying

/-- FLUSH_TIMER_EXPIRY (R120, R121): at its expiry the page being filled is handed over with cause FLUSH and
the next page number, the toggle flips, the timer stops and PAGE_READY is raised for the channel's own port.
A page being filled leaves no record waiting. Before its expiry nothing happens (log 2). -/
def Obligations.FlushHandsOverThePage : Prop :=
  ∀ (p : Port) (s : State) (d : Drain), d = s.drains.get p →
    ((∀ e, d.flush = some e → s.now < e) → exec (.flushTimerExpiry p) s = .next s)
    ∧ (∀ e, d.flush = some e → e ≤ s.now → s.log.awaiting d = [] →
        exec (.flushTimerExpiry p) s = .next { s with
          drains := s.drains.set p
            ({ d.setPage d.toggle { d.page d.toggle with
                  owner := .port, number := (d.count + 1) % 65536, cause := some .flush } with
                count := (d.count + 1) % 65536, flush := none, toggle := d.toggle.other })
          ports := s.ports.set p { s.ports.get p with
            requests := (s.ports.get p).requests ||| NotifyCause.pageReady.bit
            repeated := (s.ports.get p).repeated
              ||| ((s.ports.get p).requests &&& NotifyCause.pageReady.bit) } })

/-! ### The log -/

/-- A record other than SHOT_END is written while an unreserved slot is free, after the newest; otherwise it is
lost and counted, and a full count sets the flag instead (R111; that the loss which fills the count does not set it is
a DESIGN CHOICE, log 50). SHOT_END finds its reserved slot (R114).
Nothing changes but the log, the drain channels and the ports. -/
def LogTakesOrLoses : Prop :=
  ∀ (time : Nat) (b : RecordBody) (s : State),
    (s.offer time b).log = s.log.offered (s.makeRecord time b)
    ∧ (∀ r, s.log.records.length + s.log.reservation < 1024 →
        s.log.offered r = { s.log with records := s.log.records ++ [r] })
    ∧ (∀ r, 1024 ≤ s.log.records.length + s.log.reservation →
        s.log.offered r = if s.log.lost < 4294967295 then { s.log with lost := s.log.lost + 1 }
                          else { s.log with saturated := true })
    ∧ (s.writeShotEnd time b).log
        = { s.log with records := s.log.records ++ [s.makeRecord time b], reservation := 0 }
    ∧ s.offer time b = { s with
        log := (s.offer time b).log, drains := (s.offer time b).drains, ports := (s.offer time b).ports }

/-- What a channel, `d`, makes of a record `r` that is written (R120, R121): disabled, or with the page of its
toggle owned by the port, it stays as it is, and the record awaits it behind those that do already; else, with no
other awaiting it, the record goes into that page, the copy position advances and the first record of a page
starts the flush timer; the sixteenth record hands the page over with cause PAGE_FULL, and a SHOT_END with cause
SHOT_END, each under the next page number. -/
def RecordCopied (s : State) (r : LogRecord) (d e : Drain) : Prop :=
  ∀ pg, pg = d.page d.toggle →
    ((d.enabled = false ∨ pg.owner = .port) → e = d)
    ∧ (d.enabled = true → pg.owner = .part → d.copyPos = some (s.log.freed + s.log.records.length) →
        (r.body.isShotEnd = false → pg.records.length < 15 →
          e = { d.setPage d.toggle { pg with records := pg.records ++ [r] } with
                copyPos := some (s.log.freed + s.log.records.length + 1)
                flush := if pg.records = [] then some (s.now + 20000) else d.flush })
        ∧ (∀ cause, (r.body.isShotEnd = true ∧ pg.records.length < 16 ∧ cause = .shotEnd
              ∨ r.body.isShotEnd = false ∧ pg.records.length = 15 ∧ cause = .pageFull) →
          e = { d.setPage d.toggle { owner := .port, records := pg.records ++ [r]
                                     number := (d.count + 1) % 65536, cause := some cause } with
                copyPos := some (s.log.freed + s.log.records.length + 1), flush := none
                count := (d.count + 1) % 65536, toggle := d.toggle.other }))

/-- PAGE_READY is raised for a port when its channel hands over a page, and not otherwise (R121). -/
def PageReadyRaised (s t : State) : Prop :=
  ∀ p, (t.ports.get p).requests
    = if (t.drains.get p).count = (s.drains.get p).count then (s.ports.get p).requests
      else (s.ports.get p).requests ||| NotifyCause.pageReady.bit

/-- Both channels copy a record at its write, by the rules of a record offered, of SHOT_END, and of two events
that write one: a state output action and the end of CLOSING (R111, R116, R120, R121). A record that is lost
is not copied. -/
def RecordsAreCopied : Prop :=
  ∀ (s : State),
    (∀ time b, b.isShotEnd = false → 1 ≤ s.log.unreserved →
      ((∀ p : Port, s.log.awaiting (s.drains.get p) = []
          ∨ ((s.drains.get p).page (s.drains.get p).toggle).owner = .port) → PageReadyRaised s (s.offer time b))
      ∧ ∀ p, RecordCopied s (s.makeRecord time b) (s.drains.get p) ((s.offer time b).drains.get p))
    ∧ (∀ time b, s.log.unreserved = 0 →
        (s.offer time b).drains = s.drains ∧ (s.offer time b).ports = s.ports)
    ∧ (∀ time b p, b.isShotEnd = true →
        RecordCopied s (s.makeRecord time b) (s.drains.get p) ((s.writeShotEnd time b).drains.get p))
    ∧ (∀ a n level, s.dueAction = some a → a.work = .stateOutput n level →
        s.outputs[n].level ≠ level → s.seq.phase ≠ .idle → 1 ≤ s.log.unreserved →
        ∃ t, exec .stateOutputDue s = .next t
          ∧ ∀ p, RecordCopied s (s.makeRecord (s.shotTime s.now) (.outputChange n level .state))
              (s.drains.get p) (t.drains.get p))
    ∧ (∀ cause, s.lingerDue = true → s.seq.endCause = some cause →
        ∃ t r, exec .closingLingerEnd s = .next t ∧ t.log.records = s.log.records ++ [r]
          ∧ r.body.isShotEnd = true ∧ ∀ p, RecordCopied s r (s.drains.get p) (t.drains.get p))

/-- A record is written or counted as lost, and both channels copy one that is written. -/
def Obligations.RecordsAreWrittenOrCounted : Prop :=
  LogTakesOrLoses ∧ RecordsAreCopied

/-! ### SOFT_RESET -/

/-- The level that SOFT_RESET leaves an output, by its role (R80). -/
def ResetLevel (o : Output) : Bool :=
  match o.role with
  | .aux52A => true
  | .manual => o.level
  | _ => false

/-- SOFT_RESET (R174; R2, R22, R47, R48, R71, R80, R87, R103, R117, R119, R128, R138, R142, R155, R163, R168,
R171): every block takes its soft-reset values; active copies, configuration, authority, inputs, clock, link
and the other port's buffer are kept; a discarded peer-linked shot sends ABORT; the response flags a
discarded shot. That the amplifier frame sent last is kept until the next boundary is DEDUCED (log 34). That the
pages take number 0 and the items of a ramp context of state NONE are the model's choices (logs 32 and 31). -/
def Obligations.SoftResetTakesEffect : Prop :=
  ∀ (p : Port) (s : State), s.excluded p = false →
    ∃ t, exec (.softReset p) s = .next t
      ∧ t = { s with
          store := t.store, edit := { s.edit with hold := { sequence := false, panel := false } }
          seq := { Sequencer.powerOn with shotNumber := s.seq.shotNumber }
          synth := Synthesizer.powerOn s.store.config
          amp := { s.amp with channels := t.amp.channels }
          outputs := t.outputs
          breaker := { s.breaker with poles := { a := .powerOn, b := .powerOn, c := .powerOn } }
          assess := none, log := .empty, drains := t.drains
          time := { s.time with quality := .good, degraded := false, armedLocked := false }
          actions := { s.actions with entries := [] }
          peer := { s.peer with
            agreement := .none, lastReject := none, farState := none, farEnded := none
            sent := if s.seq.phase ≠ .idle ∧ s.seq.peerLinked = true ∧ s.peer.link = .up
                    then s.peer.sent ++ [.abort .aborted] else s.peer.sent }
          tp := { s.tp with applied := s.tp.lastReceived, receive := false, resync := false }
          guard := { s.guard with period := 0, expiry := none, latches := FaultLatches.allClear }
          ports := t.ports }
      ∧ t.store.config = s.store.config
      ∧ (∀ i : Fin 32, t.store.slots[i] = { s.store.slots[i] with staged := none })
      ∧ (∀ c : Channel, t.amp.channels.get c
          = { s.amp.channels.get c with status := .ok, overload := 0, missing := 0 })
      ∧ (∀ n : Fin 4, t.outputs[n] = { role := s.outputs[n].role, level := ResetLevel s.outputs[n] })
      ∧ (∀ q : Port, t.drains.get q
          = if (s.drains.get q).enabled then Drain.powerOn
            else { Drain.powerOn with enabled := false, copyPos := none, consumedPos := none })
      ∧ t.ports.get p = { s.ports.get p with
          requests := 0, repeated := 0
          response := { status := .ok
                        data := .flag (if s.seq.phase = .idle then .none else .shotDiscarded) } }
      ∧ t.ports.get p.other = { s.ports.get p.other with requests := 0, repeated := 0 }

/-! ### The Injection Guard -/

/-- A cause raised for a port: the request is set, and the repeated bit where it stood already (R171). -/
def Raised (s t : State) (c : NotifyCause) : Prop :=
  ∀ q, (t.ports.get q).requests &&& c.bit = c.bit
    ∧ ((s.ports.get q).requests &&& c.bit = c.bit → (t.ports.get q).repeated &&& c.bit = c.bit)

/-- What a hard abort does to the causes, the log and the far end, in each phase in which the guard hands it over
(R38 to R40, R107, R148): in ARMED and RUNNING it is the end cause, which a peer-linked shot reports, and after it
the secondary cause, if it is the first, be it in RAMPING_DOWN or in RUNNING with a soft abort waiting for its
boundary (the last DEDUCED, log 12). A visit that it ends gives ABORTED verdicts, recorded after the ABORT record
(DESIGN CHOICE, log 42). -/
def HardAbortTaken (s t : State) (c : AbortCause) : Prop :=
  ((s.seq.phase = .armed ∨ s.seq.phase = .running) → s.seq.endCause = none →
    t.seq.endCause = some (.abort c) ∧ t.seq.secondary = s.seq.secondary
    ∧ t.peer = { s.peer with
        agreement := if s.seq.phase = .armed then .none else s.peer.agreement
        sent := SentWithAbort s c }
    ∧ RecordFirst s t (s.shotTime s.now) (.abort c false)
    ∧ VisitEndLogged s t true [s.makeRecord (s.shotTime s.now) (.abort c false)])
  ∧ ((s.seq.phase = .rampingDown ∨ (s.seq.phase = .running ∧ s.seq.endCause ≠ none)) →
    t.seq.endCause = s.seq.endCause ∧ t.seq.secondary = some (s.seq.secondary.getD c) ∧ t.peer = s.peer
    ∧ (s.seq.secondary = none →
        RecordFirst s t (s.shotTime s.now) (.abort c false)
        ∧ VisitEndLogged s t true [s.makeRecord (s.shotTime s.now) (.abort c false)])
    ∧ (s.seq.secondary ≠ none → VisitEndLogged s t true []))
  ∧ (s.seq.phase = .running → s.seq.visit ≠ none → t.assess = none)

/-- A hard abort enters CLOSING at once (R38, R39, R44). -/
def HardAborted (s t : State) (c : AbortCause) : Prop := ClosingEntered s t ∧ HardAbortTaken s t c

/-- The E-STOP line (R166, R163): an assertion ends a shot in ARMED, RUNNING or RAMPING_DOWN with a hard abort
and raises GUARD_ABORT; in CLOSING and IDLE it changes only the level, and so does a release in every phase.
A line that stands ASSERTED does not change (log 2). -/
def EStopEndsTheShot : Prop :=
  ∀ s : State,
    exec .eStopReleased s = .next { s with guard := { s.guard with eStop := .released } }
    ∧ (s.guard.eStop = .asserted → exec .eStopAsserted s = .next s)
    ∧ (s.guard.eStop = .released → (s.seq.phase = .idle ∨ s.seq.phase = .closing) →
        exec .eStopAsserted s = .next { s with guard := { s.guard with eStop := .asserted } })
    ∧ (s.guard.eStop = .released →
        (s.seq.phase = .running ∨ s.seq.visit = none ∧ (s.seq.phase = .armed ∨ s.seq.phase = .rampingDown)) →
        ∃ t, exec .eStopAsserted s = .next t ∧ HardAborted s t .eStop ∧ Raised s t .guardAbort
          ∧ t.guard.eStop = .asserted ∧ t.guard.latches = s.guard.latches
          ∧ t.store = s.store ∧ t.edit = s.edit ∧ t.amp = s.amp ∧ t.inputs = s.inputs ∧ t.time = s.time
          ∧ t.pending = s.pending)

/-- KEEPALIVE_EXPIRY (R165): at its expiry the timer stops, and in RUNNING the shot takes a soft abort with
cause GUARD_EXPIRED and GUARD_ABORT is raised; with a soft abort waiting for its boundary the cause is the secondary
one, if it is the first (DEDUCED, log 12); before its expiry nothing happens (log 2). -/
def KeepaliveExpiryAborts : Prop :=
  ∀ s : State,
    ((∀ e, s.guard.expiry = some e → s.now < e) → exec .keepaliveExpiry s = .next s)
    ∧ (∀ e, s.guard.expiry = some e → e ≤ s.now → s.seq.phase = .running → s.seq.endCause = none →
        ∃ t, exec .keepaliveExpiry s = .next t
          ∧ SoftAbortTaken s t .guardExpired ∧ Raised s t .guardAbort
          ∧ t = { s with
              guard := { s.guard with expiry := none }
              seq := t.seq, log := t.log, drains := t.drains, peer := t.peer, ports := t.ports })
    ∧ (∀ e, s.guard.expiry = some e → e ≤ s.now → s.seq.phase = .running → s.seq.endCause ≠ none →
        s.seq.softEnd ≠ none →
        ∃ t, exec .keepaliveExpiry s = .next t
          ∧ SecondaryTaken s t .guardExpired ∧ Raised s t .guardAbort
          ∧ t = { s with
              guard := { s.guard with expiry := none }
              seq := t.seq, log := t.log, drains := t.drains, ports := t.ports })

/-- The E-STOP line and the keepalive timer (R163 to R166). That the ABORT record stands before the records of
the visit's end and of the outputs is the model's choice (logs 42 and 40). -/
def Obligations.GuardEndsTheShot : Prop :=
  EStopEndsTheShot ∧ KeepaliveExpiryAborts

/-! ### A change of the signal vector -/

/-- The list on which the conditions of a visit, taken in list order from the first, have each been
re-evaluated against the vector `signals` at a change with time `t` (R31). -/
def ListReevaluated (s : State) (v : Visit) (signals : Mask) (t : Nat) (l : TimedList) : TimedList :=
  v.conditions.zipIdx.foldl (fun m x =>
    (CondState.evaluate x.1 (Fin.ofNat 4 x.2) signals (max t v.entry) s.now s.nextBoundary s.seq.deferring v.entry
      m).2) l

/-- The conditions of a visit, each re-evaluated against the vector `signals` at a change with time `t`, which
counts as the entry where it lies before it (R31). -/
def ConditionsReevaluated (s : State) (v : Visit) (signals : Mask) (t : Nat) (l : TimedList) : List CondState :=
  v.conditions.zipIdx.map fun x =>
    (CondState.evaluate x.1 (Fin.ofNat 4 x.2) signals (max t v.entry) s.now s.nextBoundary s.seq.deferring v.entry
      l).1

/-- The CONDITION actions of a list, in its order. -/
def ConditionActions (l : TimedList) : List TimedAction :=
  l.entries.filter fun a => decide (a.work.group = .condition)

/-- Every exit condition of the visit follows the vector of `u` (R31): its truth, its candidacy and its action
are those that CondState.evaluate gives, on the list `l` that the change finds. -/
def VisitFollowsTheVector (s u : State) (l : TimedList) (t : Nat) : Prop :=
  (s.seq.visit = none → u.seq.visit = none ∧ ConditionActions u.actions = ConditionActions l)
  ∧ ∀ v, s.seq.visit = some v →
      u.seq.visit = some { v with conditions := ConditionsReevaluated s v u.signals t l }
      ∧ ConditionActions u.actions = ConditionActions (ListReevaluated s v u.signals t l)

/-- An ON_INPUT shot in ARMED whose masked signals come to match at a change of signal `n`, one of them, has
its first entry fixed for the next boundary; nothing else of the sequencer changes but the visit (R26). -/
def StartFollowsTheVector (s u : State) (n : Nat) : Prop :=
  u.seq = { s.seq with visit := u.seq.visit, startBoundary := u.seq.startBoundary }
  ∧ u.seq.startBoundary
    = match s.seq.phase, s.seq.mode, s.seq.startBoundary with
      | .armed, some (.onInput mask value), none =>
          if mask.getLsbD n = true ∧ u.signals &&& mask = value &&& mask then some s.nextBoundary else none
      | _, _, b => b

/-- The value of a ramp after `k` steps, held at its limit (R62). -/
def RampValueAfter (r : Ramp) (k : Nat) : Int :=
  if 0 < r.step then min (r.start + k * r.step) r.limit else max (r.start + k * r.step) r.limit

/-- Signal `n`, on becoming active, stops the ramp `r` of the visit `v` (R63). -/
def StopsTheRamp (s : State) (n : Nat) (active : Bool) (v : Visit) (r : Ramp) : Prop :=
  active = true ∧ s.seq.visit = some v ∧ s.synth.ramp.ramp = some r ∧ s.synth.ramp.entry = v.entry
  ∧ (s.synth.ramp.state = .stepping ∨ s.synth.ramp.state = .atLimit) ∧ r.stopMask.getLsbD n = true

/-- A ramp whose stop mask holds the signal is frozen at its activation, with a RAMP_RESULT of outcome PICKUP
and the value in force at the change time `t`, that of the last step boundary at or before it; any other ramp
is left (R63). -/
def RampFollowsTheVector (s u : State) (n : Nat) (active : Bool) (t : Nat) : Prop :=
  (∀ v r k, StopsTheRamp s n active v r → k = (max t v.entry - v.entry) / (r.dwell * 100) →
    u.synth.ramp = { s.synth.ramp with state := .frozen }
    ∧ (12 ≤ s.log.unreserved →
        s.makeRecord (s.shotTime (max t v.entry))
          (.rampResult v.state r.target r.quantity (some (RampValueAfter r k))) ∈ u.log.records))
  ∧ ((∀ v r, ¬ StopsTheRamp s n active v r) → u.synth.ramp = s.synth.ramp)

/-- A capture still open whose mask holds the signal takes the change time at its activation, on the shot
scale, or the entry where the change lies before it (R105). -/
def CapturesFollowTheVector (s u : State) (n : Nat) (active : Bool) (t : Nat) : Prop :=
  u.assess = s.assess.map fun ctx : AssessContext =>
    { ctx with captures := ctx.captures.map fun c : Capturing =>
        if active = true ∧ c.capture = .waiting ∧ c.assessment.mask.getLsbD n = true then
          { c with capture := .captured (max (s.shotTime t) ctx.entry) }
        else c }

/-- The consumers of the signal vector have taken a change of signal `n` to `active` with change time `t`,
between the states `s` and `u`, on the Timed Action List `l` that the change finds: the exit conditions, the
start on an input, the ramp and the captures (R26, R31, R63, R74, R105). -/
def ConsumersTake (s u : State) (l : TimedList) (n : Nat) (active : Bool) (t : Nat) : Prop :=
  VisitFollowsTheVector s u l t ∧ StartFollowsTheVector s u n ∧ RampFollowsTheVector s u n active t
  ∧ CapturesFollowTheVector s u n active t

/-- No consumer of the vector has taken a change. -/
def NothingDelivered (s u : State) : Prop :=
  u.seq = s.seq ∧ u.synth.ramp = s.synth.ramp ∧ u.assess = s.assess

/-- The receive level that an applied level gives: in RUNNING in a state that does not block it, 0 in every
other case (R153). -/
def ReceiveFor (s : State) (applied : Bool) : Bool :=
  match s.seq.phase, s.seq.visit with
  | .running, some v => applied && !v.record.tpBlocked
  | _, _ => false

/-- The TP_EVENT that an edge leaves in the log within a shot, with what its level changed already logged
(R152). -/
def TpEventLogged (s t : State) (k : TpEventKind) : Prop :=
  s.seq.phase ≠ .idle → 12 ≤ s.log.unreserved →
    s.makeRecord (s.shotTime s.now) (.tpEvent k) ∈ t.log.records

/-- A change of receive sets every output of role TP_RECEIVE, and each that changes writes OUTPUT_CHANGE with
source TELEPROTECTION within a shot; the other outputs stay (R86, R153). -/
def OutputsFollowReceive (s t : State) : Prop :=
  ∀ n : Fin 4,
    t.outputs[n] = (if s.outputs[n].role = .tpReceive ∧ t.tp.receive ≠ s.tp.receive
                    then { role := .tpReceive, level := t.tp.receive } else s.outputs[n])
    ∧ (t.outputs[n].level ≠ s.outputs[n].level → s.seq.phase ≠ .idle → 12 ≤ s.log.unreserved →
        s.makeRecord (s.shotTime s.now) (.outputChange n t.outputs[n].level .teleprotection) ∈ t.log.records)

/-- What an edge of the carrier to `level` leaves of the teleprotection path (R152, R153): `a` is how far its
event time plus the delay lies ahead. Not ahead, it is applied now and LATE, and the outputs follow receive;
else it is placed; with its group full it is DROPPED and a resync is pending. -/
def EdgeReceived (s t : State) (level : Bool) (a : Int) : Prop :=
  (a ≤ 0 → t.tp = { s.tp with lastReceived := level, applied := level, receive := ReceiveFor s level }
      ∧ OutputsFollowReceive s t ∧ TpEventLogged s t .late)
  ∧ (0 < a → s.actions.held .tpEdge < 13 →
      t.tp = { s.tp with lastReceived := level }
      ∧ ∃ e ∈ t.actions.entries, e.due = s.now + a.toNat ∧ e.work = .tpEdge level ∧ e.owner = none)
  ∧ (0 < a → 13 ≤ s.actions.held .tpEdge →
      t.tp = { s.tp with lastReceived := level, resync := true } ∧ TpEventLogged s t .dropped)

/-- An edge of the carrier taken from the source, with nothing else (R152, R153): a LATE edge that changes
receive delivers signal 15 with this instant as its change time; a placed one changes only the path and the
list, a DROPPED one only the path and the log. -/
def EdgeTaken (s t : State) (level : Bool) (a : Int) : Prop :=
  EdgeReceived s t level a
  ∧ (a ≤ 0 →
      t = { s with
        seq := t.seq, synth := t.synth, outputs := t.outputs, assess := t.assess, log := t.log
        drains := t.drains, actions := t.actions, peer := t.peer, tp := t.tp, ports := t.ports }
      ∧ (t.tp.receive ≠ s.tp.receive → ConsumersTake s t s.actions 15 t.tp.receive s.now)
      ∧ (t.tp.receive = s.tp.receive → NothingDelivered s t ∧ t.actions = s.actions))
  ∧ (0 < a → s.actions.held .tpEdge < 13 →
      t = { s with
        peer := t.peer, tp := { s.tp with lastReceived := level }
        actions := s.actions.place (s.now + a.toNat) (.tpEdge level) none })
  ∧ (0 < a → 13 ≤ s.actions.held .tpEdge →
      t = { s with
        peer := t.peer, tp := { s.tp with lastReceived := level, resync := true }
        log := t.log, drains := t.drains, ports := t.ports })

/-! ### Inputs -/

/-- An input after a sample (R71, R72). -/
def SampledInput (i : Input) (sampled pin : Bool) (now : Moment) : Input :=
  if sampled = false then { i with level := pin }
  else if pin = i.level then { i with candidate := none, count := 0, ready := false }
  else
    { i with
      candidate := some (i.candidate.getD now)
      count := if i.candidate = none then 1 else i.count + 1
      ready := decide (i.debounce + 1 ≤ if i.candidate = none then 1 else i.count + 1) }

/-- INPUT_SAMPLE (R71, R72): where a sample is due, at a counter value that is a multiple of 10, every input
is compared with its level: a run opens, with this instant as its start on both scales, counts, closes, or
reaches its debounce plus 1. The first sample sets the levels. That a run keeps the time of day of its first sample
whatever becomes of the clock (log 49), and that the command at other instants only says what stands at the pins
(log 2), are the model's choices. -/
def Obligations.InputSampleDebounces : Prop :=
  ∀ (pins : BitVec 12) (s : State),
    (s.sampleDue = false →
      exec (.inputSample pins) s = .next { s with inputs := { s.inputs with pins := pins } })
    ∧ (s.time.counter % 10 = 0 → s.time.inputsDone = false → (∀ n : Fin 12, s.inputs.inputs[n].ready = false) →
        ∃ t, exec (.inputSample pins) s = .next t
          ∧ t = { s with inputs := t.inputs, time := { s.time with inputsDone := true } }
          ∧ t.inputs.pins = pins ∧ t.inputs.sampled = true
          ∧ ∀ n : Fin 12, t.inputs.inputs[n]
              = SampledInput s.inputs.inputs[n] s.inputs.sampled (pins.getLsbD n)
                  { at_ := s.now, abs := s.timeOfDay })

/-- The poles that a trip role reaches (R89). -/
def ReachedBy (r : InputRole) (q : Pole) : Prop := r = .trip3P ∨ r = Pole.tripRole q

/-- The EVENT frame of an accepted change (R149): one in a peer-linked shot, with the shot flag; outside one
only where the change changed the CARRIER_SEND role state, which the carrier flag says; and none while the
link is not UP. -/
def EventSent (n : Fin 12) (level : Bool) (eventTime : AbsTime) (s u : State) : Prop :=
  ∀ carrier : Bool, carrier = decide (s.roleActive .carrierSend ≠ u.roleActive .carrierSend) →
    u.peer = { s.peer with
      sent := if s.peer.link = .up ∧ (s.peerShot = true ∨ carrier = true) then
          s.peer.sent ++ [.event (n.val + 1) s.inputs.inputs[n].role level eventTime s.peerShot carrier]
        else s.peer.sent }

/-- With source LOCAL_LOOP a change of the CARRIER_SEND role state is a received edge; no other change touches
the teleprotection path (R151, R152). -/
def LocalLoopEdge (eventTime : AbsTime) (s u : State) : Prop :=
  ((s.tp.source = .peer ∨ s.roleActive .carrierSend = u.roleActive .carrierSend) → u.tp = s.tp)
  ∧ (s.tp.source = .localLoop → s.roleActive .carrierSend ≠ u.roleActive .carrierSend →
      EdgeReceived s u (u.roleActive .carrierSend) (s.aheadOf (eventTime + s.tp.delay * 100)))

/-! ### The breaker at a change of an input's role -/

/-- A role activates between two states (R75). -/
def Activates (s u : State) (r : InputRole) : Prop := s.roleActive r = false ∧ u.roleActive r = true

/-- A trip activation reaches a pole: one of its trip roles activates, and none that stays active has reached it
already (R89). -/
def TripReaches (s u : State) (q : Pole) : Prop :=
  ∃ r, ReachedBy r q ∧ Activates s u r
    ∧ ∀ r', ReachedBy r' q → ¬ (s.roleActive r' = true ∧ u.roleActive r' = true)

/-- A trip makes the pole move: it is CLOSED, or CLOSING, trip-free (R89, Table 5-3). -/
def TripMoves (s u : State) (q : Pole) : Prop :=
  TripReaches s u q
    ∧ ((s.breaker.poles.get q).position = .closed ∨ (s.breaker.poles.get q).position = .closing)

/-- A close makes the pole move: it is OPEN with no trip role active (R90, Table 5-4). -/
def CloseMoves (s u : State) (q : Pole) : Prop :=
  Activates s u .close ∧ (s.breaker.poles.get q).position = .opened ∧ u.tripActive q = false

/-- A close is refused: the pole is OPENING, or OPEN with a trip role active (R90, Table 5-4). -/
def CloseRefused (s u : State) (q : Pole) : Prop :=
  Activates s u .close
    ∧ ((s.breaker.poles.get q).position = .opening
      ∨ ((s.breaker.poles.get q).position = .opened ∧ u.tripActive q = true))

/-- Every channel linked to a pole is SILENCED (R95). -/
def LinkedSilenced (s : State) (q : Pole) : Prop :=
  ∀ c : Channel, (s.synth.channels.get c).link = some q → (s.synth.channels.get c).silencing = .silenced

/-- A pole's interruption stands, unless it is in progress with every linked channel SILENCED: then it is COMPLETE
(R92, R95). -/
def InterruptionStands (s t : State) (q : Pole) : Prop :=
  (t.breaker.poles.get q).start = (s.breaker.poles.get q).start
  ∧ ((t.breaker.poles.get q).interruption = (s.breaker.poles.get q).interruption
    ∨ ((s.breaker.poles.get q).interruption = .inProgress ∧ (t.breaker.poles.get q).interruption = .complete
      ∧ LinkedSilenced t q))

/-- A BREAKER_OP record of a pole with time `t0`, within a shot (R98). -/
def BreakerOpLogged (s t : State) (q : Pole) (o : BreakerOutcome) (t0 : Nat) : Prop :=
  s.seq.phase ≠ .idle → 16 ≤ s.log.unreserved →
    s.makeRecord (s.shotTime t0) (.breakerOp q o false) ∈ t.log.records

/-- The pole has become OPENING, its opening action placed for `due` and a close action removed. With `due` reached
it is OPEN at once, with its record, and an interruption begins unless one stands from before: COMPLETE where every
linked channel is SILENCED, and in progress otherwise (R89, R91, R92, R95, R97). -/
def PoleOpens (s t : State) (q : Pole) (due : Nat) : Prop :=
  (∀ a ∈ t.actions.entries, a.work ≠ .pole q .closing)
  ∧ (s.now < due →
    t.breaker.poles.get q = { s.breaker.poles.get q with position := .opening }
    ∧ ∃ a ∈ t.actions.entries, a.due = due ∧ a.work = .pole q .opening ∧ a.owner = none)
  ∧ (due ≤ s.now →
    (t.breaker.poles.get q).position = .opened ∧ (t.breaker.poles.get q).openSignal = true
    ∧ (∀ a ∈ t.actions.entries, a.work ≠ .pole q .opening)
    ∧ ((s.breaker.poles.get q).interruption ≠ .none → InterruptionStands s t q)
    ∧ ((s.breaker.poles.get q).interruption = .none →
        (t.breaker.poles.get q).start = some due ∧ (t.breaker.poles.get q).interruption ≠ .none
        ∧ ((t.breaker.poles.get q).interruption = .complete ↔ LinkedSilenced t q))
    ∧ BreakerOpLogged s t q .opened due)

/-- The pole has become CLOSING, its close action placed for `due`; with `due` reached it is CLOSED at once, with
its record (R90, R91, R93). -/
def PoleCloses (s t : State) (q : Pole) (due : Nat) : Prop :=
  (s.now < due →
    t.breaker.poles.get q = { s.breaker.poles.get q with position := .closing }
    ∧ ∃ a ∈ t.actions.entries, a.due = due ∧ a.work = .pole q .closing ∧ a.owner = none)
  ∧ (due ≤ s.now →
    t.breaker.poles.get q = { position := .closed, interruption := .none, start := none, openSignal := false }
    ∧ (∀ a ∈ t.actions.entries, a.work ≠ .pole q .closing)
    ∧ BreakerOpLogged s t q .closed due)

/-- A channel when poles have moved between two states: of a pole that has opened with no interruption standing it
becomes INTERRUPTING while the channels inject and SILENCED while they are muted (the last DEDUCED, log 17); of a
pole that has closed it conducts again, a SILENCED one resuming (R67, R92, R93, R97). -/
def ChannelAfterPoles (s t : State) (ch : SynthChannel) : SynthChannel :=
  match ch.link with
  | none => ch
  | some q =>
      if (s.breaker.poles.get q).interruption = .none ∧ (s.breaker.poles.get q).position ≠ .opened
          ∧ (t.breaker.poles.get q).position = .opened then
        { ch with silencing :=
            if s.injecting = false then .silenced
            else if ch.silencing = .conducting then .interrupting else ch.silencing }
      else if (s.breaker.poles.get q).position = .opened ∧ (t.breaker.poles.get q).position = .closed then
        { ch with
          silencing := .conducting
          resuming := if ch.silencing = .silenced then true else ch.resuming }
      else ch

/-- The AUX outputs have taken the positions of the poles: AUX_52A is 1 while all are CLOSED, AUX_52B while all are
OPEN; each that changes writes OUTPUT_CHANGE with source BREAKER within a shot (R86, R99). -/
def AuxFollow (s t : State) : Prop :=
  ∀ n : Fin 4,
    (s.outputs[n].role = .aux52A → t.outputs[n].role = .aux52A
      ∧ (t.outputs[n].level = true ↔ ∀ q : Pole, (t.breaker.poles.get q).position = .closed))
    ∧ (s.outputs[n].role = .aux52B → t.outputs[n].role = .aux52B
      ∧ (t.outputs[n].level = true ↔ ∀ q : Pole, (t.breaker.poles.get q).position = .opened))
    ∧ ((s.outputs[n].role = .aux52A ∨ s.outputs[n].role = .aux52B) → t.outputs[n].level ≠ s.outputs[n].level →
        s.seq.phase ≠ .idle → 16 ≤ s.log.unreserved →
        s.makeRecord (s.shotTime s.now) (.outputChange n t.outputs[n].level .breaker) ∈ t.log.records)

/-- Every output but the AUX ones stays as it was, and a TP_RECEIVE one where receive has not changed (R80,
R153). -/
def OtherOutputsStay (s t : State) : Prop :=
  ∀ n : Fin 4, s.outputs[n].role ≠ .aux52A → s.outputs[n].role ≠ .aux52B →
    t.outputs[n] = if s.outputs[n].role = .tpReceive ∧ t.tp.receive ≠ s.tp.receive
                   then { role := .tpReceive, level := t.tp.receive } else s.outputs[n]

/-- The Breaker Model has taken, at this instant, the trip and close activations between `s` and `u`, which has the
inputs as changed, with the change time `t0` (R75, R89 to R93, R95, R97 to R99, R102): each pole that they move
moves, a close refused is recorded, every other pole and its pending action stays, the linked channels and the AUX
outputs follow. With the simulation disabled nothing happens. -/
def BreakerTakes (s u t : State) (t0 : Nat) : Prop :=
  t.breaker = { s.breaker with poles := t.breaker.poles }
  ∧ (∀ q : Pole, s.breaker.enabled = true → TripMoves s u q → PoleOpens s t q (t0 + s.breaker.tripTime * 100))
  ∧ (∀ q : Pole, s.breaker.enabled = true → CloseMoves s u q → PoleCloses s t q (t0 + s.breaker.closeTime * 100))
  ∧ (∀ q : Pole, s.breaker.enabled = true → CloseRefused s u q → BreakerOpLogged s t q .refused t0)
  ∧ (∀ q : Pole, (s.breaker.enabled = false ∨ (¬ TripMoves s u q ∧ ¬ CloseMoves s u q)) →
      (t.breaker.poles.get q).position = (s.breaker.poles.get q).position
      ∧ (t.breaker.poles.get q).openSignal = (s.breaker.poles.get q).openSignal ∧ InterruptionStands s t q
      ∧ ∀ a : TimedAction, (a.work = .pole q .opening ∨ a.work = .pole q .closing) →
          (a ∈ t.actions.entries ↔ a ∈ s.actions.entries))
  ∧ (∀ c : Channel, t.synth.channels.get c = ChannelAfterPoles s t (s.synth.channels.get c))
  ∧ ((∀ q : Pole, (t.breaker.poles.get q).position = (s.breaker.poles.get q).position) →
      ∀ n : Fin 4, s.outputs[n].role = .aux52A ∨ s.outputs[n].role = .aux52B → t.outputs[n] = s.outputs[n])
  ∧ ((∃ q : Pole, (t.breaker.poles.get q).position ≠ (s.breaker.poles.get q).position) → AuxFollow s t)

/-! ### ACCEPTED_CHANGE -/

/-- ACCEPTED_CHANGE (R26, R31, R63, R72 to R77, R89, R90, R105, R149, R151): a change that has reached its count
flips the level, is dated back to its candidate start, is recorded within a shot and raises INPUT_CHANGED for
both ports. Where it changes no other signal, the consumers of the vector take just its own; a trip or close moves
the poles as Tables 5-3 and 5-4 give, at once where the due time has passed, and the AUX outputs follow; a change of
the carrier is sent and, in local loop, received, and in a peer-linked shot the change is sent. With no change
accepted nothing happens (log 2). That a start which the change fixes at a boundary whose choice is open is for that
boundary (log 4), that a received edge's distance is the shorter way round the day span (log 35), and that channels
muted are silenced at an opening (log 17), are DEDUCED; that the conditions take the change before the roles do, and
so the insertion numbers of their actions (log 13), and that the absolute event time is the time of day of the first
sample whatever became of the clock (log 49), are the model's choices. -/
def Obligations.AcceptedChangeIsDelivered : Prop :=
  ∀ (n : Fin 12) (s : State),
    (s.inputs.inputs[n].ready = false → exec (.acceptedChange n) s = .next s)
    ∧ (∀ t0, s.inputs.inputs[n].ready = true → s.inputs.inputs[n].candidate = some t0 →
        ∃ (u : State) (changed : Input), exec (.acceptedChange n) s = .next u
          ∧ changed = { s.inputs.inputs[n] with
              level := !s.inputs.inputs[n].level, candidate := none, count := 0, ready := false
              lastChange := some (t0.abs) }
          ∧ u = { s with
              seq := u.seq, synth := u.synth
              inputs := { s.inputs with inputs := s.inputs.inputs.set n changed }
              outputs := u.outputs, breaker := u.breaker, assess := u.assess, log := u.log
              drains := u.drains, actions := u.actions, peer := u.peer, tp := u.tp, ports := u.ports }
          ∧ Raised s u .inputChanged
          ∧ (s.seq.phase ≠ .idle →
              RecordFirst s u (s.shotTime t0.at_)
                (.inputChange (n.val + 1) changed.active false (t0.abs)))
          ∧ (s.seq.phase = .idle → s.seq.visit = none → u.log = s.log)
          ∧ ((∀ k, k ≠ n.val → u.signal k = s.signal k) →
              ConsumersTake s u s.actions n.val changed.active t0.at_)
          ∧ EventSent n changed.active (t0.abs) s u ∧ LocalLoopEdge (t0.abs) s u
          ∧ OtherOutputsStay s u
          ∧ ((s.PolesConsistent ∨ s.actions.held .pole = 0) → BreakerTakes s u u t0.at_))

/-! ### CONFIG_INPUT -/

/-- A change of the CARRIER_SEND role state that the configuration of input `n` makes is sent in one EVENT, with
the shot flag clear, the carrier flag set and the instant of the command as its time, while the link is UP; no
other change of configuration is sent (R149). The number, role and level that it carries are the model's choice
(log 24). -/
def CarrierChangeSent (n : Fin 12) (s u t : State) : Prop :=
  t.peer = { s.peer with
    sent := if s.peer.link = .up ∧ s.roleActive .carrierSend ≠ u.roleActive .carrierSend then
        s.peer.sent ++ [.event (n.val + 1) .carrierSend (u.roleActive .carrierSend) s.timeOfDay false true]
      else s.peer.sent }

/-- With source LOCAL_LOOP a change of the CARRIER_SEND role state is an edge received at this instant; no other
change of configuration touches the teleprotection path (R151, R152). -/
def CarrierChangeReceived (s u t : State) : Prop :=
  ((s.tp.source = .peer ∨ s.roleActive .carrierSend = u.roleActive .carrierSend) → t.tp = s.tp)
  ∧ (s.tp.source = .localLoop → s.roleActive .carrierSend ≠ u.roleActive .carrierSend →
      ∀ (level : Bool) (a : Int), level = u.roleActive .carrierSend →
        a = s.aheadOf (s.timeOfDay + s.tp.delay * 100) →
        (a ≤ 0 → t.tp = { s.tp with lastReceived := level, applied := level, receive := false })
        ∧ (0 < a → s.actions.held .tpEdge < 13 →
            t.tp = { s.tp with lastReceived := level }
            ∧ ∃ e ∈ t.actions.entries, e.due = s.now + a.toNat ∧ e.work = .tpEdge level ∧ e.owner = none)
        ∧ (0 < a → 13 ≤ s.actions.held .tpEdge →
            t.tp = { s.tp with lastReceived := level, resync := true }))

/-- What delivering a change of configuration leaves as it was: the sequencer, the ramp, the log and the drain
channels; every action but a pole's and the edge taken; and every output but the AUX ones and those that follow
receive. -/
def NothingElseDelivered (s u t : State) : Prop :=
  t.seq = s.seq ∧ t.synth.ramp = s.synth.ramp ∧ t.log = s.log ∧ t.drains = s.drains
  ∧ (s.assess = none → t.assess = none)
  ∧ (∀ a : TimedAction, a.work.group ≠ .pole → a ∈ s.actions.entries → a ∈ t.actions.entries)
  ∧ (∀ a : TimedAction, a.work.group = .condition ∨ a.work.group = .stateOutput →
      a ∈ t.actions.entries → a ∈ s.actions.entries)
  ∧ (s.tp.source = .peer ∨ s.roleActive .carrierSend = u.roleActive .carrierSend →
      ∀ a : TimedAction, a.work.group = .tpEdge →
      a ∈ t.actions.entries → a ∈ s.actions.entries)
  ∧ OtherOutputsStay s t

/-- CONFIG_INPUT (R75, R76, R79, R89, R90, R149, R151, R152): codes in order; the three items are stored, the
debounce clamped to 255. A polarity change flips the active state and is delivered, with the instant of the
command as its change time, to the consumers of the vector, and raises INPUT_CHANGED; it is not logged. Wherever
a flip or a role change of an active input changes a role state, the Breaker Model takes the trip or the close,
and a change of CARRIER_SEND is sent and, with source LOCAL_LOOP, received. One that changes neither the active
state nor a role state delivers nothing. The last change time that a flip takes, that a role gives way before the
new one activates (log 19), that the linked channels of a pole opened at once are SILENCED, being muted (log 17), and
that a received edge's distance is the shorter way round the day span (log 35), are DEDUCED. -/
def Obligations.ConfigInputReplacesAndDelivers : Prop :=
  ∀ (p : Port) (input polarity debounce role : Nat) (s : State),
    s.excluded p = false → s.seq.phase = .idle →
    ((input = 0 ∨ 12 < input) →
      exec (.configInput p input polarity debounce role) s = .next (s.answered p .range (.param .input)))
    ∧ (∀ n, inputOfCode input = some n →
        (1 < polarity →
          exec (.configInput p input polarity debounce role) s
            = .next (s.answered p .range (.param .polarity)))
        ∧ (polarity ≤ 1 → 6 < role →
          exec (.configInput p input polarity debounce role) s = .next (s.answered p .range (.param .role)))
        ∧ (∀ pol r, Polarity.ofCode polarity = some pol → InputRole.ofCode role = some r →
            ∀ (changed : Input) (s' : State),
            changed = { s.inputs.inputs[n] with
              polarity := pol, debounce := min 255 debounce, role := r
              lastChange := if pol = s.inputs.inputs[n].polarity then s.inputs.inputs[n].lastChange
                            else some s.timeOfDay } →
            s' = { s with inputs := { s.inputs with inputs := s.inputs.inputs.set n changed } } →
            ∃ t, exec (.configInput p input polarity debounce role) s = .next t
              ∧ t = { (s.takeFrame p) with
                  seq := t.seq, synth := t.synth, inputs := s'.inputs, outputs := t.outputs
                  breaker := t.breaker, assess := t.assess, log := t.log, drains := t.drains
                  actions := t.actions, peer := t.peer, tp := t.tp, ports := t.ports }
              ∧ (t.ports.get p).response
                  = { status := .ok, data := .inputConfig pol (min 255 debounce) r }
              ∧ (t.ports.get p.other).response = (s.ports.get p.other).response
              ∧ (pol = s.inputs.inputs[n].polarity →
                  (∀ q : InputRole, q ≠ .general → s'.roleActive q = s.roleActive q) →
                  t = s'.answered p .ok (.inputConfig pol (min 255 debounce) r))
              ∧ (pol ≠ s.inputs.inputs[n].polarity → Raised s t .inputChanged)
              ∧ (pol = s.inputs.inputs[n].polarity → s.seq.visit = none →
                  ∀ q, (t.ports.get q).requests = (s.ports.get q).requests
                    ∧ (t.ports.get q).repeated = (s.ports.get q).repeated)
              ∧ (pol ≠ s.inputs.inputs[n].polarity → (∀ k, k ≠ n.val → t.signal k = s.signal k) →
                  ConsumersTake s t s.actions n.val changed.active s.now)
              ∧ (pol = s.inputs.inputs[n].polarity → (∀ k, t.signal k = s.signal k) → NothingDelivered s t)
              ∧ (s.seq.visit = none → NothingElseDelivered s s' t)
              ∧ (s.PolesConsistent → BreakerTakes s s' t s.now)
              ∧ CarrierChangeSent n s s' t ∧ CarrierChangeReceived s s' t))

/-- The end of a visit withholds an action: it is an output action, and at this boundary the visit ends, as
stood fixed when the boundary was reached (R84). -/
def WithheldHere (s : State) (a : TimedAction) : Prop :=
  a.work.group = .stateOutput ∧ s.time.endFixed = true ∧ s.visitEndsHere = true

/-- The action that falls due next is the first in the list's order whose due time is reached and which is not
withheld; an action that is withheld holds back none behind it (R84, R140, R141). -/
def TheNextActionDue : Prop :=
  ∀ (s : State) (a : TimedAction),
    s.dueAction = some a ↔
      ∃ before after, s.actions.entries = before ++ a :: after ∧ a.due ≤ s.now ∧ ¬ WithheldHere s a
        ∧ ∀ b ∈ before, s.now < b.due ∨ WithheldHere s b

/-- STATE_OUTPUT_DUE (R84, R86, R140): the action that falls due next, where it is an output action, leaves the
list and sets its output, with a record where the level changes within a shot. One due at a boundary for which
the end of its visit stood fixed before the boundary was reached does not fire; where the end is fixed only at
that instant, it fires if it is taken first (R84, R141). Where no state output action falls due, nothing happens
(log 2). -/
def StateOutputActionSetsItsOutput : Prop :=
  ∀ s : State,
    ((∀ a, s.dueAction = some a → a.work.group ≠ .stateOutput) → exec .stateOutputDue s = .next s)
    ∧ (s.time.endFixed = true → s.visitEndsHere = true → exec .stateOutputDue s = .next s)
    ∧ (∀ a n level, s.dueAction = some a → a.work = .stateOutput n level →
        ∃ t, exec .stateOutputDue s = .next t
          ∧ t = { s with
              actions := { s.actions with entries := s.actions.entries.erase a }
              outputs := s.outputs.set n { s.outputs[n] with level := level }
              log := t.log, drains := t.drains, ports := t.ports }
          ∧ t.log = if s.outputs[n].level ≠ level ∧ s.seq.phase ≠ .idle then
                s.log.offered (s.makeRecord (s.shotTime s.now) (.outputChange n level .state))
              else s.log)

/-- Which timed action falls due next, and what an output action does when it does (R84, R86, R140, R141). -/
def Obligations.StateOutputActionFires : Prop :=
  TheNextActionDue ∧ StateOutputActionSetsItsOutput

/-! ### The breaker -/

/-- OPENING_ACTION_DUE (R88, R92, R95, R97): the action that falls due next completes: BREAKER_OP OPEN within a shot,
position OPEN, open signal 1, and, where no interruption stands, one begun at the due time, with the linked
channels INTERRUPTING while they inject and SILENCED while they are muted (the last DEDUCED, log 17). A change
of the open signal, which may fix a start for a boundary whose choice is open (DEDUCED, log 4), is delivered to
the consumers of the vector with the due time as its change time. Where no opening of that pole is due, nothing
happens (log 2). -/
def OpeningActionCompletes : Prop :=
  ∀ (q : Pole) (s : State),
    ((∀ a, s.dueAction = some a → a.work ≠ .pole q .opening) → exec (.openingActionDue q) s = .next s)
    ∧ (∀ a, s.dueAction = some a → a.work = .pole q .opening →
        ∃ t, exec (.openingActionDue q) s = .next t
          ∧ t = { s with
              seq := t.seq, synth := t.synth, outputs := t.outputs
              breaker := { s.breaker with poles := t.breaker.poles }
              assess := t.assess, log := t.log, drains := t.drains, actions := t.actions
              ports := t.ports }
          ∧ (t.breaker.poles.get q).position = .opened ∧ (t.breaker.poles.get q).openSignal = true
          ∧ (∀ q' : Pole, q' ≠ q →
              (t.breaker.poles.get q').position = (s.breaker.poles.get q').position
              ∧ (t.breaker.poles.get q').start = (s.breaker.poles.get q').start
              ∧ (t.breaker.poles.get q').openSignal = (s.breaker.poles.get q').openSignal)
          ∧ ((s.breaker.poles.get q).interruption ≠ .none →
              (t.breaker.poles.get q).interruption = (s.breaker.poles.get q).interruption
              ∧ (t.breaker.poles.get q).start = (s.breaker.poles.get q).start
              ∧ t.synth.channels = s.synth.channels)
          ∧ ((s.breaker.poles.get q).interruption = .none →
              (t.breaker.poles.get q).start = some a.due
              ∧ ((∀ c : Channel, (t.synth.channels.get c).link = some q →
                    (t.synth.channels.get c).silencing = .silenced) →
                  (t.breaker.poles.get q).interruption = .complete)
              ∧ (∀ c : Channel, (t.synth.channels.get c).link = some q →
                  (t.synth.channels.get c).silencing ≠ .silenced →
                  (t.breaker.poles.get q).interruption = .inProgress)
              ∧ ∀ c : Channel, t.synth.channels.get c
                  = if (s.synth.channels.get c).link = some q then
                      { s.synth.channels.get c with silencing :=
                          if s.injecting = false then .silenced
                          else if (s.synth.channels.get c).silencing = .conducting then .interrupting
                          else (s.synth.channels.get c).silencing }
                    else s.synth.channels.get c)
          ∧ AuxFollow s t ∧ OtherOutputsStay s t
          ∧ (s.seq.phase ≠ .idle → RecordFirst s t (s.shotTime a.due) (.breakerOp q .opened false))
          ∧ (s.seq.phase = .idle → s.seq.visit = none → t.log = s.log)
          ∧ ((s.breaker.poles.get q).openSignal = false →
              ConsumersTake s t { s.actions with entries := s.actions.entries.erase a } (Pole.signal q) true a.due)
          ∧ ((s.breaker.poles.get q).openSignal = true → NothingDelivered s t)
          ∧ ((s.seq.visit = none ∨ (s.breaker.poles.get q).openSignal = true) →
              t.actions = { s.actions with entries := s.actions.entries.erase a }))

/-- CLOSE_ACTION_DUE (R88, R93, R67): BREAKER_OP CLOSED within a shot, position CLOSED, interruption NONE,
open signal 0, and the linked channels conduct again, a SILENCED one resuming at its next sample; a change
of the open signal is delivered with the due time as its change time. Where no close of that pole is due,
nothing happens (log 2). -/
def CloseActionCompletes : Prop :=
  ∀ (q : Pole) (s : State),
    ((∀ a, s.dueAction = some a → a.work ≠ .pole q .closing) → exec (.closeActionDue q) s = .next s)
    ∧ (∀ a, s.dueAction = some a → a.work = .pole q .closing →
        ∃ t, exec (.closeActionDue q) s = .next t
          ∧ t = { s with
              seq := t.seq, synth := { s.synth with channels := t.synth.channels }, outputs := t.outputs
              breaker := { s.breaker with poles := t.breaker.poles }
              log := t.log, drains := t.drains, actions := t.actions, ports := t.ports }
          ∧ (t.breaker.poles.get q
              = { position := .closed, interruption := .none, start := none, openSignal := false })
          ∧ (∀ q' : Pole, q' ≠ q → t.breaker.poles.get q' = s.breaker.poles.get q')
          ∧ (∀ c : Channel, t.synth.channels.get c
              = if (s.synth.channels.get c).link = some q
                    ∧ (s.synth.channels.get c).silencing ≠ .conducting then
                  { s.synth.channels.get c with
                    silencing := .conducting
                    resuming := if (s.synth.channels.get c).silencing = .silenced then true
                                else (s.synth.channels.get c).resuming }
                else s.synth.channels.get c)
          ∧ AuxFollow s t ∧ OtherOutputsStay s t
          ∧ (s.seq.phase ≠ .idle → RecordFirst s t (s.shotTime a.due) (.breakerOp q .closed false))
          ∧ (s.seq.phase = .idle → t.log = s.log)
          ∧ ((s.breaker.poles.get q).openSignal = true →
              ConsumersTake s t { s.actions with entries := s.actions.entries.erase a } (Pole.signal q) false a.due)
          ∧ ((s.breaker.poles.get q).openSignal = false → NothingDelivered s t)
          ∧ ((s.seq.visit = none ∨ (s.breaker.poles.get q).openSignal = false) →
              t.actions = { s.actions with entries := s.actions.entries.erase a }))

/-- The completion of a pole's opening and of its close (R92, R93), and the AUX outputs after it (R99). That
linked channels are silenced at once while muted (log 17), and that an ON_INPUT start which the change fixes at a
boundary whose choice is open is for that boundary (log 4), are DEDUCED; an event that is not due does nothing by the
model's choice (log 2). -/
def Obligations.PoleActionsComplete : Prop :=
  OpeningActionCompletes ∧ CloseActionCompletes

/-- FORCED_LIMIT (R68, R96): at the first boundary at or after the interruption start plus 40,000 µs, before
its samples, each linked channel still INTERRUPTING is cut, the interruption is COMPLETE, and a DELAYED_ZERO
record is written within a shot. At any other time nothing happens (log 2). -/
def Obligations.ForcedLimitCutsTheCurrent : Prop :=
  ∀ (q : Pole) (s : State),
    (s.forcedDue q = false → exec (.forcedLimit q) s = .next s)
    ∧ (∀ t0, (s.breaker.poles.get q).interruption = .inProgress → (s.breaker.poles.get q).start = some t0 →
        s.time.counter % 100 = 0 → s.time.sampleDone = false → t0 + 40000 ≤ s.now →
        ∃ t, exec (.forcedLimit q) s = .next t
          ∧ t = { s with
              synth := { s.synth with channels := t.synth.channels }
              breaker := { s.breaker with
                poles := s.breaker.poles.set q { s.breaker.poles.get q with interruption := .complete } }
              log := t.log, drains := t.drains, ports := t.ports }
          ∧ (∀ c : Channel, t.synth.channels.get c
              = if (s.synth.channels.get c).link = some q
                    ∧ (s.synth.channels.get c).silencing = .interrupting then
                  { s.synth.channels.get c with
                    silencing := .silenced, offset := 0, last := 0, resuming := false }
                else s.synth.channels.get c)
          ∧ t.log = if s.seq.phase ≠ .idle then
                s.log.offered (s.makeRecord (s.shotTime s.now) (.breakerOp q .opened true))
              else s.log)

/-! ### Samples and the Amplifier Link -/

/-- The peak code in use at this boundary: scaled in RAMPING_DOWN (R65). -/
def PeakNow (s : State) (c : Channel) : Nat :=
  match s.seq.phase, s.seq.rampDownAt with
  | .rampingDown, some e => (s.synth.channels.get c).peak * (200 - ((s.now - e) / 100 + 1)) / 200
  | _, _ => (s.synth.channels.get c).peak

/-- The AC sample of a channel at this boundary (R52). -/
def AcNow (s : State) (c : Channel) : Int :=
  acSample (PeakNow s c) ((s.synth.channels.get c).acc + (s.synth.channels.get c).phaseOffset)

/-- The offset term of a channel at this boundary (R57, R65, R67). -/
def OffsetNow (s : State) (c : Channel) : Int :=
  if s.seq.phase = .rampingDown then 0
  else if (s.synth.channels.get c).resuming = true then (if s.tauOf c = 0 then 0 else - AcNow s c)
  else (s.synth.channels.get c).offset

/-- The channel emits 0 unmuted at this boundary: SILENCED, or INTERRUPTING with a sample that passes the
current-zero test (R67, Table 3-4). -/
def CutNow (s : State) (c : Channel) : Bool :=
  decide ((s.synth.channels.get c).silencing = .silenced
    ∨ (s.synth.channels.get c).silencing = .interrupting
        ∧ passesZero (AcNow s c + OffsetNow s c) (s.synth.channels.get c).last = true)

/-- The sum of this boundary is clamped (R53). -/
def ClippedNow (s : State) (c : Channel) : Bool :=
  !CutNow s c && decide (clampCode (AcNow s c + OffsetNow s c) ≠ AcNow s c + OffsetNow s c)

/-- SAMPLE_BOUNDARY while the channels inject, every return of the frame before having come (R49, R52, R53,
R57, R58, R65, R67, R69, R95): each channel emits 0 if cut, else the clamped sum of its AC sample and its
offset term, which then decays; its accumulator advances; a first clamp of a visit is recorded. That the
CLIP records of one boundary stand in the order VA to IC is the model's choice (log 15). -/
def Obligations.InjectingChannelsAreSampled : Prop :=
  ∀ s : State, s.boundaryDue = true → (s.seq.phase = .running ∨ s.seq.phase = .rampingDown) →
    (∀ c : Channel, (s.amp.channels.get c).returned = true) →
    ∃ t, exec .sampleBoundary s = .next t
      ∧ t = { s with
          synth := { s.synth with channels := t.synth.channels }, amp := t.amp
          breaker := { s.breaker with poles := t.breaker.poles }
          log := t.log, drains := t.drains
          time := { s.time with boundaryPassed := true, sampleDone := true }
          ports := t.ports }
      ∧ (∀ c : Channel,
          t.synth.channels.get c = { s.synth.channels.get c with
            acc := (s.synth.channels.get c).acc + (s.synth.channels.get c).increment
            silencing := if CutNow s c then .silenced else (s.synth.channels.get c).silencing
            last := if CutNow s c then 0 else clampCode (AcNow s c + OffsetNow s c)
            offset := if CutNow s c then 0
                      else decayOffset (OffsetNow s c) (s.synth.channels.get c).decay
            resuming := false
            clip := (s.synth.channels.get c).clip || ClippedNow s c
            clipRecorded := (s.synth.channels.get c).clipRecorded || ClippedNow s c }
          ∧ t.amp.frame.get c
              = { code := if CutNow s c then 0 else clampCode (AcNow s c + OffsetNow s c)
                  valid := decide (PeakNow s c ≠ 0), mute := false }
          ∧ t.amp.channels.get c = { s.amp.channels.get c with returned := false })
      ∧ (∀ q : Pole,
          (t.breaker.poles.get q = { s.breaker.poles.get q with
              interruption := (t.breaker.poles.get q).interruption })
          ∧ ((s.breaker.poles.get q).interruption ≠ .inProgress →
              (t.breaker.poles.get q).interruption = (s.breaker.poles.get q).interruption)
          ∧ ((s.breaker.poles.get q).interruption = .inProgress →
              ((t.breaker.poles.get q).interruption = .complete
                ↔ ∀ c : Channel, (t.synth.channels.get c).link = some q →
                    (t.synth.channels.get c).silencing = .silenced)
              ∧ (t.breaker.poles.get q).interruption ≠ .none))
      ∧ (∀ e, s.seq.lastEntry = some e →
          t.log = allChannels.foldl (fun l c =>
            if ClippedNow s c && !(s.synth.channels.get c).clipRecorded then
              l.offered (s.makeRecord (s.shotTime s.now) (.clip c e.state))
            else l) s.log)

/-- SAMPLE_BOUNDARY while the channels are muted, with the returns of the frame before counted or IDLE (R49,
R54, R69, R70): every subframe is muted with code 0 and not VALID, and the accumulators run except in IDLE.
Where no samples are due, nothing happens (log 2). -/
def MutedChannelsEmitZero : Prop :=
  ∀ s : State,
    (s.boundaryDue = false → exec .sampleBoundary s = .next s)
    ∧ (s.boundaryDue = true → (s.seq.phase = .idle ∨ s.seq.phase = .armed ∨ s.seq.phase = .closing) →
        (s.seq.phase ≠ .idle → ∀ c : Channel, (s.amp.channels.get c).returned = true) →
        ∃ t, exec .sampleBoundary s = .next t
          ∧ t = { s with
              synth := { s.synth with channels := t.synth.channels }, amp := t.amp
              breaker := { s.breaker with poles := t.breaker.poles }
              time := { s.time with boundaryPassed := true, sampleDone := true } }
          ∧ (∀ c : Channel,
              t.synth.channels.get c = { s.synth.channels.get c with
                offset := 0, last := 0
                acc := if s.seq.phase = .idle then (s.synth.channels.get c).acc
                       else (s.synth.channels.get c).acc + (s.synth.channels.get c).increment }
              ∧ t.amp.frame.get c = { code := 0, valid := false, mute := true }
              ∧ t.amp.channels.get c = { s.amp.channels.get c with returned := false })
          ∧ ((∀ q : Pole, (s.breaker.poles.get q).interruption ≠ .inProgress) →
              t.breaker.poles = s.breaker.poles))

/-- The third missing return in succession for a VALID subframe ends the shot with DISCONNECTED, in ARMED, in
RUNNING and, as the secondary cause if it is the first, after the end cause (R38 to R40); in CLOSING, or with the
latch set, it only counts; the first and second only count; a missing return for a subframe that is not VALID
clears both counts (R70, R107, R148, R167, Table 3-7). That a cause taken in RUNNING with a soft abort waiting is the
secondary one is DEDUCED (log 12). -/
def MissingReturnsAreCounted : Prop :=
  ∀ (c : Channel) (s : State), s.boundaryDue = true → s.seq.phase ≠ .idle →
    (∀ c' : Channel, (s.amp.channels.get c').returned = decide (c' ≠ c)) →
    (s.amp.channels.get c).overload < 5 → (s.amp.channels.get c).missing < 3 →
    ((s.amp.frame.get c).valid = false →
      ∃ t, exec .sampleBoundary s = .next t ∧ (t.amp.channels.get c).overload = 0
        ∧ (t.amp.channels.get c).missing = 0 ∧ t.seq = s.seq ∧ t.guard = s.guard)
    ∧ ((s.amp.frame.get c).valid = true → (s.amp.channels.get c).missing < 2 →
      ∃ t, exec .sampleBoundary s = .next t ∧ (t.amp.channels.get c).overload = 0
        ∧ (t.amp.channels.get c).missing = (s.amp.channels.get c).missing + 1 ∧ t.seq = s.seq
        ∧ t.guard = s.guard)
    ∧ ((s.amp.frame.get c).valid = true → (s.amp.channels.get c).missing = 2 →
        (s.guard.latches.get c).disconnected = false →
        (s.seq.phase = .running ∨ s.seq.visit = none ∧ (s.seq.phase = .armed ∨ s.seq.phase = .rampingDown)) →
      ∃ t, exec .sampleBoundary s = .next t ∧ (t.amp.channels.get c).missing = 3
        ∧ t.seq.phase = .closing ∧ t.seq.closingAt = some s.now ∧ t.seq.visit = none
        ∧ HardAbortTaken s t .disconnected
        ∧ t.guard.latches = s.guard.latches.set c { s.guard.latches.get c with disconnected := true }
        ∧ Raised s t .guardAbort
        ∧ ∀ c' : Channel, t.amp.frame.get c' = { code := 0, valid := false, mute := true })
    ∧ ((s.amp.frame.get c).valid = true → (s.amp.channels.get c).missing = 2 →
        (s.seq.phase = .closing ∨ (s.guard.latches.get c).disconnected = true) →
      ∃ t, exec .sampleBoundary s = .next t ∧ (t.amp.channels.get c).missing = 3
        ∧ t.seq = s.seq ∧ t.guard = s.guard)

/-- SAMPLE_BOUNDARY with muted channels, and with a return missing. That the missing returns are taken before
the samples of the boundary, so that its frame is already muted after DISCONNECTED, is DEDUCED (log 5); that the
ABORT record stands before those of the visit's end and of the outputs is the model's choice (logs 42 and 40). -/
def Obligations.BoundariesWithoutInjection : Prop :=
  MutedChannelsEmitZero ∧ MissingReturnsAreCounted

/-- AMPLIFIER_RETURN (R38 to R40, R70, R167, Table 3-7): the last status is set; within a shot, until a count of
the channel has raised a cause, the return is counted, the fifth OVERLOAD in succession is a hard abort and an
OVERTEMP a soft one, in ARMED, in RUNNING and, as the secondary cause if it is the first, after the end cause; in
CLOSING, or with the latch set, it does nothing further. That a return past a threshold raises no OVERTEMP either,
and what a cause is that finds a soft abort waiting, are DEDUCED (logs 36 and 12); that the ABORT record stands
before those of the visit's end and of the outputs is the model's choice (logs 42 and 40). -/
def Obligations.AmplifierReturnsAreCounted : Prop :=
  ∀ (c : Channel) (st : AmpStatus) (s : State) (a : AmpChannel), a = s.amp.channels.get c →
    ((s.seq.phase = .idle ∨ 5 ≤ a.overload ∨ 3 ≤ a.missing) →
      exec (.amplifierReturn c st) s
        = .next (s.setAmp c { a with status := st, returned := true }))
    ∧ (s.seq.phase ≠ .idle → a.overload < 5 → a.missing < 3 →
        exec (.amplifierReturn c .ok) s
          = .next (s.setAmp c { status := .ok, returned := true, overload := 0, missing := 0 })
        ∧ (a.overload < 4 → exec (.amplifierReturn c .overload) s
          = .next (s.setAmp c
              { status := .overload, returned := true, overload := a.overload + 1, missing := 0 }))
        ∧ (a.overload = 4 → (s.guard.latches.get c).overload = false →
          (s.seq.phase = .running ∨ s.seq.visit = none ∧ (s.seq.phase = .armed ∨ s.seq.phase = .rampingDown)) →
          ∃ t, exec (.amplifierReturn c .overload) s = .next t ∧ HardAborted s t .overload
            ∧ Raised s t .guardAbort
            ∧ t.amp = (s.setAmp c
                { status := .overload, returned := true, overload := 5, missing := 0 }).amp
            ∧ t.guard.latches
              = s.guard.latches.set c { s.guard.latches.get c with overload := true }
            ∧ t.store = s.store ∧ t.time = s.time ∧ t.inputs = s.inputs)
        ∧ (a.overload = 4 → (s.seq.phase = .closing ∨ (s.guard.latches.get c).overload = true) →
          exec (.amplifierReturn c .overload) s = .next (s.setAmp c
            { status := .overload, returned := true, overload := 5, missing := 0 }))
        ∧ ((s.guard.latches.get c).overtemp = false →
          (s.seq.phase = .running ∨ s.seq.visit = none ∧ (s.seq.phase = .armed ∨ s.seq.phase = .rampingDown)) →
          ∃ t, exec (.amplifierReturn c .overtemp) s = .next t ∧ Raised s t .guardAbort
            ∧ t.amp = (s.setAmp c
                { status := .overtemp, returned := true, overload := 0, missing := 0 }).amp
            ∧ t.guard.latches = s.guard.latches.set c { s.guard.latches.get c with overtemp := true }
            ∧ t.store = s.store ∧ t.time = s.time ∧ t.inputs = s.inputs
            ∧ (s.seq.phase = .armed → AbortedInArmed s t .overtemp)
            ∧ (s.seq.phase ≠ .armed → t.guard = { s.guard with latches := t.guard.latches } ∧ t.synth = s.synth)
            ∧ (s.seq.phase = .running → s.seq.endCause = none → SoftAbortTaken s t .overtemp)
            ∧ ((s.seq.phase = .rampingDown
                  ∨ (s.seq.phase = .running ∧ s.seq.endCause ≠ none ∧ s.seq.softEnd ≠ none)) →
                SecondaryTaken s t .overtemp ∧ t.peer = s.peer))
        ∧ ((s.seq.phase = .closing ∨ (s.guard.latches.get c).overtemp = true) →
          exec (.amplifierReturn c .overtemp) s = .next (s.setAmp c
            { status := .overtemp, returned := true, overload := 0, missing := 0 })))

/-- RAMP_STEP (R61, R62): at its boundary the step is added, held at the limit, and set on the target, with
phases B and C of a group keeping their spacing; the choice of the boundary is then taken (log 18). At any
other time nothing happens (log 2). -/
def Obligations.RampStepMovesTheValue : Prop :=
  ∀ s : State,
    (s.rampStepDue = false → exec .rampStep s = .next s)
    ∧ (∀ v r, s.rampStepDue = true → (s.choiceOfState = none ∨ s.seq.deferring = true) → s.seq.visit = some v →
        s.synth.ramp.ramp = some r → ∀ value, value = r.valueAt s.synth.ramp.nextStep →
        ∃ t, exec .rampStep s = .next t
          ∧ t = { s with
              synth := { channels := t.synth.channels
                         ramp := { s.synth.ramp with
                           value := value, nextStep := s.synth.ramp.nextStep + 1
                           state := if value = r.limit then .atLimit else .stepping } }
              time := { s.time with boundaryPassed := true } }
          ∧ ∀ c : Channel, t.synth.channels.get c
              = if r.target.covers c then
                  (s.synth.channels.get c).setQuantity (s.store.config.get c) r.quantity
                    (if r.quantity = .phase ∧ c ≠ r.target.lead then
                        wrapAngle ((v.record.channels.get c).phase + value
                          - (v.record.channels.get r.target.lead).phase)
                      else value)
                else s.synth.channels.get c)

/-! ### Conditions and the sequencer's choice -/

/-- One condition at a change with time `t` (R31): a rise places its action at `t` plus the hold, or makes it
fall due at once; a fall removes its action; no change of truth does nothing. A condition that falls due
becomes a candidate once, and never while an entry is deferred (R32, R35). -/
def ConditionsFollowTheVector : Prop :=
  ∀ (c : CondState) (i : Fin 4) (signals : Mask) (t now boundary : Nat) (deferring : Bool) (owner : Nat)
    (l : TimedList) (holds : Bool), (holds = true ↔ signals &&& c.condition.enable
        = c.condition.value &&& c.condition.enable) →
    (holds = c.truth → c.evaluate i signals t now boundary deferring owner l = (c, l))
    ∧ (holds = false → c.truth = true →
        c.evaluate i signals t now boundary deferring owner l
          = ({ c with truth := false },
             { l with entries := l.entries.filter fun a => decide (a.work ≠ .condition i) }))
    ∧ (holds = true → c.truth = false → now < t + c.condition.hold * 100 →
        c.evaluate i signals t now boundary deferring owner l
          = ({ c with truth := true }, l.place (t + c.condition.hold * 100) (.condition i) (some owner)))
    ∧ (holds = true → c.truth = false → t + c.condition.hold * 100 ≤ now →
        c.evaluate i signals t now boundary deferring owner l
          = ({ c with
                truth := true
                candidate := if deferring then c.candidate else some (c.candidate.getD boundary) },
             { l with next := l.next + 1 }))

/-- The choice at a boundary (R33, R43): the transition chosen already; else the candidate of the lowest
index; else the timeout at its own boundary; END replaces any target while AT_STATE_END is pending. -/
def TheLowestConditionWins : Prop :=
  ∀ (s : State) (v : Visit), s.seq.visit = some v →
    (∀ c, s.seq.chosen = some c → s.transition = some c)
    ∧ (s.seq.chosen = none →
        (∀ (k : Fin 4) (c : CondState) (b : Nat), v.conditions[k.val]? = some c → c.candidate = some b →
          b ≤ s.now →
          (∀ (j : Fin 4) (c' : CondState) (b' : Nat), j < k → v.conditions[j.val]? = some c' →
            c'.candidate = some b' → s.now < b') →
          s.transition = some (s.transitionTo c.condition.next (.condition k)))
        ∧ ((∀ c ∈ v.conditions, ∀ b, c.candidate = some b → s.now < b) →
            (v.timeoutAt = some s.now → s.transition = some (s.transitionTo v.record.timeoutNext .timeout))
            ∧ (v.timeoutAt ≠ some s.now → s.transition = none)))
    ∧ (∀ target cause,
        s.transitionTo target cause
          = { target := if s.seq.endAtExit then .finish else target, cause := cause, boundary := s.now
              inception := s.inceptionOf (if s.seq.endAtExit then .finish else target) })

/-- CONDITION_ACTION_DUE (R32, R35, R140): the action that falls due next leaves the list, and its condition
becomes a candidate for the next boundary, unless it is one already or an entry is deferred. Where no such
action is due, nothing happens (log 2). -/
def ConditionActionMakesACandidate : Prop :=
  ∀ (i : Fin 4) (s : State),
    ((∀ a, s.dueAction = some a → a.work ≠ .condition i) → exec (.conditionActionDue i) s = .next s)
    ∧ (∀ a v, s.dueAction = some a → a.work = .condition i → s.seq.visit = some v →
        ∃ cs, exec (.conditionActionDue i) s = .next { s with
            actions := { s.actions with entries := s.actions.entries.erase a }
            seq := { s.seq with visit := some { v with conditions := cs } } }
          ∧ ∀ k : Nat, cs[k]? = if k = i.val then
              v.conditions[k]?.map fun c => { c with candidate :=
                if s.seq.deferring then c.candidate else some (c.candidate.getD s.nextBoundary) }
            else v.conditions[k]?)

/-- The visit's conditions alone, and with them the list `l`, have followed the vector of `u` (R31). -/
def OnlyConditionsFollow (s u : State) (v : Visit) (l : TimedList) (t : Nat) : Prop :=
  u.seq = { s.seq with visit := some { v with conditions := ConditionsReevaluated s v u.signals t l } }
  ∧ u.actions = ListReevaluated s v u.signals t l

/-- The events that change the vector in a running visit re-evaluate its conditions, in list order, with their
own change time (R31, R74, R88): an accepted change of a GENERAL input with its candidate start, and the
completion of a pole's opening or close that changes its open signal with its due time. -/
def VectorChangesReevaluateTheConditions : Prop :=
  ∀ (s : State) (v : Visit), s.seq.phase = .running → s.seq.visit = some v →
    (∀ n t0, s.inputs.inputs[n].ready = true → s.inputs.inputs[n].candidate = some t0 →
      s.inputs.inputs[n].role = .general →
      ∃ u, exec (.acceptedChange n) s = .next u ∧ OnlyConditionsFollow s u v s.actions t0.at_
        ∧ ∀ k, u.signal k = (if k = n.val then !s.signal k else s.signal k))
    ∧ (∀ q a, s.dueAction = some a → a.work = .pole q .opening →
        (s.breaker.poles.get q).openSignal = false →
        ∃ u, exec (.openingActionDue q) s = .next u
          ∧ OnlyConditionsFollow s u v { s.actions with entries := s.actions.entries.erase a } a.due
          ∧ ∀ k, u.signal k = (if k = Pole.signal q then true else s.signal k))
    ∧ (∀ q a, s.dueAction = some a → a.work = .pole q .closing →
        (s.breaker.poles.get q).openSignal = true →
        ∃ u, exec (.closeActionDue q) s = .next u
          ∧ OnlyConditionsFollow s u v { s.actions with entries := s.actions.entries.erase a } a.due
          ∧ ∀ k, u.signal k = (if k = Pole.signal q then false else s.signal k))

/-- How an exit condition follows the signal vector and comes to be a candidate (R31, R32, R35). -/
def Obligations.ConditionsBecomeCandidates : Prop :=
  ConditionsFollowTheVector ∧ ConditionActionMakesACandidate ∧ VectorChangesReevaluateTheConditions

/-- STATE_TIMEOUT (R32 to R35): at the timeout's boundary, with the choice still to be taken, the winner of
the boundary becomes the chosen transition; where it names a state whose inception is not reached, the
deferral begins. At any other time nothing happens (log 2). -/
def TimeoutChoosesATransition : Prop :=
  ∀ s : State,
    (s.timeoutDue = false → exec .stateTimeout s = .next s)
    ∧ (∀ v c, s.seq.phase = .running → s.seq.visit = some v → s.seq.chosen = none →
        v.timeoutAt = some s.now → s.choiceOpen = true → s.transition = some c →
        ((c.target = .finish ∨ s.inceptionReached c.inception = true) →
          exec .stateTimeout s = .next { s with seq := { s.seq with chosen := some c } })
        ∧ (c.target ≠ .finish → s.inceptionReached c.inception = false →
          exec .stateTimeout s = .next { s with
            seq := { s.seq with chosen := some c, deferring := true }
            time := { s.time with boundaryPassed := true } }))

/-- The choice at a boundary, and the timeout that calls for it (R32 to R34). -/
def Obligations.TheChoiceAtABoundary : Prop :=
  TheLowestConditionWins ∧ TimeoutChoosesATransition

/-! ### Visits -/

/-- The verdict of a capture at the end of its visit (R106, R107, Table 6-1). -/
def VerdictTable : Prop :=
  ∀ (a : Assessment) (cap : Capture) (entry : Nat),
    let c : Capturing := { assessment := a, capture := cap }
    let tol := max a.tolAbs (a.nominal * a.permille / 1000)
    c.verdict true entry = (.aborted, none)
    ∧ (cap = .alreadyActive → c.verdict false entry = (.alreadyActive, none))
    ∧ (cap = .waiting → a.expectation = .mustTrip → c.verdict false entry = (.noTrip, none))
    ∧ (cap = .waiting → a.expectation = .mustNotTrip → c.verdict false entry = (.pass, none))
    ∧ (∀ m, cap = .captured (entry + m) → a.expectation = .mustNotTrip →
        c.verdict false entry = (.unexpected, some m))
    ∧ (∀ m, cap = .captured (entry + m) → a.expectation = .mustTrip →
        (m + tol < a.nominal → c.verdict false entry = (.early, some m))
        ∧ (a.nominal + tol < m → c.verdict false entry = (.late, some m))
        ∧ (a.nominal ≤ m + tol → m ≤ a.nominal + tol → c.verdict false entry = (.pass, some m)))
    ∧ a.windowLow = a.nominal - tol ∧ a.recordedHigh = min (a.nominal + tol) 4294967295

/-- A record is an ASSESSMENT. -/
def IsAssessment : RecordBody → Bool
  | .assessment .. => true
  | _ => false

/-- A visit ends (R29, R64, R106 to R108, R115): the sequencer's visit items and the context go, the
visit's actions are removed, every verdict is counted, and with slots free one ASSESSMENT record per
assessment is written in list order, with NO_PICKUP of an unfrozen ramp somewhere among them (log 14). -/
def VisitEndGivesVerdicts : Prop :=
  ∀ (byAbort : Bool) (s : State) (v : Visit) (ctx : AssessContext), s.seq.visit = some v →
    s.assess = some ctx →
    ∃ (t : State) (bodies : List RecordBody), s.endVisit byAbort = t
      ∧ t = { s with
          seq := { s.seq with visit := none, chosen := none, deferring := false, softEnd := none }
          assess := none
          actions := { s.actions with entries := s.actions.entries.filter fun a => a.owner.isNone }
          log := t.log, drains := t.drains, ports := t.ports, freeUsed := s.freeUsed + 1 }
      ∧ t.log.verdicts = ctx.captures.foldl (fun w c => w.add (c.verdict byAbort ctx.entry).1) s.log.verdicts
      ∧ (bodies.length ≤ s.log.unreserved →
          t.log.records = s.log.records ++ bodies.map (s.makeRecord (s.shotTime s.now)))
      ∧ bodies.filter IsAssessment
          = ((ctx.captures.zipIdx 1).map fun x : Capturing × Nat =>
              RecordBody.assessment v.state x.2 (x.1.verdict byAbort ctx.entry).1 (x.1.verdict byAbort ctx.entry).2
                x.1.assessment.windowLow x.1.assessment.recordedHigh)
      ∧ (∀ r, s.synth.ramp.ramp = some r → s.synth.ramp.entry = v.entry →
          (s.synth.ramp.state = .stepping ∨ s.synth.ramp.state = .atLimit) →
          RecordBody.rampResult v.state r.target r.quantity none ∈ bodies
            ∧ bodies.length = ctx.captures.length + 1)
      ∧ ((s.synth.ramp.ramp = none ∨ s.synth.ramp.state = .frozen ∨ s.synth.ramp.state = .none) →
          bodies.length = ctx.captures.length)

/-- The verdicts of an assessment, and what the end of a visit does with them (R29, R106 to R108). -/
def Obligations.VisitsEndWithVerdicts : Prop :=
  VerdictTable ∧ VisitEndGivesVerdicts

/-- The record that an entry reads: the pending copy that the apply point of the entry makes active, else
the active copy (R30, R161, R162). -/
def EnteredRecord (s : State) (i : Fin 32) (r : StateRecord) : Prop :=
  (s.noHold = true ∧ ∃ q, s.store.slots[i].staged = some (q, r))
    ∨ ((s.noHold = false ∨ s.store.slots[i].staged = none) ∧ s.store.slots[i].active = some r)

/-- The ramp of a record on a quantity of a channel, if there is one. -/
def RampOn (r : StateRecord) (c : Channel) (q : Quantity) : Option Ramp :=
  r.ramp.filter fun w => w.target.covers c && decide (w.quantity = q)

/-- The working set that an entry loads into a channel (R50, R51, R56, R61): the quantities of the record's entry,
but for the ramped one, which takes the ramp start, with phases B and C of a group keeping their spacing from phase
A; and the constants of all three. -/
def WorkingSetLoaded (r : StateRecord) (c : Channel) (cfg : ChannelConfig) (ch : SynthChannel) : Prop :=
  ch.amplitude = (match RampOn r c .amplitude with
                  | some w => w.start.toNat
                  | none => (r.channels.get c).amplitude)
  ∧ ch.phase = (match RampOn r c .phase with
                | some w => if c = w.target.lead then w.start
                            else wrapAngle ((r.channels.get c).phase + w.start - (r.channels.get w.target.lead).phase)
                | none => (r.channels.get c).phase)
  ∧ ch.frequency = (match RampOn r c .frequency with
                    | some w => w.start.toNat
                    | none => (r.channels.get c).frequency)
  ∧ ch.peak = peakCode ch.amplitude cfg.range cfg.trim ∧ ch.phaseOffset = angleCode ch.phase
  ∧ ch.increment = incrementOf ch.frequency

/-- What a state entry leaves, whatever the record's optional parts (R30 to R32, R56, R57, R61, R68, R104,
R148, R153, R161, R164). -/
def StateEntered (s t : State) (i : Fin 32) (r : StateRecord) (cause : EntryCause) (first : Bool) : Prop :=
  t = { s with
      store := t.store, seq := t.seq, synth := t.synth, outputs := t.outputs
      breaker := { s.breaker with poles := t.breaker.poles }
      assess := t.assess, log := t.log, drains := t.drains
      time := { s.time with boundaryPassed := true }
      actions := t.actions
      peer := { s.peer with
        sent := if s.seq.peerLinked = true ∧ s.peer.link = .up
                then s.peer.sent ++ [.state i.val cause s.timeOfDay] else s.peer.sent }
      tp := { s.tp with receive := s.tp.applied && !r.tpBlocked }
      guard := { s.guard with
        expiry := if first then
            (if s.guard.period = 0 then none else some (s.now + s.guard.period * 1000))
          else s.guard.expiry }
      ports := t.ports, freeUsed := t.freeUsed }
  ∧ (s.noHold = true → PendingCopiesApplied s t) ∧ (s.noHold = false → t.store = s.store)
  ∧ t.store.config = s.store.config
  ∧ (∃ v, t.seq = { s.seq with
        phase := .running, chosen := none, deferring := false, startBoundary := none
        firstEntryAt := if first then some s.now else s.seq.firstEntryAt
        startTime := if first then some s.timeOfDay else s.seq.startTime
        softEnd := t.seq.softEnd
        visitCounts := s.seq.visitCounts.set i (s.seq.visitCounts[i] + 1)
        lastEntry := some { state := i, entryShot := if first then 0 else s.shotTime s.now
                            entryAbs := s.timeOfDay }
        visit := some v }
      ∧ v.state = i ∧ v.entry = s.now ∧ v.entryAbs = s.timeOfDay ∧ v.record = r
      ∧ v.timeoutAt = (if r.duration = 0 then none else some (s.now + r.duration * 100))
      ∧ v.conditions.map (·.condition) = r.conditions
      ∧ ∀ c ∈ v.conditions, (c.truth = true ↔
          t.signals &&& c.condition.enable = c.condition.value &&& c.condition.enable))
  ∧ (∀ q : Pole, (t.breaker.poles.get q).position = (s.breaker.poles.get q).position
      ∧ (t.breaker.poles.get q).openSignal = (s.breaker.poles.get q).openSignal
      ∧ (t.breaker.poles.get q).start = (s.breaker.poles.get q).start)
  ∧ (∀ c : Channel, ∀ ch old e cfg, ch = t.synth.channels.get c → old = s.synth.channels.get c →
      e = r.channels.get c → cfg = s.store.config.get c →
      ch.acc = old.acc ∧ ch.last = old.last ∧ ch.clip = old.clip ∧ ch.clipRecorded = false
      ∧ ch.resuming = false ∧ ch.link = e.link.resolve cfg ∧ ch.decay = decayFactor e.offsetTau
      ∧ ch.silencing = (if first = true ∨ e.link.resolve cfg ≠ old.link
                        then placeSilencing s.breaker.poles (e.link.resolve cfg) else old.silencing)
      ∧ ch.offset = (if ch.silencing = .silenced ∨ e.offsetTau = 0 then 0
                     else old.last - acSample ch.peak (old.acc + ch.phaseOffset))
      ∧ WorkingSetLoaded r c cfg ch)
  ∧ (t.synth.ramp.ramp = r.ramp ∧ t.synth.ramp.entry = s.now ∧ t.synth.ramp.nextStep = 1)
  ∧ (r.ramp = none → t.synth.ramp.state = .none)
  ∧ (∀ w, r.ramp = some w → t.synth.ramp.value = w.start
      ∧ t.synth.ramp.state = if w.limit = w.start then .atLimit else .stepping)
  ∧ t.assess = some
      { state := i, entry := if first then 0 else s.shotTime s.now
        captures := r.assessments.map fun a =>
          { assessment := a, capture := if a.mask &&& t.signals = 0 then .waiting else .alreadyActive } }
  ∧ Raised s t .stateEntered ∧ (first = true → Raised s t .shotStarted)
  ∧ (s.noHold = true → s.store.anyStaged = true → Raised s t .editsApplied)

/-- The entry writes its records after those of `u`, which is the state `s` with the visit before it ended: the
STATE_ENTRY record among them, where slots are free for it and for what the visit end and the teleprotection outputs
write before it; the verdicts are those that the visit's end counted (R29, R30, R107, R115). -/
def EntryRecorded (s u t : State) (i : Fin 32) (cause : EntryCause) (deferred first : Bool) : Prop :=
  t.log.verdicts = u.log.verdicts
  ∧ ∃ more, t.log.records = u.log.records ++ more
    ∧ (CaptureCount s + 7 ≤ s.log.unreserved →
        s.makeRecord (if first then 0 else s.shotTime s.now) (.stateEntry i cause deferred) ∈ more)

/-- Each condition of the entered record is evaluated at the entry (R31, R32). One that is true has just one action on
the list, due at its hold after the entry and owned by the visit, and is no candidate; with a hold of 0 the action
falls due at once instead, and the condition is a candidate for the boundary after the entry. One that is false has
neither. The premises hold in every state within the invariants (ProgramStore.WithinCounts, TimedList.OwnedByKind and,
at a first entry, State.ShotConsistent). -/
def ConditionsAtEntry (s t : State) (r : StateRecord) (first : Bool) : Prop :=
  r.conditions.length ≤ 4 →
  (∀ a ∈ s.actions.entries, a.work.group = .condition → first = false ∧ a.owner ≠ none) →
  ∀ (k : Fin 4) (held : List (Nat × Option Nat)),
    held = (t.actions.entries.filter fun a => decide (a.work = .condition k)).map (fun a => (a.due, a.owner)) →
    (r.conditions[k.val]? = none → held = [])
    ∧ ∀ (c : Condition) (v : Visit) (holds : Bool), r.conditions[k.val]? = some c → t.seq.visit = some v →
        (holds = true ↔ t.signals &&& c.enable = c.value &&& c.enable) →
        v.conditions[k.val]? = some { condition := c, truth := holds
                                      candidate := if holds = true ∧ c.hold = 0 then some (s.now + 100) else none }
        ∧ held = (if holds = true ∧ 0 < c.hold then [(s.now + c.hold * 100, some s.now)] else [])

/-- Each output action of the record that is scheduled stands on the list, owned by the visit, due at its
delay after the entry; a once-flagged one is passed over after the first visit (R83). -/
def ActionsScheduled (s t : State) (i : Fin 32) (r : StateRecord) (first : Bool) : Prop :=
  r.actions.length ≤ 4 →
  (∀ a ∈ s.actions.entries, a.work.group = .stateOutput → first = false ∧ a.owner ≠ none) →
  (∀ a ∈ r.actions, 0 < a.delay → (a.once = true → s.seq.visitCounts[i] = 0) →
    ∃ e ∈ t.actions.entries, e.due = s.now + a.delay * 100 ∧ e.work = .stateOutput a.output a.level
      ∧ e.owner = some s.now)
  ∧ ((∀ a ∈ r.actions, a.once = true) → s.seq.visitCounts[i] ≠ 0 →
      ∀ e ∈ t.actions.entries, e.work.group ≠ .stateOutput)

/-- The output action in force from an entry on an output: the last in the record's list of those of delay 0 that
are scheduled (R83, R84). -/
def ImmediateAction (s : State) (i : Fin 32) (r : StateRecord) (n : Fin 4) : Option OutputAction :=
  (r.actions.filter fun a =>
    decide (a.output = n ∧ a.delay = 0 ∧ (a.once = true → s.seq.visitCounts[i] = 0))).getLast?

/-- The outputs at an entry: the TP_RECEIVE ones follow receive where it changes, and then an output takes the level
of its action of delay 0, with OUTPUT_CHANGE of source TELEPROTECTION for the one and STATE for the other where the
level changes; every other output stays (R83, R84, R86, R153). -/
def OutputsAtEntry (s t : State) (i : Fin 32) (r : StateRecord) (first : Bool) : Prop :=
  ∀ (n : Fin 4) (level : Bool),
    level = (if s.outputs[n].role = .tpReceive ∧ t.tp.receive ≠ s.tp.receive then t.tp.receive
             else s.outputs[n].level) →
    t.outputs[n] = { s.outputs[n] with
      level := match ImmediateAction s i r n with
               | some a => a.level
               | none => level }
    ∧ (r.actions.length ≤ 4 →
        CaptureCount s + 11 ≤ s.log.unreserved →
        (level ≠ s.outputs[n].level →
          s.makeRecord (if first then 0 else s.shotTime s.now) (.outputChange n level .teleprotection)
            ∈ t.log.records)
        ∧ (t.outputs[n].level ≠ level →
          s.makeRecord (if first then 0 else s.shotTime s.now) (.outputChange n t.outputs[n].level .state)
            ∈ t.log.records))

/-- FIRST_ENTRY (R25 to R28, R31, R32, R34, R83, R137, R153): at the fixed boundary, or at the start time of AT_TIME
and PEER, the first state is entered with cause START and its conditions are evaluated; an inception not yet reached
defers it in the other modes. At any other time nothing happens (log 2). -/
def Obligations.FirstEntryStartsTheShot : Prop :=
  ∀ (i : Fin 32) (s : State), s.seq.phase = .armed → s.seq.firstState = some i →
    s.time.counter % 100 = 0 → s.time.boundaryPassed = false →
    (∀ r t0, EnteredRecord s i r → s.timedStart = true → s.seq.startTime = some t0 →
      s.timeOfDay = t0 % daySpan →
      ∃ t, exec .firstEntry s = .next t ∧ StateEntered s t i r .start true
        ∧ EntryRecorded s s t i .start false true ∧ ActionsScheduled s t i r true
        ∧ ConditionsAtEntry s t r true ∧ OutputsAtEntry s t i r true)
    ∧ (s.timedStart = true → (∀ t0, s.seq.startTime = some t0 → s.timeOfDay ≠ t0 % daySpan) →
      exec .firstEntry s = .next s)
    ∧ (s.timedStart = false → (∀ b, s.seq.startBoundary = some b → s.now < b) →
      exec .firstEntry s = .next s)
    ∧ (∀ b, s.timedStart = false → s.seq.startBoundary = some b → b ≤ s.now →
        (∀ r, EnteredRecord s i r → s.seq.chosen = none →
          s.inceptionReached (s.inceptionOf (.state i)) = true →
          ∃ t, exec .firstEntry s = .next t ∧ StateEntered s t i r .start true
            ∧ EntryRecorded s s t i .start s.seq.deferring true ∧ ActionsScheduled s t i r true
            ∧ ConditionsAtEntry s t r true ∧ OutputsAtEntry s t i r true)
        ∧ (∀ r c, EnteredRecord s i r → s.seq.chosen = some c → s.inceptionReached c.inception = true →
          ∃ t, exec .firstEntry s = .next t ∧ StateEntered s t i r .start true
            ∧ EntryRecorded s s t i .start s.seq.deferring true ∧ ActionsScheduled s t i r true
            ∧ ConditionsAtEntry s t r true ∧ OutputsAtEntry s t i r true)
        ∧ (s.seq.chosen = none → s.seq.deferring = false →
          s.inceptionReached (s.inceptionOf (.state i)) = false →
          exec .firstEntry s = .next { s with
            seq := { s.seq with
              chosen := some { target := .state i, cause := .start, boundary := s.now
                               inception := s.inceptionOf (.state i) }
              deferring := true }
            time := { s.time with boundaryPassed := true } })
        ∧ (∀ c, s.seq.chosen = some c → s.seq.deferring = true → s.inceptionReached c.inception = false →
          exec .firstEntry s = .next s))

/-- STATE_ENTRY (R29 to R35, R83, R107, R115): at its boundary the chosen state is entered, the visit before it having
ended on its captures, with its records before all those of the entry (R30; those of the outputs that follow receive:
DEDUCED, log 30), and the edits having been applied; the conditions are evaluated. An inception not yet reached
defers the entry, and the visit goes on. Where no state is chosen nothing happens (log 2). -/
def Obligations.StateEntryMakesTheTransition : Prop :=
  ∀ s : State,
    (s.choiceOfState = none → exec .stateEntry s = .next s)
    ∧ (∀ c i v, s.choiceOfState = some (c, i) → s.seq.visit = some v →
        (∀ r, s.inceptionReached c.inception = true → EnteredRecord s i r →
          ∃ t, exec .stateEntry s = .next t ∧ StateEntered s t i r c.cause false
            ∧ EntryRecorded s (s.endVisit false) t i c.cause s.seq.deferring false
            ∧ ActionsScheduled s t i r false ∧ ConditionsAtEntry s t r false ∧ OutputsAtEntry s t i r false
            ∧ t.seq.softEnd = none)
        ∧ (s.inceptionReached c.inception = false → s.seq.deferring = true →
          exec .stateEntry s = .next s)
        ∧ (s.inceptionReached c.inception = false → s.seq.deferring = false →
          exec .stateEntry s = .next { s with
            seq := { s.seq with chosen := some c, deferring := true }
            time := { s.time with boundaryPassed := true } }))


/-! ### The end of a shot -/

/-- What the start of RAMPING_DOWN leaves (R37, R65, R153, R164): `s` is the state before the event. -/
def RampDownEntered (s t : State) : Prop :=
  t.seq.phase = .rampingDown ∧ t.seq.rampDownAt = some s.now ∧ t.seq.visit = none ∧ t.seq.chosen = none
  ∧ t.seq.deferring = false ∧ t.seq.softEnd = none ∧ t.seq.endAtExit = false
  ∧ t.guard = { s.guard with expiry := none }
  ∧ (∀ c : Channel, t.synth.channels.get c = { s.synth.channels.get c with offset := 0 })
  ∧ t.synth.ramp = s.synth.ramp ∧ t.breaker = s.breaker ∧ t.assess = none
  ∧ t.actions = { s.actions with entries := s.actions.entries.filter fun a => a.owner.isNone }
  ∧ t.tp = { s.tp with receive := false }
  ∧ t.time = { s.time with boundaryPassed := true }
  ∧ (∀ n : Fin 4, t.outputs[n].role = s.outputs[n].role
      ∧ (s.outputs[n].role = .tpReceive → s.tp.receive = true → t.outputs[n].level = false)
      ∧ (s.outputs[n].role ≠ .tpReceive → t.outputs[n] = s.outputs[n]))
  ∧ t.store = s.store ∧ t.edit = s.edit ∧ t.amp = s.amp ∧ t.inputs = s.inputs

/-- EXIT_TO_END (R36, R43, R148): where the choice of the boundary is END, the visit ends on its captures,
the shot ends COMPLETED, or ABORTED for a pending AT_STATE_END, and a peer-linked shot sends END. -/
def ExitToEnd (s : State) : Prop :=
  (s.exitDue = false → exec .exitToEnd s = .next s)
  ∧ (∀ v c, s.seq.visit = some v → s.choiceOpen = true → s.transition = some c → c.target = .finish →
      ∃ t cause, exec .exitToEnd s = .next t ∧ ClosingEntered s t
        ∧ cause = (if s.seq.endAtExit then EndCause.abort .aborted else .completed)
        ∧ t.seq.endCause = some cause ∧ t.seq.secondary = s.seq.secondary
        ∧ t.assess = none ∧ t.time = { s.time with boundaryPassed := true }
        ∧ t.peer = { s.peer with
            sent := if s.seq.peerLinked = true ∧ s.peer.link = .up then s.peer.sent ++ [.finish cause]
                    else s.peer.sent }
        ∧ t.store = s.store ∧ t.edit = s.edit ∧ t.amp = s.amp ∧ t.inputs = s.inputs
        ∧ VisitEndLogged s t false [])

/-- SHOT_LIMIT and RAMP_DOWN_START (R36, R37, R107, R148): at the boundary of the limit, or of a soft abort, the
visit ends as one ended by an abort, with ABORTED verdicts, and RAMPING_DOWN begins; the limit is taken as a cause
first, which a peer-linked shot reports. -/
def RampDownBegins (s : State) : Prop :=
  (s.shotLimitDue = false → exec .shotLimit s = .next s)
  ∧ (s.rampDownStartDue = false → exec .rampDownStart s = .next s)
  ∧ (∀ v, s.seq.visit = some v → s.seq.phase = .running → s.time.counter % 100 = 0 →
      s.time.boundaryPassed = false →
      (∀ f, s.seq.firstEntryAt = some f → f + 3600000000 ≤ s.now → s.seq.endCause = none →
        ∃ t, exec .shotLimit s = .next t ∧ RampDownEntered s t
          ∧ t.seq.endCause = some (.abort .shotLimit) ∧ t.seq.secondary = s.seq.secondary
          ∧ t.peer = { s.peer with sent := SentWithAbort s .shotLimit }
          ∧ RecordFirst s t (s.shotTime s.now) (.abort .shotLimit false)
          ∧ VisitEndLogged s t true [s.makeRecord (s.shotTime s.now) (.abort .shotLimit false)])
      ∧ (∀ e, s.seq.softEnd = some e → e ≤ s.now →
        ∃ t, exec .rampDownStart s = .next t ∧ RampDownEntered s t
          ∧ t.seq.endCause = s.seq.endCause ∧ t.seq.secondary = s.seq.secondary ∧ t.peer = s.peer
          ∧ VisitEndLogged s t true []))

/-- RAMP_DOWN_END (R37, R65): after the 200 samples of the ramp-down the phase becomes CLOSING, with the
causes as they stand. -/
def RampDownEnds (s : State) : Prop :=
  (s.rampDownEndDue = false → exec .rampDownEnd s = .next s)
  ∧ (∀ e, s.seq.phase = .rampingDown → s.seq.visit = none → s.seq.rampDownAt = some e → e + 20000 ≤ s.now →
      ∃ t, exec .rampDownEnd s = .next t ∧ ClosingEntered s t
        ∧ t.seq.endCause = s.seq.endCause ∧ t.seq.secondary = s.seq.secondary
        ∧ t.time = s.time ∧ t.peer = s.peer ∧ t.store = s.store ∧ t.amp = s.amp ∧ t.inputs = s.inputs
        ∧ t.log.verdicts = s.log.verdicts)

/-- CLOSING_LINGER_END (R44, R61, R70, R114, R116, R142, R161): 50,000 µs after the entry to CLOSING the
SHOT_END record takes its reserved slot, the phase becomes IDLE, SHOT_ENDED is raised, and pending copies
are applied where neither port holds. -/
def LingerEnds (s : State) : Prop :=
  (s.lingerDue = false → exec .closingLingerEnd s = .next s)
  ∧ (∀ e cause, s.seq.phase = .closing → s.seq.closingAt = some e → e + 50000 ≤ s.now →
      s.seq.endCause = some cause →
      ∃ t clips, exec .closingLingerEnd s = .next t
        ∧ t = { s with
            store := t.store
            seq := { s.seq with phase := .idle, closingAt := none }
            synth := { s.synth with ramp := RampContext.powerOn }
            amp := { s.amp with channels := t.amp.channels }
            log := { s.log with
              records := s.log.records
                ++ [{ shot := s.seq.shotNumber, time := s.shotTime s.now, degraded := false
                      body := .shotEnd cause s.seq.secondary s.log.lost s.log.saturated clips s.log.verdicts
                        (if s.time.degraded then .degraded else .good) }]
              reservation := 0 }
            drains := t.drains
            peer := { s.peer with agreement := .none }
            ports := t.ports }
        ∧ (∀ c : Channel, PerChannel.get clips c = (s.synth.channels.get c).clip
            ∧ t.amp.channels.get c = { s.amp.channels.get c with overload := 0, missing := 0 })
        ∧ Raised s t .shotEnded
        ∧ (s.noHold = true → PendingCopiesApplied s t) ∧ (s.noHold = false → t.store = s.store)
        ∧ t.store.config = s.store.config)

/-- EXIT_TO_END, SHOT_LIMIT, RAMP_DOWN_START, RAMP_DOWN_END and CLOSING_LINGER_END, each at its instant; at
any other it does nothing (log 2). That the sequencer keeps, after the return to IDLE, its items that R45 and
R46 do not name is DEDUCED (log 33). That the shot quality stands then (log 43), that the ABORT record of SHOT_LIMIT
stands first (log 42) and the records of the visit's end before those of the outputs (log 40), and the items of a
ramp context of state NONE (log 31) are the model's choices. -/
def Obligations.ShotEndsInOrder : Prop :=
  ∀ s : State, ExitToEnd s ∧ RampDownBegins s ∧ RampDownEnds s ∧ LingerEnds s

/-! ### The Time Base -/

/-- A re-phase (R132): the counter becomes 0, and the second that begins takes the loaded number, or the
next one where the counter had passed its half. -/
def Rephased (t u : TimeBase) : Prop :=
  u.counter = 0 ∧ u.loaded = none ∧ u.nextSecond = none
    ∧ u.seconds = match t.loaded with
        | some n => n
        | none => if 500000 ≤ t.counter then (t.seconds + 1) % 4294967296 else t.seconds

/-- An edge that leaves counter and seconds as they run. -/
def CountKept (t u : TimeBase) : Prop :=
  u.counter = t.counter ∧ u.seconds = t.seconds ∧ u.loaded = t.loaded ∧ u.nextSecond = t.nextSecond

/-- An edge that does not re-phase takes a loaded value: at once where its error is 0 or more, and for the
second after the coming wrap where it is negative (R130). -/
def LoadedTaken (t u : TimeBase) (e : Int) : Prop :=
  u.counter = t.counter ∧ u.loaded = none
    ∧ match t.loaded with
      | none => u.seconds = t.seconds ∧ u.nextSecond = t.nextSecond
      | some n =>
          (0 ≤ e → u.seconds = n ∧ u.nextSecond = t.nextSecond)
            ∧ (e < 0 → u.seconds = t.seconds ∧ u.nextSecond = some n)

/-- The slew left by a small error: towards the edge, and as it was for an error of 0 (R133). -/
def SlewAfter (t : TimeBase) (e : Int) : Slew := if 0 < e then .insert else if e < 0 then .drop else t.slew

/-- A shot is active that was armed LOCKED, so that its quality follows the lock state (R136). -/
def QualityFollows (s : State) : Prop := s.seq.phase ≠ .idle ∧ s.time.armedLocked = true

/-- The quality and the degraded flag of a shot after the lock state has become another one than LOCKED (R136). In
IDLE they stand: DESIGN CHOICE (log 43). -/
def QualityLost (s t : State) : Prop :=
  (QualityFollows s → t.time.quality = .degraded ∧ t.time.degraded = true)
  ∧ (¬ QualityFollows s → t.time.quality = s.time.quality ∧ t.time.degraded = s.time.degraded)

/-- PPS_EDGE (R131 to R133, R135): its phase error and local time are stored. In LOCKED and HOLDOVER an
error of at most 20 µs is slewed and the state is LOCKED; a larger one leads to LOCKING. In FREE it leads to
LOCKING. In LOCKING good intervals are counted, and the third with a small error left leads to LOCKED. An
edge that does not slew re-phases while no shot is active. -/
def PpsEdge (s : State) : Prop :=
  ∃ t e, exec .ppsEdge s = .next t
    ∧ e = (if s.time.counter < 500000 then (s.time.counter : Int) else s.time.counter - 1000000)
    ∧ t.time.lastEdge = some s.time.localTime ∧ t.time.lastError = e
    ∧ t.time.localTime = s.time.localTime
    ∧ ((s.time.lock = .locked ∨ s.time.lock = .holdover) → -20 ≤ e → e ≤ 20 →
        t.time.lock = .locked ∧ t.time.slew = SlewAfter s.time e ∧ t.time.good = s.time.good
        ∧ (s.seq.phase ≠ .idle → CountKept s.time t.time)
        ∧ (s.seq.phase = .idle → LoadedTaken s.time t.time e))
    ∧ ((s.time.lock = .free ∨ ((s.time.lock = .locked ∨ s.time.lock = .holdover) ∧ (e < -20 ∨ 20 < e))) →
        t.time.lock = .locking ∧ t.time.good = 0
        ∧ (s.time.lock = .locked → t.time.slew = .none)
        ∧ (s.seq.phase ≠ .idle → CountKept s.time t.time)
        ∧ (s.seq.phase = .idle → Rephased s.time t.time))
    ∧ (s.time.lock = .locking →
        t.time.slew = .none
        ∧ (∀ last, s.time.lastEdge = some last →
            999998 ≤ s.time.localTime - last → s.time.localTime - last ≤ 1000002 →
            t.time.good = min 3 (s.time.good + 1))
        ∧ ((∀ last, s.time.lastEdge = some last →
              s.time.localTime - last < 999998 ∨ 1000002 < s.time.localTime - last) →
            t.time.good = 0)
        ∧ (t.time.lock = if t.time.good = 3 ∧ (s.seq.phase = .idle ∨ (-20 ≤ e ∧ e ≤ 20)) then .locked
                         else .locking)
        ∧ (s.seq.phase ≠ .idle → CountKept s.time t.time)
        ∧ (s.seq.phase = .idle → Rephased s.time t.time))
    ∧ (t.time.lock = s.time.lock → t = { s with time := t.time } ∧ t.time.quality = s.time.quality
        ∧ t.time.degraded = s.time.degraded)
    ∧ (t.time.lock ≠ s.time.lock →
        Raised s t .timeQuality
        ∧ (t.time.lock ≠ .locked → QualityLost s t)
        ∧ (t.time.lock = .locked → t.time.degraded = s.time.degraded
            ∧ (QualityFollows s → t.time.quality = .good)
            ∧ (¬ QualityFollows s → t.time.quality = s.time.quality))
        ∧ ((s.seq.phase ≠ .armed ∨ s.timedStart = false) → t = { s with time := t.time, ports := t.ports })
        ∧ (s.time.lock = .locked → s.seq.phase = .armed → s.seq.visit = none → s.timedStart = true →
            AbortedInArmed { s with time := t.time } t .timeLost))

/-- SLEW_POINT (R134): at counter 500,004, in LOCKED or HOLDOVER with a slew pending, INSERT holds the counter
for one microsecond and DROP advances it by two; the slew is then made. -/
def SlewPoint (s : State) : Prop :=
  (s.time.slewDue = false → exec .slewPoint s = .next s)
  ∧ (s.time.counter = 500004 → (s.time.lock = .locked ∨ s.time.lock = .holdover) →
      (s.time.slew = .insert → exec .slewPoint s = .next { s with time := { s.time with slew := .none } })
      ∧ (s.time.slew = .drop →
          exec .slewPoint s = .next { s with time := { s.time with
            slew := .none, counter := 500006
            localTime := (s.time.localTime + 2) % 18446744073709551616
            boundaryPassed := false, sampleDone := false, inputsDone := false, endFixed := false } }))

/-- PPS_TIMEOUT and HOLDOVER_TIMEOUT (R135 to R137): 1,100 ms without an edge lead from LOCKED to HOLDOVER and
from LOCKING to FREE, and a further 60 s from HOLDOVER to FREE; a shot armed for a start time is not kept
past LOCKED, and the quality of one armed LOCKED is DEGRADED. -/
def PpsTimeouts (s : State) : Prop :=
  (s.time.timeoutDue = false → exec .ppsTimeout s = .next s)
  ∧ (s.time.holdoverDue = false → exec .holdoverTimeout s = .next s)
  ∧ (∀ e, s.time.lastEdge = some e →
      (s.time.lock = .locked → e + 1100000 ≤ s.time.localTime →
        ∃ t, exec .ppsTimeout s = .next t ∧ t.time.lock = .holdover ∧ Raised s t .timeQuality
          ∧ QualityLost s t
          ∧ (t.time = { s.time with
              lock := .holdover, quality := t.time.quality, degraded := t.time.degraded })
          ∧ ((s.seq.phase ≠ .armed ∨ s.timedStart = false) → t = { s with time := t.time, ports := t.ports })
          ∧ (s.seq.phase = .armed → s.seq.visit = none → s.timedStart = true →
              AbortedInArmed { s with time := t.time } t .timeLost))
      ∧ (s.time.lock = .locking → e + 1100000 ≤ s.time.localTime →
        ∃ t, exec .ppsTimeout s = .next t ∧ t.time.lock = .free ∧ t.time.good = 0 ∧ Raised s t .timeQuality
          ∧ QualityLost s t
          ∧ t.time = { s.time with
              lock := .free, good := 0, quality := t.time.quality, degraded := t.time.degraded }
          ∧ t = { s with time := t.time, ports := t.ports })
      ∧ (s.time.lock = .holdover → e + 61100000 ≤ s.time.localTime →
        ∃ t, exec .holdoverTimeout s = .next t ∧ t.time.lock = .free ∧ Raised s t .timeQuality
          ∧ QualityLost s t
          ∧ t.time = { s.time with lock := .free, quality := t.time.quality, degraded := t.time.degraded }
          ∧ t = { s with time := t.time, ports := t.ports }))

/-- SET_TIME (R130): the seconds are stored for the next edge that may take them; nothing else changes. -/
def SetTimeLoads (s : State) : Prop :=
  ∀ (p : Port) (seconds : Nat), s.excluded p = false → seconds < 4294967296 →
    exec (.setTime p seconds) s = .next (State.answered
      { s with time := { s.time with loaded := some seconds } } p .ok .none)

/-- SET_TIME, PPS_EDGE, SLEW_POINT, PPS_TIMEOUT and HOLDOVER_TIMEOUT; an event that is not due does nothing
(log 2). That OK of SET_TIME carries no data (log 38), that the shot quality and the degraded flag stand at a lock
change in IDLE, of which R136 does not speak (log 43), and that an edge in LOCKED slews whatever a shot deferred
(log 45), are the model's choices, and the number that waits for the wrap is DEDUCED (log 26). -/
def Obligations.ClockFollowsThePps : Prop :=
  ∀ s : State, SetTimeLoads s ∧ PpsEdge s ∧ SlewPoint s ∧ PpsTimeouts s

/-! ### The peer link -/

/-- The link state becomes `l` (R142, R145): a change raises PEER_LINK, and a peer-linked shot that leaves UP
before the far end has finished takes a soft abort with cause PEER_LOST, the secondary cause where one waits for its
boundary (the last DEDUCED, log 12). -/
def LinkBecomes (s t : State) (l : LinkState) : Prop :=
  t.peer.link = l
  ∧ (s.peer.link = l → t = s)
  ∧ (s.peer.link ≠ l → Raised s t .peerLink)
  ∧ ((s.peer.link ≠ .up ∨ s.seq.peerLinked = false ∨ (s.seq.phase ≠ .armed ∧ s.seq.phase ≠ .running)
        ∨ s.peer.farEnded ≠ none) →
      t = { s with peer := { s.peer with link := l }, ports := t.ports })
  ∧ (s.peer.link = .up → l ≠ .up → s.seq.peerLinked = true → s.peer.farEnded = none →
      (s.seq.phase = .armed → s.seq.visit = none →
        AbortedInArmed { s with peer := { s.peer with link := l } } t .peerLost)
      ∧ (s.seq.phase = .running → s.seq.endCause = none →
        SoftAbortTaken { s with peer := { s.peer with link := l } } t .peerLost
        ∧ t = { s with seq := t.seq, log := t.log, drains := t.drains, peer := t.peer, ports := t.ports })
      ∧ (s.seq.phase = .running → s.seq.endCause ≠ none → s.seq.softEnd ≠ none →
        SecondaryTaken s t .peerLost
        ∧ t = { s with
            seq := t.seq, log := t.log, drains := t.drains, peer := { s.peer with link := l }, ports := t.ports }))

/-- A valid frame has been heard: the loss timer runs anew (R143). -/
def Heard (s : State) : State := { s with peer := { s.peer with lossAt := some (s.now + 50000) } }

/-- A frame that the far end sends, other than HELLO (Table 9-2). -/
def CarriesNews : Instr → Prop
  | .keepalive | .startPropose _ | .startAccept _ | .startReject .. | .eventFrame .. | .stateFrame ..
  | .abortFrame _ | .endFrame _ => True
  | _ => False

/-- HELLO, KEEPALIVE, INVALID_PEER_FRAME, SEND_TIMER_EXPIRY and LOSS_TIMER_EXPIRY (R143, R144, R146): a HELLO
of the part's own version stores the tag and moves the link; another version and an invalid frame are
discarded and counted, up to 65,535; in DOWN any other frame only restarts the loss timer, and in LINKING it
makes the link UP first; every 10,000 µs a HELLO or KEEPALIVE is sent, and with it a START_PROPOSE while
PROPOSING, after the KEEPALIVE of the same expiry (DESIGN CHOICE, log 48); a silence of 50,000 µs makes the link
DOWN. A timer that has not expired does nothing (log 2). -/
def Obligations.LinkFollowsTheFrames : Prop :=
  ∀ s : State,
    exec .invalidPeerFrame s = .next { s with peer := { s.peer with
      discards := min 65535 (s.peer.discards + 1) } }
    ∧ (∀ version tag heard, version ≠ Config.protocolVersion →
        exec (.hello version tag heard) s = .next { s with peer := { s.peer with
          discards := min 65535 (s.peer.discards + 1) } })
    ∧ (∀ tag heard, ∃ t, exec (.hello Config.protocolVersion tag heard) s = .next t
        ∧ LinkBecomes { s with peer := { s.peer with lossAt := some (s.now + 50000), farTag := some tag } } t
            (if heard then .up else .linking))
    ∧ (∀ c, CarriesNews c → s.peer.link = .down → exec c s = .next (Heard s))
    ∧ (∀ c, CarriesNews c → s.peer.link = .linking →
        ∃ u, LinkBecomes s u .up ∧ exec c s = exec c u)
    ∧ (s.peer.link = .up → exec .keepalive s = .next (Heard s))
    ∧ (s.now < s.peer.sendAt → exec .sendTimerExpiry s = .next s)
    ∧ (s.peer.sendAt ≤ s.now →
        exec .sendTimerExpiry s = .next { s with peer := { s.peer with
          sendAt := s.peer.sendAt + 10000
          sent := s.peer.sent
            ++ (match s.peer.link with
                | .down => [.hello Config.protocolVersion Config.serialTag false]
                | .linking => [.hello Config.protocolVersion Config.serialTag true]
                | .up => [.keepalive])
            ++ (match s.peer.link, s.peer.agreement, s.seq.startTime with
                | .up, .proposing, some u => [.startPropose u]
                | _, _, _ => []) } })
    ∧ ((∀ e, s.peer.lossAt = some e → s.now < e) → exec .lossTimerExpiry s = .next s)
    ∧ (∀ e, s.peer.lossAt = some e → e ≤ s.now →
        ∃ t, exec .lossTimerExpiry s = .next t
          ∧ LinkBecomes { s with peer := { s.peer with lossAt := none } } t .down)

/-- A frame is answered while the link is UP. -/
def Answered (s : State) (f : PeerFrame) : State :=
  { s with peer := { s.peer with lossAt := some (s.now + 50000), sent := s.peer.sent ++ [f] } }

/-- START_PROPOSE, by the first row of Table 9-3 that applies (R147). -/
def ProposalAnswered (s : State) (u : AbsTime) : Prop :=
  ((s.seq.phase ≠ .armed ∨ s.seq.mode ≠ some .peer) →
    exec (.startPropose u) s = .next (Answered s (.startReject u .notArmed)))
  ∧ (s.seq.phase = .armed → s.seq.mode = some .peer →
      (s.peer.agreement = .agreed → s.seq.startTime = some u →
        exec (.startPropose u) s = .next (Answered s (.startAccept u)))
      ∧ (s.peer.agreement = .agreed → s.seq.startTime ≠ some u →
        exec (.startPropose u) s = .next (Answered s (.startReject u .alreadyAgreed)))
      ∧ (s.peer.agreement ≠ .agreed →
        (s.time.lock ≠ .locked →
          exec (.startPropose u) s = .next (Answered s (.startReject u .notLocked)))
        ∧ (s.time.lock = .locked → s.aheadOf u < 200000 →
          exec (.startPropose u) s = .next (Answered s (.startReject u .tooLate)))
        ∧ (s.time.lock = .locked → 200000 ≤ s.aheadOf u →
          exec (.startPropose u) s = .next { s with
            seq := { s.seq with startTime := some u }
            peer := { s.peer with
              agreement := .agreed, lossAt := some (s.now + 50000)
              sent := s.peer.sent ++ [.startAccept u] } })))

/-- START_PROPOSE, START_ACCEPT, START_REJECT and ACCEPT_DEADLINE with the link UP (R146, R147, Table 9-3): a
proposal is answered; a matching acceptance makes the proposing end AGREED; a refusal is stored, and
TOO_LATE or ALREADY_AGREED, like a deadline 100,000 µs before the start, ends the shot with PEER_REFUSED.
That a START_REJECT is not compared with the proposal (log 25), and that the distance of a start time is taken the
shorter way round the day span (log 35), are DEDUCED. An ACCEPT_DEADLINE that is not due does nothing (log 2). -/
def Obligations.StartsAreAgreed : Prop :=
  ∀ (u : AbsTime) (s : State),
    (s.peer.link = .up →
      ProposalAnswered s u
      ∧ ((s.peer.agreement ≠ .proposing ∨ s.seq.startTime ≠ some u) →
          exec (.startAccept u) s = .next (Heard s))
      ∧ (s.peer.agreement = .proposing → s.seq.startTime = some u →
          exec (.startAccept u) s = .next { s with peer := { s.peer with
            agreement := .agreed, lossAt := some (s.now + 50000) } })
      ∧ (∀ r, s.peer.agreement ≠ .proposing → exec (.startReject u r) s = .next (Heard s))
      ∧ (∀ r, s.peer.agreement = .proposing → (r = .notArmed ∨ r = .notLocked) →
          exec (.startReject u r) s = .next { s with peer := { s.peer with
            lastReject := some r, lossAt := some (s.now + 50000) } })
      ∧ (∀ r, s.peer.agreement = .proposing → (r = .alreadyAgreed ∨ r = .tooLate) →
          s.seq.phase = .armed → s.seq.visit = none →
          ∃ t, exec (.startReject u r) s = .next t
            ∧ AbortedInArmed
                { s with peer := { s.peer with lastReject := some r, lossAt := some (s.now + 50000) } } t
                .peerRefused))
    ∧ (s.deadlineDue = false → exec .acceptDeadline s = .next s)
    ∧ (s.seq.startTime = some u → s.seq.phase = .armed → s.seq.visit = none → s.peer.agreement = .proposing →
        s.aheadOf u ≤ 100000 →
        ∃ t, exec .acceptDeadline s = .next t ∧ AbortedInArmed s t .peerRefused)

/-! ### Remote events and teleprotection -/

/-- An absolute time on the shot scale (R110, R148, R150): less the time of the first entry, 0 before it and
while there is none. A shot time has 32 bits; beyond them it is a free value of 32 bits (log 37). -/
def RemoteTimesOnTheShotScale (s : State) : Prop :=
  ∀ u : AbsTime,
    s.shotTimeOfAbs u < 4294967296
    ∧ (s.seq.firstEntryAt = none → s.shotTimeOfAbs u = 0)
    ∧ ∀ f b, s.seq.firstEntryAt = some f → s.seq.startTime = some b →
        (aheadBy u b ≤ 0 → s.shotTimeOfAbs u = 0)
        ∧ (0 ≤ aheadBy u b → aheadBy u b < 4294967296 → (s.shotTimeOfAbs u : Int) = aheadBy u b)

/-- EVENT with the link UP (R150, R152): with the shot flag it is logged with origin REMOTE in a peer-linked
shot, and otherwise counted as a late drop; with the carrier flag it is an edge where the source is PEER; with
both flags it is first the one and then the other. A logged one counts a free value (log 37). -/
def EventTaken (s : State) : Prop :=
  ∀ (input : Nat) (role : InputRole) (level : Bool) (eventTime : AbsTime),
    exec (.eventFrame input role level eventTime false false) s = .next (Heard s)
    ∧ (s.peerShot = false →
        exec (.eventFrame input role level eventTime true false) s = .next { s with peer := { s.peer with
          lossAt := some (s.now + 50000), lateDrops := min 65535 (s.peer.lateDrops + 1) } })
    ∧ (s.peerShot = true →
        ∃ t, exec (.eventFrame input role level eventTime true false) s = .next t
          ∧ t = { Heard s with
              log := t.log, drains := t.drains, ports := t.ports, freeUsed := s.freeUsed + 1 }
          ∧ t.log = s.log.offered
              (s.makeRecord (s.shotTimeOfAbs eventTime) (.inputChange input level true eventTime)))
    ∧ (s.tp.source ≠ .peer →
        exec (.eventFrame input role level eventTime false true) s = .next (Heard s))
    ∧ (s.tp.source = .peer →
        ∃ t, exec (.eventFrame input role level eventTime false true) s = .next t
          ∧ t.peer = (Heard s).peer ∧ EdgeTaken s t level (s.aheadOf (eventTime + s.tp.delay * 100)))
    ∧ ∃ m, exec (.eventFrame input role level eventTime true false) s = .next m
        ∧ (s.tp.source ≠ .peer → exec (.eventFrame input role level eventTime true true) s = .next m)
        ∧ (s.tp.source = .peer →
            ∃ t, exec (.eventFrame input role level eventTime true true) s = .next t
              ∧ t.peer = m.peer ∧ EdgeTaken m t level (s.aheadOf (eventTime + s.tp.delay * 100)))

/-- TP_EDGE_DUE (R153, R154): the edge that falls due next leaves the list and is applied, receive following
in an unblocked state: a change of receive is delivered as signal 15 with the due time as its change time, and
the TP_RECEIVE outputs follow it. Where the edge was the last with a resync pending, all this is done first, and then
the last received level is applied at this instant in the same way, with a RESYNC record, unless it is applied
already. -/
def EdgeFallsDue (s : State) : Prop :=
  ((∀ a, s.dueAction = some a → a.work.group ≠ .tpEdge) → exec .tpEdgeDue s = .next s)
  ∧ (∀ a level, s.dueAction = some a → a.work = .tpEdge level →
      ∃ t, exec .tpEdgeDue s = .next t
        ∧ t = { s with
            seq := t.seq, synth := t.synth, outputs := t.outputs, assess := t.assess, log := t.log
            drains := t.drains, actions := t.actions, tp := t.tp, ports := t.ports }
        ∧ t.seq.phase = s.seq.phase ∧ t.actions.held .tpEdge + 1 = s.actions.held .tpEdge
        ∧ ((s.tp.resync = false ∨ 1 < s.actions.held .tpEdge) →
            t.tp = { s.tp with applied := level, receive := ReceiveFor s level }
            ∧ OutputsFollowReceive s t
            ∧ (t.tp.receive ≠ s.tp.receive →
                ConsumersTake s t { s.actions with entries := s.actions.entries.erase a } 15 t.tp.receive a.due)
            ∧ (t.tp.receive = s.tp.receive →
                NothingDelivered s t ∧ t.actions = { s.actions with entries := s.actions.entries.erase a }))
        ∧ ((∀ n : Fin 4, s.outputs[n].role = .tpReceive → s.outputs[n].level = s.tp.receive) →
            ∀ n : Fin 4, t.outputs[n].role = s.outputs[n].role
              ∧ (s.outputs[n].role = .tpReceive → t.outputs[n].level = t.tp.receive)
              ∧ (s.outputs[n].role ≠ .tpReceive → t.outputs[n] = s.outputs[n]))
        ∧ (s.tp.resync = true → s.actions.held .tpEdge = 1 →
            t.tp = { s.tp with
              applied := s.tp.lastReceived, receive := ReceiveFor s s.tp.lastReceived, resync := false }
            ∧ (level ≠ s.tp.lastReceived → TpEventLogged s t .resync)
            ∧ ∃ m, exec .tpEdgeDue { s with tp := { s.tp with resync := false } } = .next m
              ∧ (level = s.tp.lastReceived → t = m)
              ∧ (level ≠ s.tp.lastReceived →
                  OutputsFollowReceive m t
                  ∧ (t.tp.receive ≠ m.tp.receive → ConsumersTake m t m.actions 15 t.tp.receive s.now)
                  ∧ (t.tp.receive = m.tp.receive → NothingDelivered m t ∧ t.actions = m.actions))))

/-- STATE, ABORT and END with the link UP (R40, R148): the far state and the far end cause are stored in a
peer-linked shot; an ABORT ends it with PEER_ABORT, softly, or is the secondary cause in RAMPING_DOWN and while a
soft abort waits (the last DEDUCED, log 12); outside such a shot they do nothing. A far state stored counts a free
value (log 37). -/
def FarEndReports (s : State) : Prop :=
  (s.peerShot = false →
    (∀ i c u, exec (.stateFrame i c u) s = .next (Heard s))
    ∧ (∀ c, exec (.endFrame c) s = .next (Heard s))
    ∧ (∀ c, exec (.abortFrame c) s = .next (Heard s)))
  ∧ (s.peerShot = true →
    (∀ i c u, exec (.stateFrame i c u) s = .next { s with
        peer := { s.peer with
          lossAt := some (s.now + 50000)
          farState := some { state := i, cause := c, entryShot := s.shotTimeOfAbs u } }
        freeUsed := s.freeUsed + 1 })
    ∧ (∀ c, exec (.endFrame c) s = .next { s with peer := { s.peer with
        lossAt := some (s.now + 50000), farEnded := some c } })
    ∧ (∀ c, s.seq.phase = .running → s.seq.endCause = none →
        ∃ t, exec (.abortFrame c) s = .next t ∧ SoftAbortTaken (Heard s) t .peerAbort
          ∧ t = { s with
              seq := t.seq, log := t.log, drains := t.drains, peer := t.peer, ports := t.ports })
    ∧ (∀ c, s.seq.phase = .armed → s.seq.visit = none →
        ∃ t, exec (.abortFrame c) s = .next t ∧ AbortedInArmed (Heard s) t .peerAbort)
    ∧ (∀ c, (s.seq.phase = .rampingDown
          ∨ (s.seq.phase = .running ∧ s.seq.endCause ≠ none ∧ s.seq.softEnd ≠ none)) →
        ∃ t, exec (.abortFrame c) s = .next t ∧ SecondaryTaken s t .peerAbort
          ∧ t = { Heard s with seq := t.seq, log := t.log, drains := t.drains, ports := t.ports })
    ∧ (∀ c, s.seq.phase = .closing → exec (.abortFrame c) s = .next (Heard s)))

/-- EVENT, STATE, ABORT and END frames with the link UP, and TP_EDGE_DUE, which does nothing where no edge is
due (log 2). That the distance between absolute times, and so the shot scale and the due time of an edge, is taken the
shorter way round the day span, is DEDUCED (log 35). That an EVENT's input that is 0 or above 12 and a STATE's state
above 31 are taken as they stand is a DESIGN CHOICE (log 9). -/
def Obligations.RemoteEventsAreTaken : Prop :=
  ∀ s : State,
    (s.peer.link = .up → EventTaken s ∧ FarEndReports s) ∧ RemoteTimesOnTheShotScale s ∧ EdgeFallsDue s

/-! ### The byte layouts -/

/-- The bytes of a stored record are 216; a WRITE_STATE frame that carries them is read as the command, and
what it writes passes the checks again and is the record itself (Tables 12-1, 12-5 and 12-6). -/
def Obligations.RecordBytesRoundTrip : Prop :=
  ∀ (p : Port) (cfg : PerChannel ChannelConfig) (index expected : Nat) (raw : RawRecord) (r : StateRecord),
    raw.wellFormed = true → firstFailure (recordChecks cfg index raw) = none → expected < 65536 →
    r = RawRecord.stored raw →
    (StateRecord.bytes r).length = 216
    ∧ commandOfFrame p ([0x07#8, 219#8] ++ bytesOf 1 index ++ bytesOf 2 expected ++ StateRecord.bytes r)
        = .writeState p index expected (recordOfBytes (StateRecord.bytes r))
    ∧ firstFailure (recordChecks cfg index (recordOfBytes (StateRecord.bytes r))) = none
    ∧ RawRecord.stored (recordOfBytes (StateRecord.bytes r)) = r

/-- The event that a frame is at the far end. -/
def arrival : PeerFrame → Instr
  | .hello version tag heard => .hello version tag heard
  | .keepalive => .keepalive
  | .startPropose t => .startPropose t
  | .startAccept t => .startAccept t
  | .startReject t r => .startReject t r
  | .event input role level t shot carrier => .eventFrame input role level t shot carrier
  | .state i cause t => .stateFrame i cause t
  | .abort c => .abortFrame c
  | .finish c => .endFrame c

/-- The bytes of a frame sent are read at the far end as that frame, with every field, its length and its
CRC; a frame that has lost its last byte is not valid (R143, Table 12-8). -/
def Obligations.PeerFramesRoundTrip : Prop :=
  ∀ f : PeerFrame, (arrival f).wellFormed = true →
    (∀ t, (f = .startPropose t ∨ f = .startAccept t ∨ (∃ r, f = .startReject t r)
        ∨ (∃ i c, f = .state i c t) ∨ ∃ i r l a b, f = .event i r l t a b) → t < daySpan) →
    eventOfPeerFrame f.bytes = arrival f ∧ eventOfPeerFrame f.bytes.dropLast = .invalidPeerFrame

/-- The fields of a record's body fit the bytes that Table 12-7 gives them. -/
def BodyInRange : RecordBody → Prop
  | .shotStart _ _ _ t => ∀ u, t = some u → u < daySpan
  | .inputChange n _ _ t => n < 256 ∧ t < daySpan
  | .assessment _ n _ m low high =>
      n < 256 ∧ low < 4294967296 ∧ high < 4294967296 ∧ ∀ x, m = some x → x < 4294967296
  | .rampResult _ _ _ v => ∀ x, v = some x → -2147483648 ≤ x ∧ x < 2147483648
  | .adjust _ _ v _ => -2147483648 ≤ v ∧ v < 2147483648
  | .shotEnd _ _ lost _ _ w _ =>
      lost < 4294967296 ∧ w.pass < 16 ∧ w.early < 16 ∧ w.late < 16 ∧ w.noTrip < 16 ∧ w.unexpected < 16
        ∧ w.alreadyActive < 16 ∧ w.aborted < 16
  | _ => True

/-- The bytes 7 onward of a record, by its kind (Table 12-7): every field at its place, an absent one 0, and 0
after the last. -/
def KindFieldsAt (b : List Byte) : RecordBody → Prop
  | .shotStart p m q t => fieldAt b 0 1 = 1 ∧ fieldAt b 7 1 = portCode p ∧ fieldAt b 8 1 = modeCode m
      ∧ fieldAt b 9 1 = lockCode q ∧ timeAt b 10 = t.getD 0 ∧ fieldAt b 17 7 = 0
  | .stateEntry i c _ => fieldAt b 0 1 = 2 ∧ fieldAt b 7 1 = i.val ∧ fieldAt b 8 1 = entryCode c
      ∧ fieldAt b 9 15 = 0
  | .inputChange n level remote t => fieldAt b 0 1 = 3 ∧ fieldAt b 7 1 = n
      ∧ fieldAt b 8 1 = (if level then 1 else 0) ∧ fieldAt b 9 1 = (if remote then 1 else 0)
      ∧ timeAt b 10 = t ∧ fieldAt b 17 7 = 0
  | .outputChange n level src => fieldAt b 0 1 = 4 ∧ fieldAt b 7 1 = n.val + 1
      ∧ fieldAt b 8 1 = (if level then 1 else 0) ∧ fieldAt b 9 1 = sourceCode src ∧ fieldAt b 10 14 = 0
  | .breakerOp p o _ => fieldAt b 0 1 = 5 ∧ fieldAt b 7 1 = poleCode p ∧ fieldAt b 8 1 = outcomeCode o
      ∧ fieldAt b 9 15 = 0
  | .assessment i n v m low high => fieldAt b 0 1 = 6 ∧ fieldAt b 7 1 = i.val ∧ fieldAt b 8 1 = n
      ∧ fieldAt b 9 1 = verdictCode v ∧ fieldAt b 10 4 = low ∧ fieldAt b 14 4 = high
      ∧ fieldAt b 18 4 = m.getD 0 ∧ fieldAt b 22 2 = 0
  | .rampResult i t q v => fieldAt b 0 1 = 7 ∧ fieldAt b 7 1 = i.val ∧ fieldAt b 8 1 = targetCode t
      ∧ fieldAt b 9 1 = quantityCode q ∧ fieldAt b 10 1 = (if v.isSome then 0 else 1)
      ∧ signedAt b 11 4 = v.getD 0 ∧ fieldAt b 15 9 = 0
  | .adjust t q v p => fieldAt b 0 1 = 8 ∧ fieldAt b 7 1 = targetCode t ∧ fieldAt b 8 1 = quantityCode q
      ∧ fieldAt b 9 1 = portCode p ∧ signedAt b 10 4 = v ∧ fieldAt b 14 10 = 0
  | .clip c i => fieldAt b 0 1 = 9 ∧ fieldAt b 7 1 = channelCode c ∧ fieldAt b 8 1 = i.val
      ∧ fieldAt b 9 15 = 0
  | .tpEvent k => fieldAt b 0 1 = 10 ∧ fieldAt b 7 1 = tpKindCode k ∧ fieldAt b 8 16 = 0
  | .abort c _ => fieldAt b 0 1 = 11 ∧ fieldAt b 7 1 = abortCode c ∧ fieldAt b 8 16 = 0
  | .shotEnd e secondary lost _ clips w q => fieldAt b 0 1 = 12 ∧ fieldAt b 7 1 = endCode e
      ∧ fieldAt b 8 1 = (secondary.map abortCode).getD 0 ∧ fieldAt b 9 4 = lost
      ∧ (∀ c : Channel, (fieldAt b 13 1).testBit (channelCode c) = clips.get c)
      ∧ fieldAt b 14 1 = w.pass * 16 + w.early ∧ fieldAt b 15 1 = w.late * 16 + w.noTrip
      ∧ fieldAt b 16 1 = w.unexpected * 16 + w.alreadyActive ∧ fieldAt b 17 1 = w.aborted * 16
      ∧ fieldAt b 18 1 = (match q with
                          | .good => 0
                          | .degraded => 1)
      ∧ fieldAt b 19 5 = 0

/-- A report record takes 24 bytes: kind and shot number, the three flags, the time, and the fields of its kind
(R110, Tables 6-3, 6-4 and 12-7). The codes of the fields are those of log 9. -/
def ReportRecordBytes : Prop :=
  ∀ r : LogRecord, r.shot < 256 → r.time < 4294967296 → BodyInRange r.body →
    r.bytes.length = 24 ∧ KindFieldsAt r.bytes r.body ∧ fieldAt r.bytes 1 1 = r.shot
    ∧ fieldAt r.bytes 3 4 = r.time
    ∧ fieldAt r.bytes 2 1 < 8 ∧ (fieldAt r.bytes 2 1).testBit 0 = r.degraded
    ∧ (fieldAt r.bytes 2 1).testBit 1 = r.body.ownFlag ∧ (fieldAt r.bytes 2 1).testBit 2 = r.body.hasOptional

/-- A transaction clocks out its port's buffer: the status, the data length, at most 250, and the data, then 00H
for every byte after the last (R168, Table 12-5). -/
def ResponsesAreClockedOut : Prop :=
  ∀ (s : State) (p : Port) (sent : List Byte) (q : Response), q = (s.ports.get p).response →
    (s.transaction p sent).2 = commandOfFrame p sent
    ∧ q.dataBytes.length ≤ 250
    ∧ (s.transaction p sent).1.length = sent.length
    ∧ ∀ k, k < sent.length → ((s.transaction p sent).1[k]?).map (·.toNat)
        = some (if k = 0 then q.status.code else if k = 1 then q.dataBytes.length
                else (q.dataBytes.getD (k - 2) 0).toNat)

/-- The data of four answers in bytes: none; READ_STATE with a copy, the record in its 216 bytes, and without
one; and READ_PAGE, its header and its records in 24 bytes each. Where the manual gives no order and no mark,
they are the model's choice (log 8). -/
def DataOfAnswers : Prop :=
  (∀ st, (Response.mk st .none).bytes = [BitVec.ofNat 8 (Status.code st), 0#8])
  ∧ (∀ st revision tag r, revision < 65536 →
      let b := (Response.mk st (.record revision tag (some r))).dataBytes
      b.length = 220 ∧ fieldAt b 0 2 = revision ∧ fieldAt b 2 1 = tagCode tag ∧ fieldAt b 3 1 = 1
        ∧ b.drop 4 = StateRecord.bytes r)
  ∧ (∀ st revision tag, revision < 65536 →
      let b := (Response.mk st (.record revision tag none)).dataBytes
      b.length = 4 ∧ fieldAt b 0 2 = revision ∧ fieldAt b 2 1 = tagCode tag ∧ fieldAt b 3 1 = 0)
  ∧ (∀ st name number cause count records, number < 65536 → count < 256 → List.length records ≤ 8 →
      let b := (Response.mk st (.page name number (some cause) count records)).dataBytes
      b.length = 5 + 24 * records.length ∧ fieldAt b 0 1 = pageCode name ∧ fieldAt b 1 2 = number
        ∧ fieldAt b 3 1 = handoverCode cause ∧ fieldAt b 4 1 = count
        ∧ ∀ k r, records[k]? = some r → (b.drop (5 + 24 * k)).take 24 = LogRecord.bytes r)

/-- The bytes of report records and of responses (R110, R168, Tables 12-5 and 12-7). -/
def Obligations.BytesOfRecordsAndResponses : Prop :=
  ReportRecordBytes ∧ ResponsesAreClockedOut ∧ DataOfAnswers
end

