-- ==== Sys2Proof/Laws/Containers.lean ====
section
/-! SUPPORT. The containers that hold one thing per port, pole, channel or slot: what is read after a
write or a map, and the folds over their fixed lists. -/

namespace Sys2Proof

theorem PerPort.get_set {α : Type} (v : PerPort α) (p q : Port) (x : α) :
    (v.set p x).get q = if q = p then x else v.get q := by cases p <;> cases q <;> rfl

@[simp] theorem PerPort.get_set_same {α : Type} (v : PerPort α) (p : Port) (x : α) :
    (v.set p x).get p = x := by cases p <;> rfl

@[simp] theorem PerPort.get_set_other {α : Type} (v : PerPort α) (p : Port) (x : α) :
    (v.set p x).get p.other = v.get p.other := by cases p <;> rfl

@[simp] theorem PerPort.set_get {α : Type} (v : PerPort α) (p : Port) : v.set p (v.get p) = v := by
  cases p <;> rfl

@[simp] theorem PerPort.set_set {α : Type} (v : PerPort α) (p : Port) (x y : α) :
    (v.set p x).set p y = v.set p y := by cases p <;> rfl

@[simp] theorem PerPort.get_map {α β : Type} (f : α → β) (v : PerPort α) (p : Port) :
    (v.map f).get p = f (v.get p) := by cases p <;> rfl

@[simp] theorem Port.other_other (p : Port) : p.other.other = p := by cases p <;> rfl

@[simp] theorem Port.other_ne (p : Port) : p.other ≠ p := by cases p <;> decide

@[simp] theorem Port.ne_other (p : Port) : p ≠ p.other := by cases p <;> decide

theorem Port.eq_or_other (p q : Port) : q = p ∨ q = p.other := by cases p <;> cases q <;> decide

theorem PerPort.ext_get {α : Type} {v w : PerPort α} (h : ∀ p, v.get p = w.get p) : v = w := by
  have a := h .sequence
  have b := h .panel
  cases v; cases w
  simp_all [PerPort.get]

theorem PerPole.get_set {α : Type} (v : PerPole α) (p q : Pole) (x : α) :
    (v.set p x).get q = if q = p then x else v.get q := by cases p <;> cases q <;> rfl

@[simp] theorem PerPole.get_set_same {α : Type} (v : PerPole α) (p : Pole) (x : α) :
    (v.set p x).get p = x := by cases p <;> rfl

@[simp] theorem PerPole.set_get {α : Type} (v : PerPole α) (p : Pole) : v.set p (v.get p) = v := by
  cases p <;> rfl

@[simp] theorem PerPole.set_set {α : Type} (v : PerPole α) (p : Pole) (x y : α) :
    (v.set p x).set p y = v.set p y := by cases p <;> rfl

@[simp] theorem PerPole.get_mapWith {α β : Type} (f : Pole → α → β) (v : PerPole α) (p : Pole) :
    (v.mapWith f).get p = f p (v.get p) := by cases p <;> rfl

theorem PerPole.ext_get {α : Type} {v w : PerPole α} (h : ∀ p, v.get p = w.get p) : v = w := by
  have a := h .a
  have b := h .b
  have c := h .c
  cases v; cases w
  simp_all [PerPole.get]

theorem PerChannel.get_set {α : Type} (v : PerChannel α) (c d : Channel) (x : α) :
    (v.set c x).get d = if d = c then x else v.get d := by cases c <;> cases d <;> rfl

@[simp] theorem PerChannel.get_set_same {α : Type} (v : PerChannel α) (c : Channel) (x : α) :
    (v.set c x).get c = x := by cases c <;> rfl

@[simp] theorem PerChannel.set_get {α : Type} (v : PerChannel α) (c : Channel) : v.set c (v.get c) = v := by
  cases c <;> rfl

@[simp] theorem PerChannel.set_set {α : Type} (v : PerChannel α) (c : Channel) (x y : α) :
    (v.set c x).set c y = v.set c y := by cases c <;> rfl

@[simp] theorem PerChannel.get_mapWith {α β : Type} (f : Channel → α → β) (v : PerChannel α) (c : Channel) :
    (v.mapWith f).get c = f c (v.get c) := by cases c <;> rfl

theorem PerChannel.ext_get {α : Type} {v w : PerChannel α} (h : ∀ c, v.get c = w.get c) : v = w := by
  have h1 := h .va
  have h2 := h .vb
  have h3 := h .vc
  have h4 := h .vx
  have h5 := h .ia
  have h6 := h .ib
  have h7 := h .ic
  cases v; cases w
  simp_all [PerChannel.get]

@[simp] theorem mapSlots_get (f : Machine.Slot → Machine.Slot) (v : Vector Machine.Slot 32) (i : Nat)
    (h : i < 32) : (mapSlots f v)[i] = f v[i] := by simp [mapSlots]

@[simp] theorem foldl_allPoles {α : Type} (f : α → Pole → α) (s : α) :
    allPoles.foldl f s = f (f (f s .a) .b) .c := rfl

@[simp] theorem foldl_allChannels {α : Type} (f : α → Channel → α) (s : α) :
    allChannels.foldl f s = f (f (f (f (f (f (f s .va) .vb) .vc) .vx) .ia) .ib) .ic := rfl

@[simp] theorem foldl_outputs {α : Type} (f : α → Fin 4 → α) (s : α) :
    (List.finRange 4).foldl f s = f (f (f (f s 0) 1) 2) 3 := rfl

@[simp] theorem mem_allPoles (p : Pole) : p ∈ allPoles := by cases p <;> decide

@[simp] theorem mem_allChannels (c : Channel) : c ∈ allChannels := by cases c <;> decide

end Sys2Proof
end

