-- ==== Sys2Proof/Laws/State.lean ====
section
/-! SUPPORT. What each plain update of the state leaves as it was, and the one field that it sets: one
rewriting rule per field, so that no proof unfolds a record update. -/

namespace Sys2Proof.Machine

@[simp] theorem respond_keeps (s : State) (p : Port) (st : Status) (d : RespData) :
    (s.respond p st d).pending = s.pending ∧ (s.respond p st d).store = s.store
    ∧ (s.respond p st d).edit = s.edit ∧ (s.respond p st d).seq = s.seq
    ∧ (s.respond p st d).synth = s.synth ∧ (s.respond p st d).amp = s.amp
    ∧ (s.respond p st d).inputs = s.inputs ∧ (s.respond p st d).outputs = s.outputs
    ∧ (s.respond p st d).breaker = s.breaker ∧ (s.respond p st d).assess = s.assess
    ∧ (s.respond p st d).log = s.log ∧ (s.respond p st d).drains = s.drains
    ∧ (s.respond p st d).time = s.time ∧ (s.respond p st d).actions = s.actions
    ∧ (s.respond p st d).peer = s.peer ∧ (s.respond p st d).tp = s.tp ∧ (s.respond p st d).guard = s.guard
    ∧ (s.respond p st d).freeUsed = s.freeUsed := by
  refine ⟨?_, ?_, ?_, ?_, ?_, ?_, ?_, ?_, ?_, ?_, ?_, ?_, ?_, ?_, ?_, ?_, ?_, ?_⟩ <;> rfl

@[simp] theorem respond_ports (s : State) (p : Port) (st : Status) (d : RespData) :
    (s.respond p st d).ports = s.ports.set p { s.ports.get p with response := { status := st, data := d } } := rfl

@[simp] theorem takeFrame_keeps (s : State) (p : Port) :
    (s.takeFrame p).pending = s.pending ∧ (s.takeFrame p).store = s.store ∧ (s.takeFrame p).edit = s.edit
    ∧ (s.takeFrame p).seq = s.seq ∧ (s.takeFrame p).synth = s.synth ∧ (s.takeFrame p).amp = s.amp
    ∧ (s.takeFrame p).inputs = s.inputs ∧ (s.takeFrame p).outputs = s.outputs
    ∧ (s.takeFrame p).breaker = s.breaker ∧ (s.takeFrame p).assess = s.assess ∧ (s.takeFrame p).log = s.log
    ∧ (s.takeFrame p).drains = s.drains ∧ (s.takeFrame p).time = s.time
    ∧ (s.takeFrame p).actions = s.actions ∧ (s.takeFrame p).peer = s.peer ∧ (s.takeFrame p).tp = s.tp
    ∧ (s.takeFrame p).ports = s.ports ∧ (s.takeFrame p).freeUsed = s.freeUsed := by
  refine ⟨?_, ?_, ?_, ?_, ?_, ?_, ?_, ?_, ?_, ?_, ?_, ?_, ?_, ?_, ?_, ?_, ?_, ?_⟩ <;> rfl

@[simp] theorem raiseFor_keeps (s : State) (p : Port) (c : NotifyCause) :
    (s.raiseFor p c).pending = s.pending ∧ (s.raiseFor p c).store = s.store
    ∧ (s.raiseFor p c).edit = s.edit ∧ (s.raiseFor p c).seq = s.seq ∧ (s.raiseFor p c).synth = s.synth
    ∧ (s.raiseFor p c).amp = s.amp ∧ (s.raiseFor p c).inputs = s.inputs
    ∧ (s.raiseFor p c).outputs = s.outputs ∧ (s.raiseFor p c).breaker = s.breaker
    ∧ (s.raiseFor p c).assess = s.assess ∧ (s.raiseFor p c).log = s.log
    ∧ (s.raiseFor p c).drains = s.drains ∧ (s.raiseFor p c).time = s.time
    ∧ (s.raiseFor p c).actions = s.actions ∧ (s.raiseFor p c).peer = s.peer ∧ (s.raiseFor p c).tp = s.tp
    ∧ (s.raiseFor p c).guard = s.guard ∧ (s.raiseFor p c).freeUsed = s.freeUsed := by
  refine ⟨?_, ?_, ?_, ?_, ?_, ?_, ?_, ?_, ?_, ?_, ?_, ?_, ?_, ?_, ?_, ?_, ?_, ?_⟩ <;> rfl

@[simp] theorem raiseFor_ports (s : State) (p : Port) (c : NotifyCause) :
    (s.raiseFor p c).ports = s.ports.set p ((s.ports.get p).raise c) := rfl

@[simp] theorem raiseBoth_keeps (s : State) (c : NotifyCause) :
    (s.raiseBoth c).pending = s.pending ∧ (s.raiseBoth c).store = s.store ∧ (s.raiseBoth c).edit = s.edit
    ∧ (s.raiseBoth c).seq = s.seq ∧ (s.raiseBoth c).synth = s.synth ∧ (s.raiseBoth c).amp = s.amp
    ∧ (s.raiseBoth c).inputs = s.inputs ∧ (s.raiseBoth c).outputs = s.outputs
    ∧ (s.raiseBoth c).breaker = s.breaker ∧ (s.raiseBoth c).assess = s.assess ∧ (s.raiseBoth c).log = s.log
    ∧ (s.raiseBoth c).drains = s.drains ∧ (s.raiseBoth c).time = s.time
    ∧ (s.raiseBoth c).actions = s.actions ∧ (s.raiseBoth c).peer = s.peer ∧ (s.raiseBoth c).tp = s.tp
    ∧ (s.raiseBoth c).guard = s.guard ∧ (s.raiseBoth c).freeUsed = s.freeUsed := by
  refine ⟨?_, ?_, ?_, ?_, ?_, ?_, ?_, ?_, ?_, ?_, ?_, ?_, ?_, ?_, ?_, ?_, ?_, ?_⟩ <;> rfl

@[simp] theorem raiseBoth_ports (s : State) (c : NotifyCause) :
    (s.raiseBoth c).ports = s.ports.map fun q => q.raise c := rfl

@[simp] theorem passBoundary_keeps (s : State) :
    (s.passBoundary).pending = s.pending ∧ (s.passBoundary).store = s.store
    ∧ (s.passBoundary).edit = s.edit ∧ (s.passBoundary).seq = s.seq ∧ (s.passBoundary).synth = s.synth
    ∧ (s.passBoundary).amp = s.amp ∧ (s.passBoundary).inputs = s.inputs
    ∧ (s.passBoundary).outputs = s.outputs ∧ (s.passBoundary).breaker = s.breaker
    ∧ (s.passBoundary).assess = s.assess ∧ (s.passBoundary).log = s.log
    ∧ (s.passBoundary).drains = s.drains ∧ (s.passBoundary).actions = s.actions
    ∧ (s.passBoundary).peer = s.peer ∧ (s.passBoundary).tp = s.tp ∧ (s.passBoundary).guard = s.guard
    ∧ (s.passBoundary).ports = s.ports ∧ (s.passBoundary).freeUsed = s.freeUsed := by
  refine ⟨?_, ?_, ?_, ?_, ?_, ?_, ?_, ?_, ?_, ?_, ?_, ?_, ?_, ?_, ?_, ?_, ?_, ?_⟩ <;> rfl

@[simp] theorem passBoundary_time (s : State) :
    (s.passBoundary).time = { s.time with boundaryPassed := true } := rfl

@[simp] theorem useFree_keeps (s : State) :
    (s.useFree).pending = s.pending ∧ (s.useFree).store = s.store ∧ (s.useFree).edit = s.edit
    ∧ (s.useFree).seq = s.seq ∧ (s.useFree).synth = s.synth ∧ (s.useFree).amp = s.amp
    ∧ (s.useFree).inputs = s.inputs ∧ (s.useFree).outputs = s.outputs ∧ (s.useFree).breaker = s.breaker
    ∧ (s.useFree).assess = s.assess ∧ (s.useFree).log = s.log ∧ (s.useFree).drains = s.drains
    ∧ (s.useFree).time = s.time ∧ (s.useFree).actions = s.actions ∧ (s.useFree).peer = s.peer
    ∧ (s.useFree).tp = s.tp ∧ (s.useFree).guard = s.guard ∧ (s.useFree).ports = s.ports := by
  refine ⟨?_, ?_, ?_, ?_, ?_, ?_, ?_, ?_, ?_, ?_, ?_, ?_, ?_, ?_, ?_, ?_, ?_, ?_⟩ <;> rfl

@[simp] theorem useFree_freeUsed (s : State) :
    (s.useFree).freeUsed = s.freeUsed + 1 := rfl

@[simp] theorem advanceClock_keeps (s : State) :
    (s.advanceClock).pending = s.pending ∧ (s.advanceClock).store = s.store
    ∧ (s.advanceClock).edit = s.edit ∧ (s.advanceClock).seq = s.seq ∧ (s.advanceClock).synth = s.synth
    ∧ (s.advanceClock).amp = s.amp ∧ (s.advanceClock).inputs = s.inputs
    ∧ (s.advanceClock).outputs = s.outputs ∧ (s.advanceClock).breaker = s.breaker
    ∧ (s.advanceClock).assess = s.assess ∧ (s.advanceClock).log = s.log
    ∧ (s.advanceClock).drains = s.drains ∧ (s.advanceClock).actions = s.actions
    ∧ (s.advanceClock).peer = s.peer ∧ (s.advanceClock).tp = s.tp ∧ (s.advanceClock).guard = s.guard
    ∧ (s.advanceClock).ports = s.ports ∧ (s.advanceClock).freeUsed = s.freeUsed := by
  refine ⟨?_, ?_, ?_, ?_, ?_, ?_, ?_, ?_, ?_, ?_, ?_, ?_, ?_, ?_, ?_, ?_, ?_, ?_⟩ <;> rfl

@[simp] theorem advanceClock_time (s : State) :
    (s.advanceClock).time
      = { s.time.advance with endFixed := State.visitEndsHere { s with time := s.time.advance } } := rfl

/-- The mark set at a new counter value is the visit's end as that value finds it. -/
theorem advanceClock_endFixed (s : State) : s.advanceClock.time.endFixed = s.advanceClock.visitEndsHere := rfl

@[simp] theorem dropDue_keeps (s : State) :
    (s.dropDue).pending = s.pending ∧ (s.dropDue).store = s.store ∧ (s.dropDue).edit = s.edit
    ∧ (s.dropDue).seq = s.seq ∧ (s.dropDue).synth = s.synth ∧ (s.dropDue).amp = s.amp
    ∧ (s.dropDue).inputs = s.inputs ∧ (s.dropDue).outputs = s.outputs ∧ (s.dropDue).breaker = s.breaker
    ∧ (s.dropDue).assess = s.assess ∧ (s.dropDue).log = s.log ∧ (s.dropDue).drains = s.drains
    ∧ (s.dropDue).time = s.time ∧ (s.dropDue).peer = s.peer ∧ (s.dropDue).tp = s.tp
    ∧ (s.dropDue).guard = s.guard ∧ (s.dropDue).ports = s.ports ∧ (s.dropDue).freeUsed = s.freeUsed := by
  refine ⟨?_, ?_, ?_, ?_, ?_, ?_, ?_, ?_, ?_, ?_, ?_, ?_, ?_, ?_, ?_, ?_, ?_, ?_⟩ <;> rfl

@[simp] theorem dropDue_actions (s : State) :
    (s.dropDue).actions = { s.actions with entries := s.actions.entries.eraseP s.mayFallDue } := rfl

@[simp] theorem freeLog_keeps (s : State) :
    (s.freeLog).pending = s.pending ∧ (s.freeLog).store = s.store ∧ (s.freeLog).edit = s.edit
    ∧ (s.freeLog).seq = s.seq ∧ (s.freeLog).synth = s.synth ∧ (s.freeLog).amp = s.amp
    ∧ (s.freeLog).inputs = s.inputs ∧ (s.freeLog).outputs = s.outputs ∧ (s.freeLog).breaker = s.breaker
    ∧ (s.freeLog).assess = s.assess ∧ (s.freeLog).drains = s.drains ∧ (s.freeLog).time = s.time
    ∧ (s.freeLog).actions = s.actions ∧ (s.freeLog).peer = s.peer ∧ (s.freeLog).tp = s.tp
    ∧ (s.freeLog).guard = s.guard ∧ (s.freeLog).ports = s.ports ∧ (s.freeLog).freeUsed = s.freeUsed := by
  refine ⟨?_, ?_, ?_, ?_, ?_, ?_, ?_, ?_, ?_, ?_, ?_, ?_, ?_, ?_, ?_, ?_, ?_, ?_⟩ <;> rfl

@[simp] theorem freeLog_log (s : State) :
    (s.freeLog).log = s.log.freeTo s.consumedBy := rfl

@[simp] theorem setDrain_keeps (s : State) (p : Port) (d : Drain) :
    (s.setDrain p d).pending = s.pending ∧ (s.setDrain p d).store = s.store
    ∧ (s.setDrain p d).edit = s.edit ∧ (s.setDrain p d).seq = s.seq ∧ (s.setDrain p d).synth = s.synth
    ∧ (s.setDrain p d).amp = s.amp ∧ (s.setDrain p d).inputs = s.inputs
    ∧ (s.setDrain p d).outputs = s.outputs ∧ (s.setDrain p d).breaker = s.breaker
    ∧ (s.setDrain p d).assess = s.assess ∧ (s.setDrain p d).log = s.log ∧ (s.setDrain p d).time = s.time
    ∧ (s.setDrain p d).actions = s.actions ∧ (s.setDrain p d).peer = s.peer ∧ (s.setDrain p d).tp = s.tp
    ∧ (s.setDrain p d).guard = s.guard ∧ (s.setDrain p d).ports = s.ports
    ∧ (s.setDrain p d).freeUsed = s.freeUsed := by
  refine ⟨?_, ?_, ?_, ?_, ?_, ?_, ?_, ?_, ?_, ?_, ?_, ?_, ?_, ?_, ?_, ?_, ?_, ?_⟩ <;> rfl

@[simp] theorem setDrain_drains (s : State) (p : Port) (d : Drain) :
    (s.setDrain p d).drains = s.drains.set p d := rfl

@[simp] theorem setPort_keeps (s : State) (p : Port) (q : PortInterface) :
    (s.setPort p q).pending = s.pending ∧ (s.setPort p q).store = s.store ∧ (s.setPort p q).edit = s.edit
    ∧ (s.setPort p q).seq = s.seq ∧ (s.setPort p q).synth = s.synth ∧ (s.setPort p q).amp = s.amp
    ∧ (s.setPort p q).inputs = s.inputs ∧ (s.setPort p q).outputs = s.outputs
    ∧ (s.setPort p q).breaker = s.breaker ∧ (s.setPort p q).assess = s.assess ∧ (s.setPort p q).log = s.log
    ∧ (s.setPort p q).drains = s.drains ∧ (s.setPort p q).time = s.time
    ∧ (s.setPort p q).actions = s.actions ∧ (s.setPort p q).peer = s.peer ∧ (s.setPort p q).tp = s.tp
    ∧ (s.setPort p q).guard = s.guard ∧ (s.setPort p q).freeUsed = s.freeUsed := by
  refine ⟨?_, ?_, ?_, ?_, ?_, ?_, ?_, ?_, ?_, ?_, ?_, ?_, ?_, ?_, ?_, ?_, ?_, ?_⟩ <;> rfl

@[simp] theorem setPort_ports (s : State) (p : Port) (q : PortInterface) :
    (s.setPort p q).ports = s.ports.set p q := rfl

@[simp] theorem setHold_keeps (s : State) (p : Port) (held : Bool) :
    (s.setHold p held).pending = s.pending ∧ (s.setHold p held).store = s.store
    ∧ (s.setHold p held).seq = s.seq ∧ (s.setHold p held).synth = s.synth ∧ (s.setHold p held).amp = s.amp
    ∧ (s.setHold p held).inputs = s.inputs ∧ (s.setHold p held).outputs = s.outputs
    ∧ (s.setHold p held).breaker = s.breaker ∧ (s.setHold p held).assess = s.assess
    ∧ (s.setHold p held).log = s.log ∧ (s.setHold p held).drains = s.drains
    ∧ (s.setHold p held).time = s.time ∧ (s.setHold p held).actions = s.actions
    ∧ (s.setHold p held).peer = s.peer ∧ (s.setHold p held).tp = s.tp ∧ (s.setHold p held).guard = s.guard
    ∧ (s.setHold p held).ports = s.ports ∧ (s.setHold p held).freeUsed = s.freeUsed := by
  refine ⟨?_, ?_, ?_, ?_, ?_, ?_, ?_, ?_, ?_, ?_, ?_, ?_, ?_, ?_, ?_, ?_, ?_, ?_⟩ <;> rfl

@[simp] theorem setHold_edit (s : State) (p : Port) (held : Bool) :
    (s.setHold p held).edit = { s.edit with hold := s.edit.hold.set p held } := rfl

@[simp] theorem exclude_keeps (s : State) (p : Port) :
    (s.exclude p).pending = s.pending ∧ (s.exclude p).seq = s.seq ∧ (s.exclude p).synth = s.synth
    ∧ (s.exclude p).amp = s.amp ∧ (s.exclude p).inputs = s.inputs ∧ (s.exclude p).outputs = s.outputs
    ∧ (s.exclude p).breaker = s.breaker ∧ (s.exclude p).assess = s.assess ∧ (s.exclude p).log = s.log
    ∧ (s.exclude p).drains = s.drains ∧ (s.exclude p).time = s.time ∧ (s.exclude p).actions = s.actions
    ∧ (s.exclude p).peer = s.peer ∧ (s.exclude p).tp = s.tp ∧ (s.exclude p).guard = s.guard
    ∧ (s.exclude p).ports = s.ports ∧ (s.exclude p).freeUsed = s.freeUsed := by
  simp [State.exclude]

@[simp] theorem exclude_store (s : State) (p : Port) :
    (s.exclude p).store = { s.store with slots := mapSlots (Slot.discardOf p) s.store.slots } := rfl

@[simp] theorem exclude_edit (s : State) (p : Port) :
    (s.exclude p).edit = { s.edit with hold := s.edit.hold.set p false } := rfl

@[simp] theorem setEStop_keeps (s : State) (l : EStopLevel) :
    (s.setEStop l).pending = s.pending ∧ (s.setEStop l).store = s.store ∧ (s.setEStop l).edit = s.edit
    ∧ (s.setEStop l).seq = s.seq ∧ (s.setEStop l).synth = s.synth ∧ (s.setEStop l).amp = s.amp
    ∧ (s.setEStop l).inputs = s.inputs ∧ (s.setEStop l).outputs = s.outputs
    ∧ (s.setEStop l).breaker = s.breaker ∧ (s.setEStop l).assess = s.assess ∧ (s.setEStop l).log = s.log
    ∧ (s.setEStop l).drains = s.drains ∧ (s.setEStop l).time = s.time ∧ (s.setEStop l).actions = s.actions
    ∧ (s.setEStop l).peer = s.peer ∧ (s.setEStop l).tp = s.tp ∧ (s.setEStop l).ports = s.ports
    ∧ (s.setEStop l).freeUsed = s.freeUsed := by
  refine ⟨?_, ?_, ?_, ?_, ?_, ?_, ?_, ?_, ?_, ?_, ?_, ?_, ?_, ?_, ?_, ?_, ?_, ?_⟩ <;> rfl

@[simp] theorem setEStop_guard (s : State) (l : EStopLevel) :
    (s.setEStop l).guard = { s.guard with eStop := l } := rfl

@[simp] theorem setSlot_keeps (s : State) (i : Fin 32) (sl : Slot) :
    (s.setSlot i sl).pending = s.pending ∧ (s.setSlot i sl).edit = s.edit ∧ (s.setSlot i sl).seq = s.seq
    ∧ (s.setSlot i sl).synth = s.synth ∧ (s.setSlot i sl).amp = s.amp ∧ (s.setSlot i sl).inputs = s.inputs
    ∧ (s.setSlot i sl).outputs = s.outputs ∧ (s.setSlot i sl).breaker = s.breaker
    ∧ (s.setSlot i sl).assess = s.assess ∧ (s.setSlot i sl).log = s.log
    ∧ (s.setSlot i sl).drains = s.drains ∧ (s.setSlot i sl).time = s.time
    ∧ (s.setSlot i sl).actions = s.actions ∧ (s.setSlot i sl).peer = s.peer ∧ (s.setSlot i sl).tp = s.tp
    ∧ (s.setSlot i sl).guard = s.guard ∧ (s.setSlot i sl).ports = s.ports
    ∧ (s.setSlot i sl).freeUsed = s.freeUsed := by
  refine ⟨?_, ?_, ?_, ?_, ?_, ?_, ?_, ?_, ?_, ?_, ?_, ?_, ?_, ?_, ?_, ?_, ?_, ?_⟩ <;> rfl

@[simp] theorem setSlot_store (s : State) (i : Fin 32) (sl : Slot) :
    (s.setSlot i sl).store = { s.store with slots := s.store.slots.set i sl } := rfl

@[simp] theorem changeSource_keeps (s : State) (src : TpSource) :
    (s.changeSource src).pending = s.pending ∧ (s.changeSource src).store = s.store
    ∧ (s.changeSource src).edit = s.edit ∧ (s.changeSource src).seq = s.seq
    ∧ (s.changeSource src).synth = s.synth ∧ (s.changeSource src).amp = s.amp
    ∧ (s.changeSource src).inputs = s.inputs ∧ (s.changeSource src).outputs = s.outputs
    ∧ (s.changeSource src).breaker = s.breaker ∧ (s.changeSource src).assess = s.assess
    ∧ (s.changeSource src).log = s.log ∧ (s.changeSource src).drains = s.drains
    ∧ (s.changeSource src).time = s.time ∧ (s.changeSource src).peer = s.peer
    ∧ (s.changeSource src).guard = s.guard ∧ (s.changeSource src).ports = s.ports
    ∧ (s.changeSource src).freeUsed = s.freeUsed := by
  refine ⟨?_, ?_, ?_, ?_, ?_, ?_, ?_, ?_, ?_, ?_, ?_, ?_, ?_, ?_, ?_, ?_, ?_⟩ <;> rfl

@[simp] theorem changeSource_actions (s : State) (src : TpSource) :
    (s.changeSource src).actions = s.actions.keep fun a => decide (a.work.group ≠ .tpEdge) := rfl

@[simp] theorem dropPole_keeps (s : State) (p : Pole) :
    (s.dropPole p).pending = s.pending ∧ (s.dropPole p).store = s.store ∧ (s.dropPole p).edit = s.edit
    ∧ (s.dropPole p).seq = s.seq ∧ (s.dropPole p).synth = s.synth ∧ (s.dropPole p).amp = s.amp
    ∧ (s.dropPole p).inputs = s.inputs ∧ (s.dropPole p).outputs = s.outputs
    ∧ (s.dropPole p).breaker = s.breaker ∧ (s.dropPole p).assess = s.assess ∧ (s.dropPole p).log = s.log
    ∧ (s.dropPole p).drains = s.drains ∧ (s.dropPole p).time = s.time ∧ (s.dropPole p).peer = s.peer
    ∧ (s.dropPole p).tp = s.tp ∧ (s.dropPole p).guard = s.guard ∧ (s.dropPole p).ports = s.ports
    ∧ (s.dropPole p).freeUsed = s.freeUsed := by
  refine ⟨?_, ?_, ?_, ?_, ?_, ?_, ?_, ?_, ?_, ?_, ?_, ?_, ?_, ?_, ?_, ?_, ?_, ?_⟩ <;> rfl

@[simp] theorem setPole_keeps (s : State) (p : Pole) (q : PoleState) :
    (s.setPole p q).pending = s.pending ∧ (s.setPole p q).store = s.store ∧ (s.setPole p q).edit = s.edit
    ∧ (s.setPole p q).seq = s.seq ∧ (s.setPole p q).synth = s.synth ∧ (s.setPole p q).amp = s.amp
    ∧ (s.setPole p q).inputs = s.inputs ∧ (s.setPole p q).outputs = s.outputs
    ∧ (s.setPole p q).assess = s.assess ∧ (s.setPole p q).log = s.log ∧ (s.setPole p q).drains = s.drains
    ∧ (s.setPole p q).time = s.time ∧ (s.setPole p q).actions = s.actions ∧ (s.setPole p q).peer = s.peer
    ∧ (s.setPole p q).tp = s.tp ∧ (s.setPole p q).guard = s.guard ∧ (s.setPole p q).ports = s.ports
    ∧ (s.setPole p q).freeUsed = s.freeUsed := by
  refine ⟨?_, ?_, ?_, ?_, ?_, ?_, ?_, ?_, ?_, ?_, ?_, ?_, ?_, ?_, ?_, ?_, ?_, ?_⟩ <;> rfl

@[simp] theorem setPole_breaker (s : State) (p : Pole) (q : PoleState) :
    (s.setPole p q).breaker = { s.breaker with poles := s.breaker.poles.set p q } := rfl

@[simp] theorem onLinked_keeps (s : State) (p : Pole) (f : SynthChannel → SynthChannel) :
    (s.onLinked p f).pending = s.pending ∧ (s.onLinked p f).store = s.store
    ∧ (s.onLinked p f).edit = s.edit ∧ (s.onLinked p f).seq = s.seq ∧ (s.onLinked p f).amp = s.amp
    ∧ (s.onLinked p f).inputs = s.inputs ∧ (s.onLinked p f).outputs = s.outputs
    ∧ (s.onLinked p f).breaker = s.breaker ∧ (s.onLinked p f).assess = s.assess
    ∧ (s.onLinked p f).log = s.log ∧ (s.onLinked p f).drains = s.drains ∧ (s.onLinked p f).time = s.time
    ∧ (s.onLinked p f).actions = s.actions ∧ (s.onLinked p f).peer = s.peer ∧ (s.onLinked p f).tp = s.tp
    ∧ (s.onLinked p f).guard = s.guard ∧ (s.onLinked p f).ports = s.ports
    ∧ (s.onLinked p f).freeUsed = s.freeUsed := by
  refine ⟨?_, ?_, ?_, ?_, ?_, ?_, ?_, ?_, ?_, ?_, ?_, ?_, ?_, ?_, ?_, ?_, ?_, ?_⟩ <;> rfl

@[simp] theorem onLinked_synth (s : State) (p : Pole) (f : SynthChannel → SynthChannel) :
    (s.onLinked p f).synth = { s.synth with channels := s.synth.channels.mapWith fun _ c => if c.linkedTo p then f c else c } := rfl

@[simp] theorem settleInterruptions_keeps (s : State) :
    (s.settleInterruptions).pending = s.pending ∧ (s.settleInterruptions).store = s.store
    ∧ (s.settleInterruptions).edit = s.edit ∧ (s.settleInterruptions).seq = s.seq
    ∧ (s.settleInterruptions).synth = s.synth ∧ (s.settleInterruptions).amp = s.amp
    ∧ (s.settleInterruptions).inputs = s.inputs ∧ (s.settleInterruptions).outputs = s.outputs
    ∧ (s.settleInterruptions).assess = s.assess ∧ (s.settleInterruptions).log = s.log
    ∧ (s.settleInterruptions).drains = s.drains ∧ (s.settleInterruptions).time = s.time
    ∧ (s.settleInterruptions).actions = s.actions ∧ (s.settleInterruptions).peer = s.peer
    ∧ (s.settleInterruptions).tp = s.tp ∧ (s.settleInterruptions).guard = s.guard
    ∧ (s.settleInterruptions).ports = s.ports ∧ (s.settleInterruptions).freeUsed = s.freeUsed := by
  refine ⟨?_, ?_, ?_, ?_, ?_, ?_, ?_, ?_, ?_, ?_, ?_, ?_, ?_, ?_, ?_, ?_, ?_, ?_⟩ <;> rfl

@[simp] theorem placeInitial_keeps (s : State) (opened : Bool) :
    (s.placeInitial opened).pending = s.pending ∧ (s.placeInitial opened).store = s.store
    ∧ (s.placeInitial opened).edit = s.edit ∧ (s.placeInitial opened).seq = s.seq
    ∧ (s.placeInitial opened).synth = s.synth ∧ (s.placeInitial opened).amp = s.amp
    ∧ (s.placeInitial opened).inputs = s.inputs ∧ (s.placeInitial opened).outputs = s.outputs
    ∧ (s.placeInitial opened).assess = s.assess ∧ (s.placeInitial opened).log = s.log
    ∧ (s.placeInitial opened).drains = s.drains ∧ (s.placeInitial opened).time = s.time
    ∧ (s.placeInitial opened).peer = s.peer ∧ (s.placeInitial opened).tp = s.tp
    ∧ (s.placeInitial opened).guard = s.guard ∧ (s.placeInitial opened).ports = s.ports
    ∧ (s.placeInitial opened).freeUsed = s.freeUsed := by
  simp [State.placeInitial]

@[simp] theorem placeInitial_breaker (s : State) (opened : Bool) :
    (s.placeInitial opened).breaker = { s.breaker with poles := { a := .initial opened, b := .initial opened, c := .initial opened } } := rfl

@[simp] theorem capture_keeps (s : State) (n t : Nat) :
    (s.capture n t).pending = s.pending ∧ (s.capture n t).store = s.store ∧ (s.capture n t).edit = s.edit
    ∧ (s.capture n t).seq = s.seq ∧ (s.capture n t).synth = s.synth ∧ (s.capture n t).amp = s.amp
    ∧ (s.capture n t).inputs = s.inputs ∧ (s.capture n t).outputs = s.outputs
    ∧ (s.capture n t).breaker = s.breaker ∧ (s.capture n t).log = s.log ∧ (s.capture n t).drains = s.drains
    ∧ (s.capture n t).time = s.time ∧ (s.capture n t).actions = s.actions ∧ (s.capture n t).peer = s.peer
    ∧ (s.capture n t).tp = s.tp ∧ (s.capture n t).guard = s.guard ∧ (s.capture n t).ports = s.ports
    ∧ (s.capture n t).freeUsed = s.freeUsed := by
  refine ⟨?_, ?_, ?_, ?_, ?_, ?_, ?_, ?_, ?_, ?_, ?_, ?_, ?_, ?_, ?_, ?_, ?_, ?_⟩ <;> rfl

@[simp] theorem setAmp_keeps (s : State) (c : Channel) (a : AmpChannel) :
    (s.setAmp c a).pending = s.pending ∧ (s.setAmp c a).store = s.store ∧ (s.setAmp c a).edit = s.edit
    ∧ (s.setAmp c a).seq = s.seq ∧ (s.setAmp c a).synth = s.synth ∧ (s.setAmp c a).inputs = s.inputs
    ∧ (s.setAmp c a).outputs = s.outputs ∧ (s.setAmp c a).breaker = s.breaker
    ∧ (s.setAmp c a).assess = s.assess ∧ (s.setAmp c a).log = s.log ∧ (s.setAmp c a).drains = s.drains
    ∧ (s.setAmp c a).time = s.time ∧ (s.setAmp c a).actions = s.actions ∧ (s.setAmp c a).peer = s.peer
    ∧ (s.setAmp c a).tp = s.tp ∧ (s.setAmp c a).guard = s.guard ∧ (s.setAmp c a).ports = s.ports
    ∧ (s.setAmp c a).freeUsed = s.freeUsed := by
  refine ⟨?_, ?_, ?_, ?_, ?_, ?_, ?_, ?_, ?_, ?_, ?_, ?_, ?_, ?_, ?_, ?_, ?_, ?_⟩ <;> rfl

@[simp] theorem setAmp_amp (s : State) (c : Channel) (a : AmpChannel) :
    (s.setAmp c a).amp = { s.amp with channels := s.amp.channels.set c a } := rfl

@[simp] theorem setSubframe_keeps (s : State) (c : Channel) (f : Subframe) :
    (s.setSubframe c f).pending = s.pending ∧ (s.setSubframe c f).store = s.store
    ∧ (s.setSubframe c f).edit = s.edit ∧ (s.setSubframe c f).seq = s.seq
    ∧ (s.setSubframe c f).synth = s.synth ∧ (s.setSubframe c f).inputs = s.inputs
    ∧ (s.setSubframe c f).outputs = s.outputs ∧ (s.setSubframe c f).breaker = s.breaker
    ∧ (s.setSubframe c f).assess = s.assess ∧ (s.setSubframe c f).log = s.log
    ∧ (s.setSubframe c f).drains = s.drains ∧ (s.setSubframe c f).time = s.time
    ∧ (s.setSubframe c f).actions = s.actions ∧ (s.setSubframe c f).peer = s.peer
    ∧ (s.setSubframe c f).tp = s.tp ∧ (s.setSubframe c f).guard = s.guard
    ∧ (s.setSubframe c f).ports = s.ports ∧ (s.setSubframe c f).freeUsed = s.freeUsed := by
  refine ⟨?_, ?_, ?_, ?_, ?_, ?_, ?_, ?_, ?_, ?_, ?_, ?_, ?_, ?_, ?_, ?_, ?_, ?_⟩ <;> rfl

@[simp] theorem setSubframe_amp (s : State) (c : Channel) (f : Subframe) :
    (s.setSubframe c f).amp = { s.amp with frame := s.amp.frame.set c f } := rfl

@[simp] theorem setSynth_keeps (s : State) (c : Channel) (ch : SynthChannel) :
    (s.setSynth c ch).pending = s.pending ∧ (s.setSynth c ch).store = s.store
    ∧ (s.setSynth c ch).edit = s.edit ∧ (s.setSynth c ch).seq = s.seq ∧ (s.setSynth c ch).amp = s.amp
    ∧ (s.setSynth c ch).inputs = s.inputs ∧ (s.setSynth c ch).outputs = s.outputs
    ∧ (s.setSynth c ch).breaker = s.breaker ∧ (s.setSynth c ch).assess = s.assess
    ∧ (s.setSynth c ch).log = s.log ∧ (s.setSynth c ch).drains = s.drains ∧ (s.setSynth c ch).time = s.time
    ∧ (s.setSynth c ch).actions = s.actions ∧ (s.setSynth c ch).peer = s.peer ∧ (s.setSynth c ch).tp = s.tp
    ∧ (s.setSynth c ch).guard = s.guard ∧ (s.setSynth c ch).ports = s.ports
    ∧ (s.setSynth c ch).freeUsed = s.freeUsed := by
  refine ⟨?_, ?_, ?_, ?_, ?_, ?_, ?_, ?_, ?_, ?_, ?_, ?_, ?_, ?_, ?_, ?_, ?_, ?_⟩ <;> rfl

@[simp] theorem setSynth_synth (s : State) (c : Channel) (ch : SynthChannel) :
    (s.setSynth c ch).synth = { s.synth with channels := s.synth.channels.set c ch } := rfl

@[simp] theorem awaitReturns_keeps (s : State) :
    (s.awaitReturns).pending = s.pending ∧ (s.awaitReturns).store = s.store
    ∧ (s.awaitReturns).edit = s.edit ∧ (s.awaitReturns).seq = s.seq ∧ (s.awaitReturns).synth = s.synth
    ∧ (s.awaitReturns).inputs = s.inputs ∧ (s.awaitReturns).outputs = s.outputs
    ∧ (s.awaitReturns).breaker = s.breaker ∧ (s.awaitReturns).assess = s.assess
    ∧ (s.awaitReturns).log = s.log ∧ (s.awaitReturns).drains = s.drains ∧ (s.awaitReturns).time = s.time
    ∧ (s.awaitReturns).actions = s.actions ∧ (s.awaitReturns).peer = s.peer ∧ (s.awaitReturns).tp = s.tp
    ∧ (s.awaitReturns).guard = s.guard ∧ (s.awaitReturns).ports = s.ports
    ∧ (s.awaitReturns).freeUsed = s.freeUsed := by
  refine ⟨?_, ?_, ?_, ?_, ?_, ?_, ?_, ?_, ?_, ?_, ?_, ?_, ?_, ?_, ?_, ?_, ?_, ?_⟩ <;> rfl

@[simp] theorem awaitReturns_amp (s : State) :
    (s.awaitReturns).amp = { s.amp with channels := s.amp.channels.mapWith fun _ a => { a with returned := false } } := rfl

@[simp] theorem armSynth_keeps (s : State) (r : StateRecord) :
    (s.armSynth r).pending = s.pending ∧ (s.armSynth r).store = s.store ∧ (s.armSynth r).edit = s.edit
    ∧ (s.armSynth r).seq = s.seq ∧ (s.armSynth r).amp = s.amp ∧ (s.armSynth r).inputs = s.inputs
    ∧ (s.armSynth r).outputs = s.outputs ∧ (s.armSynth r).breaker = s.breaker
    ∧ (s.armSynth r).assess = s.assess ∧ (s.armSynth r).log = s.log ∧ (s.armSynth r).drains = s.drains
    ∧ (s.armSynth r).time = s.time ∧ (s.armSynth r).actions = s.actions ∧ (s.armSynth r).peer = s.peer
    ∧ (s.armSynth r).tp = s.tp ∧ (s.armSynth r).guard = s.guard ∧ (s.armSynth r).ports = s.ports
    ∧ (s.armSynth r).freeUsed = s.freeUsed := by
  refine ⟨?_, ?_, ?_, ?_, ?_, ?_, ?_, ?_, ?_, ?_, ?_, ?_, ?_, ?_, ?_, ?_, ?_, ?_⟩ <;> rfl

@[simp] theorem armSynth_synth (s : State) (r : StateRecord) :
    (s.armSynth r).synth = { channels := s.synth.channels.mapWith fun c ch => ch.arm (s.store.config.get c) (r.channels.get c), ramp := .powerOn } := rfl

@[simp] theorem clearAmpCounts_keeps (s : State) :
    (s.clearAmpCounts).pending = s.pending ∧ (s.clearAmpCounts).store = s.store
    ∧ (s.clearAmpCounts).edit = s.edit ∧ (s.clearAmpCounts).seq = s.seq
    ∧ (s.clearAmpCounts).synth = s.synth ∧ (s.clearAmpCounts).inputs = s.inputs
    ∧ (s.clearAmpCounts).outputs = s.outputs ∧ (s.clearAmpCounts).breaker = s.breaker
    ∧ (s.clearAmpCounts).assess = s.assess ∧ (s.clearAmpCounts).log = s.log
    ∧ (s.clearAmpCounts).drains = s.drains ∧ (s.clearAmpCounts).time = s.time
    ∧ (s.clearAmpCounts).actions = s.actions ∧ (s.clearAmpCounts).peer = s.peer
    ∧ (s.clearAmpCounts).tp = s.tp ∧ (s.clearAmpCounts).guard = s.guard
    ∧ (s.clearAmpCounts).ports = s.ports ∧ (s.clearAmpCounts).freeUsed = s.freeUsed := by
  refine ⟨?_, ?_, ?_, ?_, ?_, ?_, ?_, ?_, ?_, ?_, ?_, ?_, ?_, ?_, ?_, ?_, ?_, ?_⟩ <;> rfl

@[simp] theorem clearAmpCounts_amp (s : State) :
    (s.clearAmpCounts).amp = { s.amp with channels := s.amp.channels.mapWith fun _ c => c.clearCounts } := rfl

@[simp] theorem adjustChannels_keeps (s : State) (t : Target) (q : Quantity) (delta : Bool) (v : Int) :
    (s.adjustChannels t q delta v).pending = s.pending ∧ (s.adjustChannels t q delta v).store = s.store
    ∧ (s.adjustChannels t q delta v).edit = s.edit ∧ (s.adjustChannels t q delta v).seq = s.seq
    ∧ (s.adjustChannels t q delta v).amp = s.amp ∧ (s.adjustChannels t q delta v).inputs = s.inputs
    ∧ (s.adjustChannels t q delta v).outputs = s.outputs
    ∧ (s.adjustChannels t q delta v).breaker = s.breaker ∧ (s.adjustChannels t q delta v).assess = s.assess
    ∧ (s.adjustChannels t q delta v).log = s.log ∧ (s.adjustChannels t q delta v).drains = s.drains
    ∧ (s.adjustChannels t q delta v).time = s.time ∧ (s.adjustChannels t q delta v).actions = s.actions
    ∧ (s.adjustChannels t q delta v).peer = s.peer ∧ (s.adjustChannels t q delta v).tp = s.tp
    ∧ (s.adjustChannels t q delta v).guard = s.guard ∧ (s.adjustChannels t q delta v).ports = s.ports
    ∧ (s.adjustChannels t q delta v).freeUsed = s.freeUsed := by
  refine ⟨?_, ?_, ?_, ?_, ?_, ?_, ?_, ?_, ?_, ?_, ?_, ?_, ?_, ?_, ?_, ?_, ?_, ?_⟩ <;> rfl

@[simp] theorem loadSynth_keeps (s : State) (r : StateRecord) (first : Bool) :
    (s.loadSynth r first).pending = s.pending ∧ (s.loadSynth r first).store = s.store
    ∧ (s.loadSynth r first).edit = s.edit ∧ (s.loadSynth r first).seq = s.seq
    ∧ (s.loadSynth r first).amp = s.amp ∧ (s.loadSynth r first).inputs = s.inputs
    ∧ (s.loadSynth r first).outputs = s.outputs ∧ (s.loadSynth r first).assess = s.assess
    ∧ (s.loadSynth r first).log = s.log ∧ (s.loadSynth r first).drains = s.drains
    ∧ (s.loadSynth r first).time = s.time ∧ (s.loadSynth r first).actions = s.actions
    ∧ (s.loadSynth r first).peer = s.peer ∧ (s.loadSynth r first).tp = s.tp
    ∧ (s.loadSynth r first).guard = s.guard ∧ (s.loadSynth r first).ports = s.ports
    ∧ (s.loadSynth r first).freeUsed = s.freeUsed := by
  simp [State.loadSynth]

@[simp] theorem beginVisit_keeps (s : State) (i : Fin 32) (r : StateRecord) (first : Bool) :
    (s.beginVisit i r first).pending = s.pending ∧ (s.beginVisit i r first).store = s.store
    ∧ (s.beginVisit i r first).edit = s.edit ∧ (s.beginVisit i r first).synth = s.synth
    ∧ (s.beginVisit i r first).amp = s.amp ∧ (s.beginVisit i r first).inputs = s.inputs
    ∧ (s.beginVisit i r first).outputs = s.outputs ∧ (s.beginVisit i r first).breaker = s.breaker
    ∧ (s.beginVisit i r first).assess = s.assess ∧ (s.beginVisit i r first).log = s.log
    ∧ (s.beginVisit i r first).drains = s.drains ∧ (s.beginVisit i r first).actions = s.actions
    ∧ (s.beginVisit i r first).peer = s.peer ∧ (s.beginVisit i r first).tp = s.tp
    ∧ (s.beginVisit i r first).guard = s.guard ∧ (s.beginVisit i r first).ports = s.ports
    ∧ (s.beginVisit i r first).freeUsed = s.freeUsed := by
  refine ⟨?_, ?_, ?_, ?_, ?_, ?_, ?_, ?_, ?_, ?_, ?_, ?_, ?_, ?_, ?_, ?_, ?_⟩ <;> rfl

@[simp] theorem beginVisit_time (s : State) (i : Fin 32) (r : StateRecord) (first : Bool) :
    (s.beginVisit i r first).time = { s.time with boundaryPassed := true } := rfl

@[simp] theorem openContext_keeps (s : State) (i : Fin 32) (r : StateRecord) :
    (s.openContext i r).pending = s.pending ∧ (s.openContext i r).store = s.store
    ∧ (s.openContext i r).edit = s.edit ∧ (s.openContext i r).seq = s.seq
    ∧ (s.openContext i r).synth = s.synth ∧ (s.openContext i r).amp = s.amp
    ∧ (s.openContext i r).inputs = s.inputs ∧ (s.openContext i r).outputs = s.outputs
    ∧ (s.openContext i r).breaker = s.breaker ∧ (s.openContext i r).log = s.log
    ∧ (s.openContext i r).drains = s.drains ∧ (s.openContext i r).time = s.time
    ∧ (s.openContext i r).actions = s.actions ∧ (s.openContext i r).peer = s.peer
    ∧ (s.openContext i r).tp = s.tp ∧ (s.openContext i r).guard = s.guard
    ∧ (s.openContext i r).ports = s.ports ∧ (s.openContext i r).freeUsed = s.freeUsed := by
  refine ⟨?_, ?_, ?_, ?_, ?_, ?_, ?_, ?_, ?_, ?_, ?_, ?_, ?_, ?_, ?_, ?_, ?_, ?_⟩ <;> rfl

@[simp] theorem startKeepalive_keeps (s : State) :
    (s.startKeepalive).pending = s.pending ∧ (s.startKeepalive).store = s.store
    ∧ (s.startKeepalive).edit = s.edit ∧ (s.startKeepalive).seq = s.seq
    ∧ (s.startKeepalive).synth = s.synth ∧ (s.startKeepalive).amp = s.amp
    ∧ (s.startKeepalive).inputs = s.inputs ∧ (s.startKeepalive).outputs = s.outputs
    ∧ (s.startKeepalive).breaker = s.breaker ∧ (s.startKeepalive).assess = s.assess
    ∧ (s.startKeepalive).log = s.log ∧ (s.startKeepalive).drains = s.drains
    ∧ (s.startKeepalive).time = s.time ∧ (s.startKeepalive).actions = s.actions
    ∧ (s.startKeepalive).peer = s.peer ∧ (s.startKeepalive).tp = s.tp ∧ (s.startKeepalive).ports = s.ports
    ∧ (s.startKeepalive).freeUsed = s.freeUsed := by
  refine ⟨?_, ?_, ?_, ?_, ?_, ?_, ?_, ?_, ?_, ?_, ?_, ?_, ?_, ?_, ?_, ?_, ?_, ?_⟩ <;> rfl

@[simp] theorem conditionFalls_keeps (s : State) (i : Fin 4) :
    (s.conditionFalls i).pending = s.pending ∧ (s.conditionFalls i).store = s.store
    ∧ (s.conditionFalls i).edit = s.edit ∧ (s.conditionFalls i).synth = s.synth
    ∧ (s.conditionFalls i).amp = s.amp ∧ (s.conditionFalls i).inputs = s.inputs
    ∧ (s.conditionFalls i).outputs = s.outputs ∧ (s.conditionFalls i).breaker = s.breaker
    ∧ (s.conditionFalls i).assess = s.assess ∧ (s.conditionFalls i).log = s.log
    ∧ (s.conditionFalls i).drains = s.drains ∧ (s.conditionFalls i).time = s.time
    ∧ (s.conditionFalls i).actions = s.actions ∧ (s.conditionFalls i).peer = s.peer
    ∧ (s.conditionFalls i).tp = s.tp ∧ (s.conditionFalls i).guard = s.guard
    ∧ (s.conditionFalls i).ports = s.ports ∧ (s.conditionFalls i).freeUsed = s.freeUsed := by
  refine ⟨?_, ?_, ?_, ?_, ?_, ?_, ?_, ?_, ?_, ?_, ?_, ?_, ?_, ?_, ?_, ?_, ?_, ?_⟩ <;> rfl

@[simp] theorem defer_keeps (s : State) (c : Chosen) :
    (s.defer c).pending = s.pending ∧ (s.defer c).store = s.store ∧ (s.defer c).edit = s.edit
    ∧ (s.defer c).synth = s.synth ∧ (s.defer c).amp = s.amp ∧ (s.defer c).inputs = s.inputs
    ∧ (s.defer c).outputs = s.outputs ∧ (s.defer c).breaker = s.breaker ∧ (s.defer c).assess = s.assess
    ∧ (s.defer c).log = s.log ∧ (s.defer c).drains = s.drains ∧ (s.defer c).actions = s.actions
    ∧ (s.defer c).peer = s.peer ∧ (s.defer c).tp = s.tp ∧ (s.defer c).guard = s.guard
    ∧ (s.defer c).ports = s.ports ∧ (s.defer c).freeUsed = s.freeUsed := by
  refine ⟨?_, ?_, ?_, ?_, ?_, ?_, ?_, ?_, ?_, ?_, ?_, ?_, ?_, ?_, ?_, ?_, ?_⟩ <;> rfl

@[simp] theorem defer_seq (s : State) (c : Chosen) :
    (s.defer c).seq = { s.seq with chosen := some c, deferring := true } := rfl

@[simp] theorem defer_time (s : State) (c : Chosen) :
    (s.defer c).time = { s.time with boundaryPassed := true } := rfl

@[simp] theorem restartLoss_keeps (s : State) :
    (s.restartLoss).pending = s.pending ∧ (s.restartLoss).store = s.store ∧ (s.restartLoss).edit = s.edit
    ∧ (s.restartLoss).seq = s.seq ∧ (s.restartLoss).synth = s.synth ∧ (s.restartLoss).amp = s.amp
    ∧ (s.restartLoss).inputs = s.inputs ∧ (s.restartLoss).outputs = s.outputs
    ∧ (s.restartLoss).breaker = s.breaker ∧ (s.restartLoss).assess = s.assess ∧ (s.restartLoss).log = s.log
    ∧ (s.restartLoss).drains = s.drains ∧ (s.restartLoss).time = s.time
    ∧ (s.restartLoss).actions = s.actions ∧ (s.restartLoss).tp = s.tp ∧ (s.restartLoss).guard = s.guard
    ∧ (s.restartLoss).ports = s.ports ∧ (s.restartLoss).freeUsed = s.freeUsed := by
  refine ⟨?_, ?_, ?_, ?_, ?_, ?_, ?_, ?_, ?_, ?_, ?_, ?_, ?_, ?_, ?_, ?_, ?_, ?_⟩ <;> rfl

@[simp] theorem restartLoss_peer (s : State) :
    (s.restartLoss).peer = { s.peer with lossAt := some (s.now + 50000) } := rfl

@[simp] theorem discard_keeps (s : State) :
    (s.discard).pending = s.pending ∧ (s.discard).store = s.store ∧ (s.discard).edit = s.edit
    ∧ (s.discard).seq = s.seq ∧ (s.discard).synth = s.synth ∧ (s.discard).amp = s.amp
    ∧ (s.discard).inputs = s.inputs ∧ (s.discard).outputs = s.outputs ∧ (s.discard).breaker = s.breaker
    ∧ (s.discard).assess = s.assess ∧ (s.discard).log = s.log ∧ (s.discard).drains = s.drains
    ∧ (s.discard).time = s.time ∧ (s.discard).actions = s.actions ∧ (s.discard).tp = s.tp
    ∧ (s.discard).guard = s.guard ∧ (s.discard).ports = s.ports ∧ (s.discard).freeUsed = s.freeUsed := by
  refine ⟨?_, ?_, ?_, ?_, ?_, ?_, ?_, ?_, ?_, ?_, ?_, ?_, ?_, ?_, ?_, ?_, ?_, ?_⟩ <;> rfl

@[simp] theorem discard_peer (s : State) :
    (s.discard).peer = { s.peer with discards := countUp s.peer.discards } := rfl

@[simp] theorem agree_keeps (s : State) (t : AbsTime) :
    (s.agree t).pending = s.pending ∧ (s.agree t).store = s.store ∧ (s.agree t).edit = s.edit
    ∧ (s.agree t).synth = s.synth ∧ (s.agree t).amp = s.amp ∧ (s.agree t).inputs = s.inputs
    ∧ (s.agree t).outputs = s.outputs ∧ (s.agree t).breaker = s.breaker ∧ (s.agree t).assess = s.assess
    ∧ (s.agree t).log = s.log ∧ (s.agree t).drains = s.drains ∧ (s.agree t).time = s.time
    ∧ (s.agree t).actions = s.actions ∧ (s.agree t).tp = s.tp ∧ (s.agree t).guard = s.guard
    ∧ (s.agree t).ports = s.ports ∧ (s.agree t).freeUsed = s.freeUsed := by
  refine ⟨?_, ?_, ?_, ?_, ?_, ?_, ?_, ?_, ?_, ?_, ?_, ?_, ?_, ?_, ?_, ?_, ?_⟩ <;> rfl

@[simp] theorem agree_seq (s : State) (t : AbsTime) :
    (s.agree t).seq = { s.seq with startTime := some t } := rfl

@[simp] theorem agree_peer (s : State) (t : AbsTime) :
    (s.agree t).peer = { s.peer with agreement := .agreed } := rfl

@[simp] theorem softReset_keeps (s : State) :
    (s.softReset).pending = s.pending ∧ (s.softReset).inputs = s.inputs
    ∧ (s.softReset).freeUsed = s.freeUsed := by
  simp [State.softReset]

@[simp] theorem softReset_seq (s : State) :
    (s.softReset).seq = { Sequencer.powerOn with shotNumber := s.seq.shotNumber } := rfl

@[simp] theorem softReset_assess (s : State) :
    (s.softReset).assess = none := rfl

@[simp] theorem softReset_log (s : State) :
    (s.softReset).log = ReportLog.empty := rfl

@[simp] theorem softReset_time (s : State) :
    (s.softReset).time = s.time.softReset := rfl

@[simp] theorem softReset_peer (s : State) :
    (s.softReset).peer = s.peer.softReset := rfl

@[simp] theorem softReset_tp (s : State) :
    (s.softReset).tp = s.tp.softReset := rfl

@[simp] theorem softReset_ports (s : State) :
    (s.softReset).ports = s.ports.map PortInterface.softReset := rfl

@[simp] theorem softReset_drains (s : State) :
    (s.softReset).drains = s.drains.map Drain.softReset := rfl

@[simp] theorem softReset_outputs (s : State) :
    (s.softReset).outputs = s.outputs.map Output.softReset := rfl

@[simp] theorem softReset_actions (s : State) :
    (s.softReset).actions = { s.actions with entries := [] } := rfl

@[simp] theorem softReset_synth (s : State) :
    (s.softReset).synth = Synthesizer.powerOn s.store.config := rfl

/-- Two states that agree in every field are one. -/
@[ext] theorem State.ext_fields {s t : State}
    (pending : s.pending = t.pending) (store : s.store = t.store) (edit : s.edit = t.edit) (seq : s.seq =
    t.seq) (synth : s.synth = t.synth) (amp : s.amp = t.amp) (inputs : s.inputs = t.inputs) (outputs :
    s.outputs = t.outputs) (breaker : s.breaker = t.breaker) (assess : s.assess = t.assess) (log : s.log =
    t.log) (drains : s.drains = t.drains) (time : s.time = t.time) (actions : s.actions = t.actions) (peer :
    s.peer = t.peer) (tp : s.tp = t.tp) (guard : s.guard = t.guard) (ports : s.ports = t.ports) (freeUsed :
    s.freeUsed = t.freeUsed) : s = t := by
  cases s
  cases t
  simp_all

/-- The instant is the Time Base's local time. -/
@[simp] theorem now_eq (s : State) : s.now = s.time.localTime := rfl

end Sys2Proof.Machine
end

