-- ==== Sys2Proof/Laws/Actions.lean ====
section
/-! SUPPORT. The Timed Action List: the relation `TimedList.Moves` holds between the lists before and after
any placements and removals, and it keeps the groups' bounds and the order of the list. -/

namespace Sys2Proof.Machine

theorem insertAction_mem (a b : TimedAction) (l : List TimedAction) :
    b ∈ insertAction a l ↔ b = a ∨ b ∈ l := by
  induction l with
  | nil => simp [insertAction]
  | cons x rest ih =>
    unfold insertAction
    split
    · simp only [List.mem_cons, ih]
      tauto
    · simp

theorem insertAction_filter_length (f : TimedAction → Bool) (a : TimedAction) (l : List TimedAction) :
    ((insertAction a l).filter f).length = (l.filter f).length + if f a then 1 else 0 := by
  induction l with
  | nil =>
    by_cases h : f a = true <;> simp [insertAction, h]
  | cons x rest ih =>
    unfold insertAction
    split
    · by_cases h : f x = true <;> simp [h, ih]
      omega
    · by_cases h : f a = true <;> by_cases k : f x = true <;> simp [h, k]

/-- An action with the highest insertion number goes to its place in the order (R138). -/
theorem insertAction_pairwise (a : TimedAction) (l : List TimedAction)
    (h : l.Pairwise TimedAction.Before) (n : ∀ b ∈ l, b.insertion < a.insertion) :
    (insertAction a l).Pairwise TimedAction.Before := by
  induction l with
  | nil => simp [insertAction]
  | cons x rest ih =>
    rw [List.pairwise_cons] at h
    unfold insertAction
    split
    next le =>
      rw [List.pairwise_cons]
      refine ⟨?_, ih h.2 (fun b m => n b (by simp [m]))⟩
      intro b m
      rw [insertAction_mem] at m
      rcases m with rfl | m
      · have := n x (by simp)
        unfold TimedAction.Before
        omega
      · exact h.1 b m
    next le =>
      rw [List.pairwise_cons]
      refine ⟨?_, List.pairwise_cons.2 h⟩
      intro b m
      rw [List.mem_cons] at m
      unfold TimedAction.Before
      rcases m with rfl | m
      · omega
      · have := h.1 b m
        unfold TimedAction.Before at this
        omega

/-- A work is owned by no visit: a pole's or a teleprotection edge's (R138). -/
def Work.unowned (w : Work) : Prop := w.group = .pole ∨ w.group = .tpEdge

/-- What placements and removals do to the list: no group grows beyond its entries, the order stays, each entry was
there or is owned by `o` or by none, and each is owned as its kind says. -/
structure TimedList.Moves (o : Option Nat) (l m : TimedList) : Prop where
  groups : l.WithinGroups → m.WithinGroups
  ordered : l.Ordered → m.Ordered
  owned : ∀ a ∈ m.entries, a ∈ l.entries ∨ a.owner = none ∨ a.owner = o
  kinds : l.OwnedByKind → m.OwnedByKind

theorem TimedList.Moves.refl (o : Option Nat) (l : TimedList) : l.Moves o l :=
  ⟨id, id, fun _ h => .inl h, id⟩

theorem TimedList.Moves.trans {o : Option Nat} {l m n : TimedList} (h : l.Moves o m) (k : m.Moves o n) :
    l.Moves o n where
  groups := fun x => k.groups (h.groups x)
  ordered := fun x => k.ordered (h.ordered x)
  owned := fun a x => by
    rcases k.owned a x with y | y
    · exact h.owned a y
    · exact .inr y
  kinds := fun x => k.kinds (h.kinds x)

theorem TimedList.Moves.keep (o : Option Nat) (l : TimedList) (f : TimedAction → Bool) :
    l.Moves o (l.keep f) where
  groups := fun h g => by
    refine Nat.le_trans ?_ (h g)
    simp only [TimedList.held, TimedList.keep, List.filter_filter]
    refine List.Sublist.length_le ?_
    have : (l.entries.filter fun a => decide (a.work.group = g) && f a)
        = (l.entries.filter fun a => decide (a.work.group = g)).filter f := by
      rw [List.filter_filter]
      congr 1
      funext a
      exact Bool.and_comm _ _
    rw [this]
    exact List.filter_sublist
  ordered := fun h =>
    ⟨h.1.sublist List.filter_sublist, fun a m => h.2 a (List.mem_of_mem_filter m)⟩
  owned := fun _ m => .inl (List.mem_of_mem_filter m)
  kinds := fun h a m => h a (List.mem_of_mem_filter m)

theorem TimedList.Moves.eraseP (o : Option Nat) (l : TimedList) (f : TimedAction → Bool) :
    l.Moves o { l with entries := l.entries.eraseP f } where
  groups := fun h g =>
    Nat.le_trans ((List.eraseP_sublist.filter _).length_le) (h g)
  ordered := fun h =>
    ⟨h.1.sublist List.eraseP_sublist, fun a m => h.2 a (List.mem_of_mem_eraseP m)⟩
  owned := fun _ m => .inl (List.mem_of_mem_eraseP m)
  kinds := fun h a m => h a (List.mem_of_mem_eraseP m)

theorem TimedList.Moves.placeAndTake (o : Option Nat) (l : TimedList) : l.Moves o l.placeAndTake where
  groups := fun h => h
  ordered := fun h => ⟨h.1, fun a m => Nat.lt_succ_of_lt (h.2 a m)⟩
  owned := fun _ m => .inl m
  kinds := id

theorem TimedList.Moves.clear (o : Option Nat) (l : TimedList) : l.Moves o { l with entries := [] } where
  groups := fun _ g => by simp [TimedList.held]
  ordered := fun _ => ⟨List.Pairwise.nil, by simp⟩
  owned := by simp
  kinds := fun _ => by simp [TimedList.OwnedByKind]

theorem TimedList.place_entries (l : TimedList) (due : Nat) (w : Work) (owner : Option Nat)
    (h : l.hasFree w.group = true) :
    (l.place due w owner).entries
      = insertAction { due := due, insertion := l.next, work := w, owner := owner } l.entries := by
  simp [TimedList.place, h]

theorem TimedList.Moves.place (o : Option Nat) (l : TimedList) (due : Nat) (w : Work) (owner : Option Nat)
    (ok : owner = none ∨ owner = o) (kind : owner = none ↔ w.unowned) : l.Moves o (l.place due w owner) := by
  unfold TimedList.place
  split
  next free =>
    refine ⟨fun h g => ?_, fun h => ⟨insertAction_pairwise _ _ h.1 h.2, fun a m => ?_⟩, fun a m => ?_,
      fun h a m => ?_⟩
    · simp only [TimedList.held, insertAction_filter_length]
      have := h g
      simp only [TimedList.held] at this
      split
      next e =>
        simp only [decide_eq_true_eq] at e
        subst e
        simp only [TimedList.hasFree, decide_eq_true_eq] at free
        simp only [TimedList.held] at free
        omega
      next => omega
    · rcases (insertAction_mem _ _ _).1 m with rfl | m
      · exact Nat.lt_succ_self _
      · exact Nat.lt_succ_of_lt (h.2 a m)
    · rcases (insertAction_mem _ _ _).1 m with rfl | m
      · exact .inr ok
      · exact .inl m
    · rcases (insertAction_mem _ _ _).1 m with rfl | m
      · exact kind
      · exact h a m
  next => exact .refl o l

theorem TimedList.Moves.ite {o : Option Nat} {l m : TimedList} (c : Prop) [Decidable c] (h : l.Moves o m) :
    l.Moves o (if c then m else l) := by
  split
  · exact h
  · exact .refl o l

/-- The groups bound the whole list: 24 entries (Table 8-4). -/
theorem TimedList.WithinGroups.length_le {l : TimedList} (h : l.WithinGroups) : l.entries.length ≤ 24 := by
  have e : l.entries.length = l.held .pole + l.held .condition + l.held .stateOutput + l.held .tpEdge := by
    simp only [TimedList.held]
    induction l.entries with
    | nil => rfl
    | cons a rest ih =>
      cases g : a.work.group <;> simp [g, ih] <;> omega
  have a := h .pole
  have b := h .condition
  have c := h .stateOutput
  have d := h .tpEdge
  simp only [Group.capacity] at a b c d
  omega

end Sys2Proof.Machine
end

