-- ==== Sys2Proof/Laws/Ops.lean ====
section
/-! SUPPORT. The shared operations over the log, the drain channels, the outputs and the program: what
each leaves as it was, and once what it does. -/

namespace Sys2Proof.Machine

/-! ### The log and the drain channels -/

@[simp] theorem copyFor_keeps (s : State) (p : Port) :
    (s.copyFor p).pending = s.pending ∧ (s.copyFor p).store = s.store ∧ (s.copyFor p).edit = s.edit
    ∧ (s.copyFor p).seq = s.seq ∧ (s.copyFor p).synth = s.synth ∧ (s.copyFor p).amp = s.amp
    ∧ (s.copyFor p).inputs = s.inputs ∧ (s.copyFor p).outputs = s.outputs
    ∧ (s.copyFor p).breaker = s.breaker ∧ (s.copyFor p).assess = s.assess ∧ (s.copyFor p).log = s.log
    ∧ (s.copyFor p).time = s.time ∧ (s.copyFor p).actions = s.actions ∧ (s.copyFor p).peer = s.peer
    ∧ (s.copyFor p).tp = s.tp ∧ (s.copyFor p).guard = s.guard ∧ (s.copyFor p).freeUsed = s.freeUsed := by
  refine ⟨?_, ?_, ?_, ?_, ?_, ?_, ?_, ?_, ?_, ?_, ?_, ?_, ?_, ?_, ?_, ?_, ?_⟩ <;> rfl

@[simp] theorem copyBoth_keeps (s : State) :
    (s.copyBoth).pending = s.pending ∧ (s.copyBoth).store = s.store ∧ (s.copyBoth).edit = s.edit
    ∧ (s.copyBoth).seq = s.seq ∧ (s.copyBoth).synth = s.synth ∧ (s.copyBoth).amp = s.amp
    ∧ (s.copyBoth).inputs = s.inputs ∧ (s.copyBoth).outputs = s.outputs ∧ (s.copyBoth).breaker = s.breaker
    ∧ (s.copyBoth).assess = s.assess ∧ (s.copyBoth).log = s.log ∧ (s.copyBoth).time = s.time
    ∧ (s.copyBoth).actions = s.actions ∧ (s.copyBoth).peer = s.peer ∧ (s.copyBoth).tp = s.tp
    ∧ (s.copyBoth).guard = s.guard ∧ (s.copyBoth).freeUsed = s.freeUsed := by
  simp [State.copyBoth]

theorem ReportLog.offered_same (l : ReportLog) (r : LogRecord) :
    (l.offered r).freed = l.freed ∧ (l.offered r).reservation = l.reservation
    ∧ (l.offered r).verdicts = l.verdicts := by
  simp only [ReportLog.offered, ReportLog.write, ReportLog.lose]
  split
  · simp
  · split <;> simp

/-- An offer that finds a slot free writes after the newest. -/
theorem ReportLog.offered_write (l : ReportLog) (r : LogRecord) (h : 1 ≤ l.unreserved) :
    l.offered r = { l with records := l.records ++ [r] } := by
  simp [ReportLog.offered, ReportLog.write, h]

/-- An offer that finds none leaves the records. -/
theorem ReportLog.offered_full (l : ReportLog) (r : LogRecord) (h : l.unreserved = 0) :
    (l.offered r).records = l.records := by
  simp only [ReportLog.offered, h]
  simp [ReportLog.lose]
  split <;> rfl

/-- The records after an offer are those before, and perhaps the one offered. -/
theorem ReportLog.offered_records (l : ReportLog) (r : LogRecord) :
    (l.offered r).records = l.records ∨ (l.offered r).records = l.records ++ [r] := by
  by_cases h : 1 ≤ l.unreserved
  · exact .inr (by rw [l.offered_write r h])
  · exact .inl (l.offered_full r (by omega))

@[simp] theorem offer_keeps (s : State) (time : Nat) (b : RecordBody) :
    (s.offer time b).pending = s.pending ∧ (s.offer time b).store = s.store
    ∧ (s.offer time b).edit = s.edit ∧ (s.offer time b).seq = s.seq ∧ (s.offer time b).synth = s.synth
    ∧ (s.offer time b).amp = s.amp ∧ (s.offer time b).inputs = s.inputs
    ∧ (s.offer time b).outputs = s.outputs ∧ (s.offer time b).breaker = s.breaker
    ∧ (s.offer time b).assess = s.assess ∧ (s.offer time b).time = s.time
    ∧ (s.offer time b).actions = s.actions ∧ (s.offer time b).peer = s.peer ∧ (s.offer time b).tp = s.tp
    ∧ (s.offer time b).guard = s.guard ∧ (s.offer time b).freeUsed = s.freeUsed := by
  unfold State.offer
  split <;> simp

@[simp] theorem offer_log (s : State) (time : Nat) (b : RecordBody) :
    (s.offer time b).log = s.log.offered (s.makeRecord time b) := by
  simp only [State.offer, ReportLog.offered]
  split <;> simp

@[simp] theorem ReportLog.offered_freed (l : ReportLog) (r : LogRecord) : (l.offered r).freed = l.freed :=
  (l.offered_same r).1

@[simp] theorem ReportLog.offered_reservation (l : ReportLog) (r : LogRecord) :
    (l.offered r).reservation = l.reservation := (l.offered_same r).2.1

@[simp] theorem ReportLog.offered_verdicts (l : ReportLog) (r : LogRecord) :
    (l.offered r).verdicts = l.verdicts := (l.offered_same r).2.2

/-- A record depends on the shot number and the shot quality alone. -/
theorem makeRecord_congr (s t : State) (h : s.seq.shotNumber = t.seq.shotNumber)
    (q : s.time.quality = t.time.quality) (time : Nat) (b : RecordBody) :
    s.makeRecord time b = t.makeRecord time b := by simp [State.makeRecord, h, q]

@[simp] theorem writeShotEnd_keeps (s : State) (time : Nat) (b : RecordBody) :
    (s.writeShotEnd time b).pending = s.pending ∧ (s.writeShotEnd time b).store = s.store
    ∧ (s.writeShotEnd time b).edit = s.edit ∧ (s.writeShotEnd time b).seq = s.seq
    ∧ (s.writeShotEnd time b).synth = s.synth ∧ (s.writeShotEnd time b).amp = s.amp
    ∧ (s.writeShotEnd time b).inputs = s.inputs ∧ (s.writeShotEnd time b).outputs = s.outputs
    ∧ (s.writeShotEnd time b).breaker = s.breaker ∧ (s.writeShotEnd time b).assess = s.assess
    ∧ (s.writeShotEnd time b).time = s.time ∧ (s.writeShotEnd time b).actions = s.actions
    ∧ (s.writeShotEnd time b).peer = s.peer ∧ (s.writeShotEnd time b).tp = s.tp
    ∧ (s.writeShotEnd time b).guard = s.guard ∧ (s.writeShotEnd time b).freeUsed = s.freeUsed := by
  simp [State.writeShotEnd]

@[simp] theorem writeShotEnd_log (s : State) (time : Nat) (b : RecordBody) :
    (s.writeShotEnd time b).log
      = { s.log with records := s.log.records ++ [s.makeRecord time b], reservation := 0 } := by
  simp [State.writeShotEnd, ReportLog.write]

@[simp] theorem offerAll_keeps (l : List RecordBody) (s : State) (time : Nat) :
    (s.offerAll time l).pending = s.pending ∧ (s.offerAll time l).store = s.store
    ∧ (s.offerAll time l).edit = s.edit ∧ (s.offerAll time l).seq = s.seq
    ∧ (s.offerAll time l).synth = s.synth ∧ (s.offerAll time l).amp = s.amp
    ∧ (s.offerAll time l).inputs = s.inputs ∧ (s.offerAll time l).outputs = s.outputs
    ∧ (s.offerAll time l).breaker = s.breaker ∧ (s.offerAll time l).assess = s.assess
    ∧ (s.offerAll time l).time = s.time ∧ (s.offerAll time l).actions = s.actions
    ∧ (s.offerAll time l).peer = s.peer ∧ (s.offerAll time l).tp = s.tp
    ∧ (s.offerAll time l).guard = s.guard ∧ (s.offerAll time l).freeUsed = s.freeUsed := by
  induction l generalizing s with
  | nil => simp [State.offerAll]
  | cons b rest ih => simp [State.offerAll, ih]

@[simp] theorem offerAll_log (l : List RecordBody) (s : State) (time : Nat) :
    (s.offerAll time l).log.freed = s.log.freed ∧ (s.offerAll time l).log.reservation = s.log.reservation
    ∧ (s.offerAll time l).log.verdicts = s.log.verdicts := by
  induction l generalizing s with
  | nil => simp [State.offerAll]
  | cons b rest ih => simp [State.offerAll, ih]

/-- Every record of a list of offers is written, in order, while the slots last. -/
theorem offerAll_records (l : List RecordBody) (s : State) (time : Nat) (h : l.length ≤ s.log.unreserved) :
    (s.offerAll time l).log.records = s.log.records ++ l.map (s.makeRecord time) := by
  induction l generalizing s with
  | nil => simp [State.offerAll]
  | cons b rest ih =>
    simp only [List.length_cons] at h
    have w := s.log.offered_write (s.makeRecord time b) (by omega)
    have e : ∀ x, (s.offer time b).makeRecord time x = s.makeRecord time x :=
      fun x => makeRecord_congr _ _ (by simp) (by simp) _ _
    have room : rest.length ≤ (s.offer time b).log.unreserved := by
      simp only [offer_log, w, ReportLog.unreserved, ReportLog.free, List.length_append, List.length_singleton]
      simp only [ReportLog.unreserved, ReportLog.free] at h
      omega
    rw [State.offerAll, ih _ room, offer_log, w, List.map_cons, funext e]
    simp

/-! ### Outputs -/

@[simp] theorem setOutput_keeps (s : State) (n : Fin 4) (level : Bool) (src : OutputSource) :
    (s.setOutput n level src).pending = s.pending ∧ (s.setOutput n level src).store = s.store
    ∧ (s.setOutput n level src).edit = s.edit ∧ (s.setOutput n level src).seq = s.seq
    ∧ (s.setOutput n level src).synth = s.synth ∧ (s.setOutput n level src).amp = s.amp
    ∧ (s.setOutput n level src).inputs = s.inputs ∧ (s.setOutput n level src).breaker = s.breaker
    ∧ (s.setOutput n level src).assess = s.assess ∧ (s.setOutput n level src).time = s.time
    ∧ (s.setOutput n level src).actions = s.actions ∧ (s.setOutput n level src).peer = s.peer
    ∧ (s.setOutput n level src).tp = s.tp ∧ (s.setOutput n level src).guard = s.guard
    ∧ (s.setOutput n level src).freeUsed = s.freeUsed := by
  unfold State.setOutput
  split
  · simp
  · dsimp only
    split <;> simp

/-- The outputs after one has taken a level. -/
@[simp] theorem setOutput_outputs (s : State) (n : Fin 4) (level : Bool) (src : OutputSource) :
    (s.setOutput n level src).outputs = s.outputs.set n { s.outputs[n] with level := level } := by
  unfold State.setOutput
  split
  next h =>
    apply Vector.ext
    intro i hi
    simp only [Vector.getElem_set]
    split
    next e =>
      subst e
      cases hs : s.outputs[n]
      simp_all
    next => rfl
  next h =>
    dsimp only
    split <;> simp

/-- The log after an output has taken a level (R86). -/
theorem setOutput_log (s : State) (n : Fin 4) (level : Bool) (src : OutputSource) :
    (s.setOutput n level src).log
      = if s.outputs[n].level ≠ level ∧ s.shotActive = true then
          s.log.offered (s.makeRecord (s.shotTime s.now) (.outputChange n level src))
        else s.log := by
  by_cases h : s.outputs[n].level = level
  · rw [show s.setOutput n level src = s from if_pos h, if_neg (fun x => x.1 h)]
  · by_cases a : s.shotActive = true
    · rw [if_pos ⟨h, a⟩]
      have b : State.shotActive { s with
          outputs := s.outputs.set n { s.outputs[n] with level := level } } = true := a
      simp only [State.setOutput, if_neg h, if_pos b, offer_log]
      rfl
    · rw [if_neg (fun x => a x.2)]
      have b : ¬ State.shotActive { s with
          outputs := s.outputs.set n { s.outputs[n] with level := level } } = true := a
      simp only [State.setOutput, if_neg h, if_neg b]

@[simp] theorem setOutput_log_same (s : State) (n : Fin 4) (level : Bool) (src : OutputSource) :
    (s.setOutput n level src).log.freed = s.log.freed
    ∧ (s.setOutput n level src).log.reservation = s.log.reservation
    ∧ (s.setOutput n level src).log.verdicts = s.log.verdicts := by
  rw [setOutput_log]
  split <;> simp

/-- One step of a refresh. -/
def State.refreshOne (s : State) (src : OutputSource) (rule : OutputRole → Option Bool) (n : Fin 4) : State :=
  match rule s.outputs[n].role with
  | some level => s.setOutput n level src
  | none => s

@[simp] theorem refreshOne_keeps (s : State) (src : OutputSource) (rule : OutputRole → Option Bool) (n : Fin 4) :
    (s.refreshOne src rule n).pending = s.pending ∧ (s.refreshOne src rule n).store = s.store
    ∧ (s.refreshOne src rule n).edit = s.edit ∧ (s.refreshOne src rule n).seq = s.seq
    ∧ (s.refreshOne src rule n).synth = s.synth ∧ (s.refreshOne src rule n).amp = s.amp
    ∧ (s.refreshOne src rule n).inputs = s.inputs ∧ (s.refreshOne src rule n).breaker = s.breaker
    ∧ (s.refreshOne src rule n).assess = s.assess ∧ (s.refreshOne src rule n).time = s.time
    ∧ (s.refreshOne src rule n).actions = s.actions ∧ (s.refreshOne src rule n).peer = s.peer
    ∧ (s.refreshOne src rule n).tp = s.tp ∧ (s.refreshOne src rule n).guard = s.guard
    ∧ (s.refreshOne src rule n).freeUsed = s.freeUsed := by
  unfold State.refreshOne
  split <;> simp

theorem refreshOutputs_eq (s : State) (src : OutputSource) (rule : OutputRole → Option Bool) :
    s.refreshOutputs src rule
      = (((s.refreshOne src rule 0).refreshOne src rule 1).refreshOne src rule 2).refreshOne src rule 3 := rfl

@[simp] theorem refreshOutputs_keeps (s : State) (src : OutputSource) (rule : OutputRole → Option Bool) :
    (s.refreshOutputs src rule).pending = s.pending ∧ (s.refreshOutputs src rule).store = s.store
    ∧ (s.refreshOutputs src rule).edit = s.edit ∧ (s.refreshOutputs src rule).seq = s.seq
    ∧ (s.refreshOutputs src rule).synth = s.synth ∧ (s.refreshOutputs src rule).amp = s.amp
    ∧ (s.refreshOutputs src rule).inputs = s.inputs ∧ (s.refreshOutputs src rule).breaker = s.breaker
    ∧ (s.refreshOutputs src rule).assess = s.assess ∧ (s.refreshOutputs src rule).time = s.time
    ∧ (s.refreshOutputs src rule).actions = s.actions ∧ (s.refreshOutputs src rule).peer = s.peer
    ∧ (s.refreshOutputs src rule).tp = s.tp ∧ (s.refreshOutputs src rule).guard = s.guard
    ∧ (s.refreshOutputs src rule).freeUsed = s.freeUsed := by
  simp [refreshOutputs_eq]

@[simp] theorem refreshOne_log_same (s : State) (src : OutputSource) (rule : OutputRole → Option Bool)
    (n : Fin 4) :
    (s.refreshOne src rule n).log.freed = s.log.freed
    ∧ (s.refreshOne src rule n).log.reservation = s.log.reservation
    ∧ (s.refreshOne src rule n).log.verdicts = s.log.verdicts := by
  unfold State.refreshOne
  split <;> simp

@[simp] theorem refreshOutputs_log_same (s : State) (src : OutputSource) (rule : OutputRole → Option Bool) :
    (s.refreshOutputs src rule).log.freed = s.log.freed
    ∧ (s.refreshOutputs src rule).log.reservation = s.log.reservation
    ∧ (s.refreshOutputs src rule).log.verdicts = s.log.verdicts := by
  simp [refreshOutputs_eq]

/-- An output after a rule by role. -/
def Output.ruled (o : Output) (rule : OutputRole → Option Bool) : Output :=
  { o with level := (rule o.role).getD o.level }

theorem refreshOne_outputs (s : State) (src : OutputSource) (rule : OutputRole → Option Bool) (n : Fin 4)
    (i : Nat) (h : i < 4) :
    (s.refreshOne src rule n).outputs[i] = if n.val = i then (s.outputs[i]).ruled rule else s.outputs[i] := by
  have same : rule s.outputs[n].role = rule s.outputs[n.val].role := rfl
  unfold State.refreshOne
  split
  next level e =>
    rw [same] at e
    by_cases k : n.val = i
    · subst k
      simp [Output.ruled, e]
    · simp [k]
  next e =>
    rw [same] at e
    by_cases k : n.val = i
    · subst k
      simp [Output.ruled, e]
    · simp [k]

/-- Every output after a refresh. -/
@[simp] theorem refreshOutputs_outputs (s : State) (src : OutputSource) (rule : OutputRole → Option Bool)
    (i : Nat) (h : i < 4) : (s.refreshOutputs src rule).outputs[i] = (s.outputs[i]).ruled rule := by
  rw [refreshOutputs_eq]
  have cases : i = 0 ∨ i = 1 ∨ i = 2 ∨ i = 3 := by omega
  rcases cases with rfl | rfl | rfl | rfl <;> simp [refreshOne_outputs]

@[simp] theorem refreshAux_keeps (s : State) :
    (s.refreshAux).pending = s.pending ∧ (s.refreshAux).store = s.store ∧ (s.refreshAux).edit = s.edit
    ∧ (s.refreshAux).seq = s.seq ∧ (s.refreshAux).synth = s.synth ∧ (s.refreshAux).amp = s.amp
    ∧ (s.refreshAux).inputs = s.inputs ∧ (s.refreshAux).breaker = s.breaker
    ∧ (s.refreshAux).assess = s.assess ∧ (s.refreshAux).time = s.time ∧ (s.refreshAux).actions = s.actions
    ∧ (s.refreshAux).peer = s.peer ∧ (s.refreshAux).tp = s.tp ∧ (s.refreshAux).guard = s.guard
    ∧ (s.refreshAux).freeUsed = s.freeUsed := by
  simp [State.refreshAux]

@[simp] theorem refreshAux_log_same (s : State) :
    (s.refreshAux).log.freed = s.log.freed ∧ (s.refreshAux).log.reservation = s.log.reservation
    ∧ (s.refreshAux).log.verdicts = s.log.verdicts := by
  simp [State.refreshAux]

@[simp] theorem refreshAux_outputs (s : State) (i : Nat) (h : i < 4) :
    s.refreshAux.outputs[i] = (s.outputs[i]).ruled s.breaker.auxLevel := by
  simp [State.refreshAux]

/-! ### Frames sent and applies -/

@[simp] theorem send_keeps (s : State) (f : PeerFrame) :
    (s.send f).pending = s.pending ∧ (s.send f).store = s.store ∧ (s.send f).edit = s.edit
    ∧ (s.send f).seq = s.seq ∧ (s.send f).synth = s.synth ∧ (s.send f).amp = s.amp
    ∧ (s.send f).inputs = s.inputs ∧ (s.send f).outputs = s.outputs ∧ (s.send f).breaker = s.breaker
    ∧ (s.send f).assess = s.assess ∧ (s.send f).log = s.log ∧ (s.send f).drains = s.drains
    ∧ (s.send f).time = s.time ∧ (s.send f).actions = s.actions ∧ (s.send f).tp = s.tp
    ∧ (s.send f).guard = s.guard ∧ (s.send f).ports = s.ports ∧ (s.send f).freeUsed = s.freeUsed := by
  unfold State.send
  split <;> simp

@[simp] theorem send_peer (s : State) (f : PeerFrame) :
    (s.send f).peer
      = { s.peer with sent := if s.peer.link = .up then s.peer.sent ++ [f] else s.peer.sent } := by
  unfold State.send
  split <;> simp [*]

@[simp] theorem applyPoint_keeps (s : State) :
    (s.applyPoint).pending = s.pending ∧ (s.applyPoint).edit = s.edit ∧ (s.applyPoint).seq = s.seq
    ∧ (s.applyPoint).synth = s.synth ∧ (s.applyPoint).amp = s.amp ∧ (s.applyPoint).inputs = s.inputs
    ∧ (s.applyPoint).outputs = s.outputs ∧ (s.applyPoint).breaker = s.breaker
    ∧ (s.applyPoint).assess = s.assess ∧ (s.applyPoint).log = s.log ∧ (s.applyPoint).drains = s.drains
    ∧ (s.applyPoint).time = s.time ∧ (s.applyPoint).actions = s.actions ∧ (s.applyPoint).peer = s.peer
    ∧ (s.applyPoint).tp = s.tp ∧ (s.applyPoint).guard = s.guard ∧ (s.applyPoint).freeUsed = s.freeUsed := by
  unfold State.applyPoint
  split <;> simp

@[simp] theorem applyPoint_config (s : State) : s.applyPoint.store.config = s.store.config := by
  unfold State.applyPoint
  split <;> simp

/-- A slot at an apply point. -/
theorem Slot.applyStaged_of_none (sl : Slot) (h : sl.staged = none) : sl.applyStaged = sl := by
  simp [Slot.applyStaged, h]

theorem Slot.applyStaged_of_some (sl : Slot) (p : Port) (r : StateRecord) (h : sl.staged = some (p, r)) :
    sl.applyStaged = { active := some r, staged := none, revision := (sl.revision + 1) % 65536 } := by
  simp [Slot.applyStaged, h, Slot.applyRecord]

theorem ProgramStore.anyStaged_false (st : ProgramStore) (h : st.anyStaged = false) (i : Fin 32) :
    st.slots[i].staged = none := by
  simp only [ProgramStore.anyStaged, List.any_eq_false] at h
  have := h st.slots[i] (by simp)
  simpa using this

/-- Every slot after an apply point with no hold is the slot with its pending copy applied. -/
theorem applyPoint_slot (s : State) (h : s.noHold = true) (i : Fin 32) :
    s.applyPoint.store.slots[i] = (s.store.slots[i]).applyStaged := by
  unfold State.applyPoint
  by_cases a : s.store.anyStaged = true
  · simp [h, a]
  · have a' : s.store.anyStaged = false := by simpa using a
    have e : (s.store.slots[i.val]).staged = none := s.store.anyStaged_false a' i
    simp [a', Slot.applyStaged_of_none _ e]

/-- An apply point under a hold does nothing. -/
theorem applyPoint_held (s : State) (h : s.noHold = false) : s.applyPoint = s := by
  simp [State.applyPoint, h]

end Sys2Proof.Machine
end

