-- ==== Sys2Proof/Laws/Log.lean ====
section
/-! SUPPORT. Once and for all, what the producers of records can do: the relation `State.Logs` holds
between the states before and after any offers, copies and raised causes, and it keeps the log's room and
the consistency of both drain channels. -/

namespace Sys2Proof.Machine

/-! ### Causes -/

/-- Causes only become set, and the rest of a Port Interface stays (R171). -/
def PortInterface.Grows (a b : PortInterface) : Prop :=
  a.requests &&& b.requests = a.requests ∧ a.repeated &&& b.repeated = a.repeated
    ∧ b.enables = a.enables ∧ b.response = a.response

theorem and_absorb_trans {n : Nat} (a b c : BitVec n) (h : a &&& b = a) (k : b &&& c = b) : a &&& c = a := by
  rw [← h, BitVec.and_assoc, k]

theorem PortInterface.Grows.refl (a : PortInterface) : a.Grows a := by simp [PortInterface.Grows]

theorem PortInterface.Grows.trans {a b c : PortInterface} (h : a.Grows b) (k : b.Grows c) : a.Grows c :=
  ⟨and_absorb_trans _ _ _ h.1 k.1, and_absorb_trans _ _ _ h.2.1 k.2.1, k.2.2.1.trans h.2.2.1,
    k.2.2.2.trans h.2.2.2⟩

theorem and_or_self {n : Nat} (a b : BitVec n) : a &&& (a ||| b) = a := by
  ext i
  simp only [BitVec.getElem_and, BitVec.getElem_or]
  cases a[i] <;> simp

theorem PortInterface.Grows.raise (q : PortInterface) (c : NotifyCause) : q.Grows (q.raise c) := by
  simp [PortInterface.Grows, PortInterface.raise, and_or_self]

theorem PortInterface.Grows.raiseTimes (q : PortInterface) (c : NotifyCause) (n : Nat) :
    q.Grows (q.raiseTimes c n) := by
  induction n generalizing q with
  | zero => exact .refl q
  | succ n ih => exact (PortInterface.Grows.raise q c).trans (ih _)

/-! ### Drain channels -/

/-- A log that keeps its oldest position and gains records leaves each channel holding what it held. -/
theorem Drain.HoldsItsRecords.grow {d : Drain} {l m : ReportLog} (h : d.HoldsItsRecords l)
    (f : m.freed = l.freed) (n : l.records <+: m.records) : d.HoldsItsRecords m := by
  obtain ⟨more, n⟩ := n
  unfold Drain.HoldsItsRecords at *
  revert h
  split
  next consumed copy _ _ _ =>
    rintro ⟨h1, h2, h3, h4, h5⟩
    rw [f, ← n]
    refine ⟨h1, h2, by simp; omega, ?_, h5⟩
    rw [h4, List.drop_append, List.take_append_of_le_length]
    simp
    omega
  · exact id
  · exact id

/-- A log that keeps its records and its oldest position keeps a channel consistent. -/
theorem Drain.Consistent.sameRecords {d : Drain} {l m : ReportLog} (h : d.Consistent l)
    (f : m.freed = l.freed) (n : m.records = l.records) : d.Consistent m :=
  ⟨h.1.grow f (by rw [n]), fun w => h.2 (by simpa [ReportLog.awaiting, f, n] using w)⟩

/-- The channel has just copied: it holds its records, and the page being filled, which is the part's, may
be full. -/
def Drain.Filling (d : Drain) (l : ReportLog) : Prop :=
  d.enabled = true ∧ ∃ consumed copy, d.consumedPos = some consumed ∧ d.copyPos = some copy
    ∧ l.freed ≤ consumed ∧ consumed ≤ copy ∧ copy ≤ l.freed + l.records.length
    ∧ (d.page d.toggle.other).records ++ (d.page d.toggle).records
        = (l.records.drop (consumed - l.freed)).take (copy - consumed)
    ∧ (d.page d.toggle).owner = .part ∧ (d.page d.toggle).records.length ≤ 16
    ∧ (d.page d.toggle.other).records.length ≤ 16
    ∧ (d.flush.isSome = true ↔ (d.page d.toggle).records ≠ [])
    ∧ ((d.page d.toggle.other).owner = .part → (d.page d.toggle.other).records = [])

theorem Drain.held_part (d : Drain) (h : (d.page d.toggle).owner = .part) :
    d.held = (d.page d.toggle.other).records ++ (d.page d.toggle).records := by
  cases t : d.toggle <;> simp [Drain.held, Drain.older, t, PageName.other, Drain.page] at h ⊢ <;> simp [h]

theorem Drain.held_port (d : Drain) (h : (d.page d.toggle).owner = .port) :
    d.held = (d.page d.toggle).records ++ (d.page d.toggle.other).records := by
  simp [Drain.held, Drain.older, h]

/-- What an enabled channel that holds its records looks like. -/
theorem Drain.HoldsItsRecords.enabled {d : Drain} {l : ReportLog} (h : d.HoldsItsRecords l)
    (e : d.enabled = true) :
    ∃ consumed copy, d.consumedPos = some consumed ∧ d.copyPos = some copy
      ∧ l.freed ≤ consumed ∧ consumed ≤ copy ∧ copy ≤ l.freed + l.records.length
      ∧ d.held = (l.records.drop (consumed - l.freed)).take (copy - consumed) ∧ d.PagesInOrder := by
  unfold Drain.HoldsItsRecords at h
  cases c : d.consumedPos <;> cases k : d.copyPos <;> simp only [e, c, k] at h
  exact ⟨_, _, rfl, rfl, h⟩

/-- A channel with a copy position is enabled. -/
theorem Drain.HoldsItsRecords.enabled_of_copyPos {d : Drain} {l : ReportLog} (h : d.HoldsItsRecords l)
    (e : d.copyPos ≠ none) : d.enabled = true := by
  unfold Drain.HoldsItsRecords at h
  cases k : d.copyPos <;> cases en : d.enabled <;> cases c : d.consumedPos <;> simp_all

/-- A filled page that is not full needs no handover. -/
theorem Drain.Filling.holds {d : Drain} {l : ReportLog} (h : d.Filling l)
    (room : (d.page d.toggle).records.length < 16) : d.HoldsItsRecords l := by
  obtain ⟨en, consumed, copy, hc, hk, h1, h2, h3, h4, own, -, len', flush, other⟩ := h
  simp only [Drain.HoldsItsRecords, en, hc, hk]
  refine ⟨h1, h2, h3, (d.held_part own).trans h4, by omega, len', ?_, fun _ => ⟨room, flush⟩, other⟩
  simp [own]

@[simp] theorem Drain.handOver_keeps (d : Drain) (c : HandoverCause) :
    (d.handOver c).enabled = d.enabled ∧ (d.handOver c).copyPos = d.copyPos
    ∧ (d.handOver c).consumedPos = d.consumedPos := by
  cases t : d.toggle <;> simp [Drain.handOver, Drain.setPage, t]

/-- A handover: the page filled is the port's, under the next number, and the toggle names the other one
(R121). -/
theorem Drain.handOver_pages (d : Drain) (c : HandoverCause) :
    (d.handOver c).toggle = d.toggle.other ∧ (d.handOver c).flush = none
    ∧ (d.handOver c).count = (d.count + 1) % 65536
    ∧ (d.handOver c).page d.toggle
        = { d.page d.toggle with owner := .port, number := (d.count + 1) % 65536, cause := some c }
    ∧ (d.handOver c).page d.toggle.other = d.page d.toggle.other := by
  cases t : d.toggle <;> simp [Drain.handOver, Drain.setPage, Drain.page, PageName.other, t]

@[simp] theorem PageName.other_other (n : PageName) : n.other.other = n := by cases n <;> rfl

/-- A handover of a page that holds records leaves the channel holding what it held, in order (R121). -/
theorem Drain.Filling.handOver_holds {d : Drain} {l : ReportLog} (h : d.Filling l) (c : HandoverCause) :
    (d.handOver c).HoldsItsRecords l := by
  obtain ⟨en, consumed, copy, hc, hk, h1, h2, h3, h4, own, len, len', flush, other⟩ := h
  obtain ⟨tg, fl, -, this, that⟩ := d.handOver_pages c
  simp only [Drain.HoldsItsRecords, Drain.handOver_keeps, en, hc, hk]
  refine ⟨h1, h2, h3, ?_, ?_⟩
  · rw [← h4]
    cases o : (d.page d.toggle.other).owner with
    | port => rw [Drain.held_port _ (by rw [tg, that, o]), tg, PageName.other_other, that, this]
    | part =>
      rw [Drain.held_part _ (by rw [tg, that, o]), tg, PageName.other_other, that, this, other o]
      simp
  · unfold Drain.PagesInOrder
    rw [tg, fl, PageName.other_other, that, this]
    refine ⟨len', len, fun _ => ⟨rfl, rfl⟩, fun o => ?_, by simp⟩
    simp [other o]

@[simp] theorem Drain.copyOne_keeps (d : Drain) (now : Nat) (r : LogRecord) :
    (d.copyOne now r).enabled = d.enabled ∧ (d.copyOne now r).consumedPos = d.consumedPos
    ∧ (d.copyOne now r).toggle = d.toggle
    ∧ (d.copyOne now r).copyPos = d.copyPos.map (· + 1) := by
  cases t : d.toggle <;> simp [Drain.copyOne, Drain.setPage, t]

/-- A record copied stands last in the page being filled, whose flush timer runs (R120). -/
theorem Drain.copyOne_pages (d : Drain) (now : Nat) (r : LogRecord) :
    (d.copyOne now r).page d.toggle
        = { d.page d.toggle with records := (d.page d.toggle).records ++ [r] }
    ∧ (d.copyOne now r).page d.toggle.other = d.page d.toggle.other
    ∧ (d.copyOne now r).flush = (if (d.page d.toggle).records.isEmpty then some (now + 20000) else d.flush) := by
  cases t : d.toggle <;> simp [Drain.copyOne, Drain.setPage, Drain.page, PageName.other, t]

/-- One record more of a list from a place. -/
theorem List.take_drop_next {α : Type} {L : List α} {a n : Nat} {r : α} {rest : List α}
    (h : L.drop (a + n) = r :: rest) : (L.drop a).take (n + 1) = (L.drop a).take n ++ [r] := by
  rw [List.take_add_one, List.getElem?_drop]
  have : L[a + n]? = some r := by
    have := congrArg List.head? h
    simpa [List.head?_drop] using this
  simp [this]

/-- The channel copies the record that waits first (R120). -/
theorem Drain.copyOne_filling {d : Drain} {l : ReportLog} (h : d.HoldsItsRecords l) (ok : d.canCopy = true)
    (now : Nat) {r : LogRecord} {rest : List LogRecord} (first : l.awaiting d = r :: rest) :
    (d.copyOne now r).Filling l ∧ l.awaiting (d.copyOne now r) = rest := by
  simp only [Drain.canCopy, Bool.and_eq_true, decide_eq_true_eq] at ok
  obtain ⟨⟨en, own⟩, len⟩ := ok
  obtain ⟨consumed, copy, hc, hk, h1, h2, h3, h4, h5, h6, -, h8, h9⟩ := h.enabled en
  obtain ⟨this, that, fl⟩ := d.copyOne_pages now r
  simp only [ReportLog.awaiting, hk] at first
  have place : copy < l.freed + l.records.length := by
    have := congrArg List.length first
    simp at this
    omega
  refine ⟨⟨by simp [en], consumed, copy + 1, by simp [hc], by simp [hk], h1, by omega, by omega, ?_, ?_⟩, ?_⟩
  · rw [show copy + 1 - consumed = (copy - consumed) + 1 by omega,
      List.take_drop_next (n := copy - consumed) (by rw [← first]; congr 1; omega), ← h4, Drain.held_part d own]
    simp [this, that]
  · simp only [Drain.copyOne_keeps, this, that, fl]
    refine ⟨own, by simp; omega, h6, ?_, h9⟩
    have := (h8 own).2
    cases e : (d.page d.toggle).records <;> simp_all
  · simp only [ReportLog.awaiting, Drain.copyOne_keeps, hk, Option.map_some]
    rw [show copy + 1 - l.freed = (copy - l.freed) + 1 by omega, ← List.drop_drop, first]
    rfl

/-- A channel that holds its records and then copies what waits ends consistent with the log: it stops only
at a page that the port owns (R120, R121). -/
theorem Drain.fill_consistent (now : Nat) (l : ReportLog) (rest : List LogRecord) (d : Drain)
    (h : d.HoldsItsRecords l) (waits : l.awaiting d = rest) : (d.fill now rest).1.Consistent l := by
  induction rest generalizing d with
  | nil => exact ⟨h, fun k => absurd waits k⟩
  | cons r rest ih =>
    unfold Drain.fill
    split
    next ok =>
      obtain ⟨filling, left⟩ := Drain.copyOne_filling h ok now waits
      dsimp only
      split
      next c _ =>
        refine ih _ (filling.handOver_holds c) ?_
        simpa [ReportLog.awaiting] using left
      next none =>
        refine ih _ (filling.holds ?_) left
        have := filling.2
        obtain ⟨_, _, _, _, _, _, _, _, _, len, -⟩ := this
        unfold Drain.causeAfter at none
        split at none
        · cases none
        · split at none
          · cases none
          · omega
    next no =>
      refine ⟨h, fun _ => ?_⟩
      have en := h.enabled_of_copyPos (fun e => by simp [ReportLog.awaiting, e] at waits)
      obtain ⟨_, _, _, _, _, _, _, _, h5⟩ := h.enabled en
      cases own : (d.page d.toggle).owner with
      | port => rfl
      | part =>
        have := (h5.2.2.2.1 own).1
        exact absurd (by simp [Drain.canCopy, en, own, this]) no

/-- Records freed below what a channel has consumed leave it holding what it held, with the same records
waiting (R125). -/
theorem Drain.HoldsItsRecords.freeTo {d : Drain} {l : ReportLog} (h : d.HoldsItsRecords l) (pos : Nat)
    (below : ∀ c, d.consumedPos = some c → pos ≤ c) :
    d.HoldsItsRecords (l.freeTo pos) ∧ (l.freeTo pos).awaiting d = l.awaiting d := by
  unfold Drain.HoldsItsRecords ReportLog.awaiting at *
  cases en : d.enabled <;> cases hc : d.consumedPos <;> cases hk : d.copyPos <;> simp only [en, hc, hk] at h ⊢
  · exact ⟨h, trivial⟩
  · rename_i consumed copy
    have := below consumed hc
    obtain ⟨h1, h2, h3, h4, h5⟩ := h
    simp only [ReportLog.freeTo, List.drop_drop, List.length_drop]
    refine ⟨⟨by omega, h2, by omega, ?_, h5⟩, ?_⟩
    · rw [h4]; congr 2; omega
    · congr 1; omega

/-- A channel enabled at the log's oldest record holds nothing yet (R126). -/
theorem Drain.enableAt_holds (d : Drain) (l : ReportLog) : (d.enableAt l.freed).HoldsItsRecords l := by
  simp [Drain.HoldsItsRecords, Drain.enableAt, Drain.powerOn, Drain.held, Drain.older, Drain.PagesInOrder,
    Drain.page, Page.empty, PageName.other]

/-- A disabled channel is consistent with every log (R127). -/
theorem Drain.disable_consistent (d : Drain) (l : ReportLog) : d.disable.Consistent l := by
  simp [Drain.Consistent, Drain.HoldsItsRecords, Drain.WaitsOnlyForThePort, ReportLog.awaiting, Drain.disable,
    Drain.powerOn, Page.empty]

/-- A release of the older page leaves the channel holding the rest (R124). -/
theorem Drain.release_holds {d : Drain} {l : ReportLog} (h : d.HoldsItsRecords l) (n : PageName)
    (en : d.enabled = true) (own : (d.page n).owner = .port)
    (older : n = d.toggle ∨ (d.page n.other).owner = .part) : (d.release n).HoldsItsRecords l := by
  obtain ⟨consumed, copy, hc, hk, h1, h2, h3, h4, h5, h6, h7, h8, h9⟩ := h.enabled en
  have held : d.held = (d.page n).records ++ (d.page n.other).records := by
    rcases older with rfl | other
    · exact d.held_port own
    · have ne : n = d.toggle.other := by
        cases t : d.toggle <;> cases n <;> simp_all [PageName.other]
      subst ne
      simp only [PageName.other_other] at other ⊢
      exact d.held_part other
  have size := congrArg List.length held
  rw [h4] at size
  simp only [List.length_take, List.length_drop, List.length_append] at size
  have this : (d.release n).page n = { d.page n with owner := .part, records := [], cause := none }
      ∧ (d.release n).page n.other = d.page n.other := by
    cases n <;> simp [Drain.release, Drain.setPage, Drain.page, PageName.other]
  have keeps : (d.release n).enabled = true ∧ (d.release n).toggle = d.toggle
      ∧ (d.release n).flush = d.flush ∧ (d.release n).copyPos = d.copyPos
      ∧ (d.release n).consumedPos = d.consumedPos.map (· + (d.page n).records.length) := by
    cases n <;> simp [Drain.release, Drain.setPage, en]
  obtain ⟨k1, k2, k3, k4, k5⟩ := keeps
  simp only [Drain.HoldsItsRecords, k1, k4, k5, hk, hc, Option.map_some]
  refine ⟨by omega, by omega, h3, ?_, ?_⟩
  · have rest : (d.release n).held = (d.page n.other).records := by
      rcases older with rfl | other
      · rw [Drain.held_part _ (by rw [k2, this.1]), k2, this.1, this.2]; simp
      · have ne : n = d.toggle.other := by
          cases t : d.toggle <;> cases n <;> simp_all [PageName.other]
        subst ne
        simp only [PageName.other_other] at other this ⊢
        rw [Drain.held_part _ (by rw [k2, this.2, other]), k2, this.1, this.2]; simp
    have cut := congrArg (List.drop (d.page n).records.length) (h4.symm.trans held)
    rw [List.drop_left, List.drop_take, List.drop_drop] at cut
    rw [rest, ← cut]
    congr 1
    · omega
    · congr 1; omega
  · unfold Drain.PagesInOrder
    rw [k2, k3]
    rcases older with e | other
    · subst e
      rw [this.1, this.2]
      refine ⟨by simp, h6, by simp, fun _ => ?_, h9⟩
      simp [(h7 own).2]
    · have ne : n = d.toggle.other := by
        cases t : d.toggle <;> cases n <;> simp_all [PageName.other]
      subst ne
      simp only [PageName.other_other] at other this ⊢
      rw [this.1, this.2]
      refine ⟨h5, by simp, by simp [other], h8, by simp⟩

/-! ### The relation -/

/-- What offers, copies and raised causes do: they add records after those held, and change nothing
beside the log, the drain channels and the ports' causes. -/
structure State.Logs (s t : State) : Prop where
  keeps : t.pending = s.pending ∧ t.store = s.store ∧ t.edit = s.edit ∧ t.seq = s.seq ∧ t.synth = s.synth
    ∧ t.amp = s.amp ∧ t.inputs = s.inputs ∧ t.outputs = s.outputs ∧ t.breaker = s.breaker
    ∧ t.assess = s.assess ∧ t.time = s.time ∧ t.actions = s.actions ∧ t.peer = s.peer ∧ t.tp = s.tp
    ∧ t.guard = s.guard ∧ t.freeUsed = s.freeUsed
  log : t.log.freed = s.log.freed ∧ t.log.reservation = s.log.reservation
    ∧ t.log.verdicts = s.log.verdicts
  extends_ : s.log.records <+: t.log.records
  room : s.log.records.length + s.log.reservation ≤ 1024 →
    t.log.records.length + t.log.reservation ≤ 1024
  drains : s.DrainsConsistent → t.DrainsConsistent
  ports : ∀ p, (s.ports.get p).Grows (t.ports.get p)

theorem State.Logs.refl (s : State) : s.Logs s where
  keeps := by simp
  log := by simp
  extends_ := List.prefix_refl _
  room := id
  drains := id
  ports := fun _ => .refl _

theorem State.Logs.trans {s t u : State} (h : s.Logs t) (k : t.Logs u) : s.Logs u where
  keeps := by
    obtain ⟨h1, h2, h3, h4, h5, h6, h7, h8, h9, h10, h11, h12, h13, h14, h15, h16⟩ := h.keeps
    obtain ⟨k1, k2, k3, k4, k5, k6, k7, k8, k9, k10, k11, k12, k13, k14, k15, k16⟩ := k.keeps
    exact ⟨k1.trans h1, k2.trans h2, k3.trans h3, k4.trans h4, k5.trans h5, k6.trans h6, k7.trans h7,
      k8.trans h8, k9.trans h9, k10.trans h10, k11.trans h11, k12.trans h12, k13.trans h13, k14.trans h14,
      k15.trans h15, k16.trans h16⟩
  log := ⟨k.log.1.trans h.log.1, k.log.2.1.trans h.log.2.1, k.log.2.2.trans h.log.2.2⟩
  extends_ := h.extends_.trans k.extends_
  room := fun x => k.room (h.room x)
  drains := fun x => k.drains (h.drains x)
  ports := fun p => (h.ports p).trans (k.ports p)

theorem Logs.raiseBoth (s : State) (c : NotifyCause) : s.Logs (s.raiseBoth c) where
  keeps := by simp
  log := by simp
  extends_ := List.prefix_refl _
  room := id
  drains := id
  ports := fun p => by simp [PortInterface.Grows.raise]

theorem Logs.raiseFor (s : State) (p : Port) (c : NotifyCause) : s.Logs (s.raiseFor p c) where
  keeps := by simp
  log := by simp
  extends_ := List.prefix_refl _
  room := id
  drains := id
  ports := fun q => by
    rw [raiseFor_ports, PerPort.get_set]
    split
    next e => exact e ▸ .raise _ _
    next => exact .refl _

theorem Logs.copyFor (s : State) (p : Port) : s.Logs (s.copyFor p) where
  keeps := by simp
  log := by simp
  extends_ := by simp
  room := by simp
  drains := by
    intro ⟨a, b⟩
    cases p
    · exact ⟨Drain.fill_consistent _ _ _ _ a.1 rfl, b⟩
    · exact ⟨a, Drain.fill_consistent _ _ _ _ b.1 rfl⟩
  ports := fun q => by
    have e : (s.copyFor p).ports
        = s.ports.set p ((s.ports.get p).raiseTimes .pageReady
            ((s.drains.get p).fill s.now (s.log.awaiting (s.drains.get p))).2) := rfl
    rw [e, PerPort.get_set]
    split
    next e => exact e ▸ .raiseTimes _ _ _
    next => exact .refl _

theorem Logs.copyBoth (s : State) : s.Logs s.copyBoth :=
  (Logs.copyFor s .sequence).trans (Logs.copyFor _ .panel)

/-- Each channel holds its records. -/
def State.DrainsHold (s : State) : Prop :=
  s.drains.sequence.HoldsItsRecords s.log ∧ s.drains.panel.HoldsItsRecords s.log

/-- Copying in both channels leaves both consistent, whatever waits before (R120). -/
theorem DrainsHold.copyBoth {s : State} (h : s.DrainsHold) : s.copyBoth.DrainsConsistent :=
  ⟨Drain.fill_consistent _ _ _ _ h.1 rfl, Drain.fill_consistent _ _ _ _ h.2 rfl⟩

/-- A log that keeps its oldest position and gains records leaves both channels holding theirs. -/
theorem DrainsConsistent.holds (s : State) (l : ReportLog) (f : l.freed = s.log.freed)
    (n : s.log.records <+: l.records) (h : s.DrainsConsistent) : State.DrainsHold { s with log := l } :=
  ⟨h.1.1.grow f n, h.2.1.grow f n⟩

/-- A log that keeps its records and its oldest position keeps both channels consistent. -/
theorem DrainsConsistent.sameRecords (s : State) (l : ReportLog) (f : l.freed = s.log.freed)
    (n : l.records = s.log.records) (h : s.DrainsConsistent) : State.DrainsConsistent { s with log := l } :=
  ⟨h.1.sameRecords f n, h.2.sameRecords f n⟩

theorem Logs.offer (s : State) (time : Nat) (b : RecordBody) : s.Logs (s.offer time b) := by
  unfold State.offer
  split
  next h =>
    have copied := Logs.copyBoth { s with log := s.log.write (s.makeRecord time b) }
    exact {
      keeps := copied.keeps
      log := copied.log
      extends_ := (List.prefix_append _ _).trans copied.extends_
      room := fun _ => copied.room (by
        simp only [ReportLog.write, List.length_append, List.length_singleton]
        simp only [ReportLog.unreserved, ReportLog.free] at h
        omega)
      drains := fun c => DrainsHold.copyBoth
        (DrainsConsistent.holds s (s.log.write (s.makeRecord time b)) rfl (List.prefix_append _ _) c)
      ports := copied.ports }
  next h =>
    have e : s.log.lose.records = s.log.records ∧ s.log.lose.freed = s.log.freed
        ∧ s.log.lose.reservation = s.log.reservation ∧ s.log.lose.verdicts = s.log.verdicts := by
      unfold ReportLog.lose
      split <;> simp
    exact {
      keeps := by simp
      log := by simp [e]
      extends_ := by simp [e]
      room := by simp [e]
      drains := DrainsConsistent.sameRecords s _ e.2.1 e.1
      ports := fun _ => .refl _ }

theorem Logs.offerAll (l : List RecordBody) (s : State) (time : Nat) : s.Logs (s.offerAll time l) := by
  induction l generalizing s with
  | nil => exact .refl s
  | cons b rest ih => exact (Logs.offer s time b).trans (ih _)

/-- A condition on where a producer may write keeps the relation. -/
theorem Logs.ite {s t : State} (c : Prop) [Decidable c] (h : s.Logs t) : s.Logs (if c then t else s) := by
  split
  · exact h
  · exact .refl s

theorem Logs.offerBreakerOp (s : State) (p : Pole) (o : BreakerOutcome) (z : Bool) (t : Nat) :
    s.Logs (s.offerBreakerOp p o z t) := Logs.ite _ (Logs.offer s _ _)

theorem Logs.offerTpEvent (s : State) (k : TpEventKind) : s.Logs (s.offerTpEvent k) :=
  Logs.ite _ (Logs.offer s _ _)

end Sys2Proof.Machine
end

