-- ==== Sys2Proof/Laws/Delivery.lean ====
section
/-! SUPPORT. Once and for all, what a change of the signal vector and the work of the poles can do: the
relation `State.Reacts` holds between the states before and after each of them, and it is closed under
composition, so that a meaning built from them needs no further look at any. -/

namespace Sys2Proof.Machine

/-! ### Conditions -/

/-- A visit with its conditions as the entry reads them, before any is evaluated: what no change of the
signal vector alters. -/
def Visit.bare (v : Visit) : Visit := { v with conditions := v.conditions.map fun c => c.condition.unevaluated }

@[simp] theorem CondState.fallDue_keeps (c : CondState) (deferring : Bool) (b : Nat) :
    (c.fallDue deferring b).condition = c.condition ∧ (c.fallDue deferring b).truth = c.truth := by
  unfold CondState.fallDue
  split
  · simp
  · split <;> simp

@[simp] theorem CondState.evaluate_condition (c : CondState) (i : Fin 4) (signals : Mask) (t now b : Nat)
    (deferring : Bool) (owner : Nat) (l : TimedList) :
    (c.evaluate i signals t now b deferring owner l).1.condition = c.condition := by
  unfold CondState.evaluate
  dsimp only
  split
  · split <;> simp
  · split <;> simp

theorem CondState.evaluate_moves (c : CondState) (i : Fin 4) (signals : Mask) (t now b : Nat)
    (deferring : Bool) (owner : Nat) (l : TimedList) :
    l.Moves (some owner) (c.evaluate i signals t now b deferring owner l).2 := by
  unfold CondState.evaluate
  dsimp only
  split
  · split
    · exact .placeAndTake _ _
    · exact .place _ _ _ _ _ (.inr rfl) (by simp [Work.unowned, Work.group])
  · split
    · exact .keep _ _ _
    · exact .refl _ _

/-- An evaluation leaves every action that is none of a condition. -/
theorem CondState.evaluate_held (c : CondState) (i : Fin 4) (signals : Mask) (t now b : Nat)
    (deferring : Bool) (owner : Nat) (l : TimedList) (g : Group) (h : g ≠ .condition) :
    (c.evaluate i signals t now b deferring owner l).2.held g = l.held g := by
  unfold CondState.evaluate
  dsimp only
  split
  · split
    · rfl
    · unfold TimedList.place
      split
      · have e : ¬ (Work.condition i).group = g := fun x => h x.symm
        simp [TimedList.held, insertAction_filter_length, e]
      · rfl
  · split
    · simp only [TimedList.held, TimedList.keep, List.filter_filter]
      congr 2
      funext a
      by_cases e : a.work.group = g
      · have : a.work ≠ .condition i := fun x => h (by rw [← e, x]; rfl)
        simp [e, this]
      · simp [e]
    · rfl

@[simp] theorem evaluateAll_conditions (signals : Mask) (t now b : Nat) (deferring : Bool) (owner i : Nat)
    (cs : List CondState) (l : TimedList) :
    (evaluateAll signals t now b deferring owner i cs l).1.map (fun c => c.condition.unevaluated)
      = cs.map fun c => c.condition.unevaluated := by
  induction cs generalizing i l with
  | nil => rfl
  | cons c rest ih => simp [evaluateAll, ih]

theorem evaluateAll_moves (signals : Mask) (t now b : Nat) (deferring : Bool) (owner i : Nat)
    (cs : List CondState) (l : TimedList) :
    l.Moves (some owner) (evaluateAll signals t now b deferring owner i cs l).2 := by
  induction cs generalizing i l with
  | nil => exact .refl _ _
  | cons c rest ih => exact (c.evaluate_moves _ _ _ _ _ _ _ _).trans (ih _ _)

theorem evaluateAll_held (signals : Mask) (t now b : Nat) (deferring : Bool) (owner i : Nat)
    (cs : List CondState) (l : TimedList) (g : Group) (h : g ≠ .condition) :
    (evaluateAll signals t now b deferring owner i cs l).2.held g = l.held g := by
  induction cs generalizing i l with
  | nil => rfl
  | cons c rest ih =>
    show (evaluateAll signals t now b deferring owner (i + 1) rest _).2.held g = _
    rw [ih, CondState.evaluate_held _ _ _ _ _ _ _ _ _ _ h]

/-! ### The relation -/

/-- What the consumers of a change, the poles and receive can do. -/
structure State.Reacts (s t : State) : Prop where
  keeps : t.pending = s.pending ∧ t.store = s.store ∧ t.edit = s.edit ∧ t.amp = s.amp
    ∧ t.inputs = s.inputs ∧ t.time = s.time ∧ t.guard = s.guard ∧ t.freeUsed = s.freeUsed
  peer : t.peer = { s.peer with sent := t.peer.sent }
  seq : t.seq = { s.seq with visit := t.seq.visit, startBoundary := t.seq.startBoundary }
  start : s.seq.phase ≠ .armed → t.seq.startBoundary = s.seq.startBoundary
  visit : t.seq.visit.map Visit.bare = s.seq.visit.map Visit.bare
  breaker : t.breaker = { s.breaker with poles := t.breaker.poles }
  tp : t.tp.source = s.tp.source ∧ t.tp.delay = s.tp.delay
  roles : ∀ i (h : i < 4), (t.outputs[i]).role = (s.outputs[i]).role
  assess : t.assess.isSome = s.assess.isSome
  codes : ∀ c, (t.synth.channels.get c).last = (s.synth.channels.get c).last
  actions : s.actions.Moves (s.seq.visit.map (·.entry)) t.actions
  log : t.log.freed = s.log.freed ∧ t.log.reservation = s.log.reservation
    ∧ t.log.verdicts = s.log.verdicts
  extends_ : s.log.records <+: t.log.records
  room : s.log.records.length + s.log.reservation ≤ 1024 →
    t.log.records.length + t.log.reservation ≤ 1024
  drains : s.DrainsConsistent → t.DrainsConsistent
  ports : ∀ p, (s.ports.get p).Grows (t.ports.get p)

theorem State.Reacts.entry {s t : State} (h : s.Reacts t) :
    t.seq.visit.map (·.entry) = s.seq.visit.map (·.entry) := by
  have e := congrArg (Option.map Visit.entry) h.visit
  rw [Option.map_map, Option.map_map] at e
  exact e

theorem State.Reacts.refl (s : State) : s.Reacts s where
  keeps := by simp
  peer := rfl
  seq := rfl
  start := fun _ => rfl
  visit := rfl
  breaker := rfl
  tp := by simp
  roles := fun _ _ => rfl
  assess := rfl
  codes := fun _ => rfl
  actions := .refl _ _
  log := by simp
  extends_ := List.prefix_refl _
  room := id
  drains := id
  ports := fun _ => .refl _

theorem State.Reacts.trans {s t u : State} (h : s.Reacts t) (k : t.Reacts u) : s.Reacts u where
  keeps := by
    obtain ⟨h1, h2, h3, h4, h5, h6, h7, h8⟩ := h.keeps
    obtain ⟨k1, k2, k3, k4, k5, k6, k7, k8⟩ := k.keeps
    exact ⟨k1.trans h1, k2.trans h2, k3.trans h3, k4.trans h4, k5.trans h5, k6.trans h6, k7.trans h7,
      k8.trans h8⟩
  peer := by rw [k.peer, h.peer]
  seq := by rw [k.seq, h.seq]
  start := fun p => (k.start (by rw [h.seq]; exact p)).trans (h.start p)
  visit := k.visit.trans h.visit
  breaker := by rw [k.breaker, h.breaker]
  tp := ⟨k.tp.1.trans h.tp.1, k.tp.2.trans h.tp.2⟩
  roles := fun i x => (k.roles i x).trans (h.roles i x)
  assess := k.assess.trans h.assess
  codes := fun c => (k.codes c).trans (h.codes c)
  actions := h.actions.trans (h.entry ▸ k.actions)
  log := ⟨k.log.1.trans h.log.1, k.log.2.1.trans h.log.2.1, k.log.2.2.trans h.log.2.2⟩
  extends_ := h.extends_.trans k.extends_
  room := fun x => k.room (h.room x)
  drains := fun x => k.drains (h.drains x)
  ports := fun p => (h.ports p).trans (k.ports p)

/-- A further change under a condition. -/
theorem State.Reacts.thenIf {s u v : State} (h : s.Reacts u) (c : Prop) [Decidable c] (k : u.Reacts v) :
    s.Reacts (if c then v else u) := by
  split
  · exact h.trans k
  · exact h

theorem State.Reacts.thenElse {s u v : State} (h : s.Reacts u) (c : Prop) [Decidable c] (k : u.Reacts v) :
    s.Reacts (if c then u else v) := by
  split
  · exact h
  · exact h.trans k

theorem State.Reacts.ite {s t : State} (c : Prop) [Decidable c] (h : s.Reacts t) :
    s.Reacts (if c then t else s) := by
  split
  · exact h
  · exact .refl s

theorem State.Logs.reacts {s t : State} (h : s.Logs t) : s.Reacts t := by
  obtain ⟨h1, h2, h3, h4, h5, h6, h7, h8, h9, h10, h11, h12, h13, h14, h15, h16⟩ := h.keeps
  exact {
    keeps := ⟨h1, h2, h3, h6, h7, h11, h15, h16⟩
    peer := by rw [h13]
    seq := by rw [h4]
    start := by rw [h4]; exact fun _ => rfl
    visit := by rw [h4]
    breaker := by rw [h9]
    tp := by rw [h14]; exact ⟨rfl, rfl⟩
    roles := by rw [h8]; exact fun _ _ => rfl
    assess := by rw [h10]
    codes := by rw [h5]; exact fun _ => rfl
    actions := by rw [h12]; exact .refl _ _
    log := h.log
    extends_ := h.extends_
    room := h.room
    drains := h.drains
    ports := h.ports }

/-- A state that differs in nothing that the relation bounds, but for the fields given. -/
theorem State.Reacts.of (s t : State)
    (keeps : t.pending = s.pending ∧ t.store = s.store ∧ t.edit = s.edit ∧ t.amp = s.amp
      ∧ t.inputs = s.inputs ∧ t.time = s.time ∧ t.guard = s.guard ∧ t.freeUsed = s.freeUsed)
    (same : t.log = s.log ∧ t.drains = s.drains ∧ t.ports = s.ports)
    (peer : t.peer = { s.peer with sent := t.peer.sent })
    (seq : t.seq = { s.seq with visit := t.seq.visit, startBoundary := t.seq.startBoundary })
    (visit : t.seq.visit.map Visit.bare = s.seq.visit.map Visit.bare)
    (breaker : t.breaker = { s.breaker with poles := t.breaker.poles })
    (tp : t.tp.source = s.tp.source ∧ t.tp.delay = s.tp.delay)
    (roles : ∀ i (h : i < 4), (t.outputs[i]).role = (s.outputs[i]).role)
    (assess : t.assess.isSome = s.assess.isSome)
    (codes : ∀ c, (t.synth.channels.get c).last = (s.synth.channels.get c).last)
    (actions : s.actions.Moves (s.seq.visit.map (·.entry)) t.actions)
    (start : s.seq.phase ≠ .armed → t.seq.startBoundary = s.seq.startBoundary := by exact fun _ => rfl) :
    s.Reacts t := by
  obtain ⟨l, d, p⟩ := same
  exact {
    keeps := keeps, peer := peer, seq := seq, visit := visit, breaker := breaker, tp := tp, roles := roles
    assess := assess, codes := codes, actions := actions, start := start
    log := by rw [l]; simp
    extends_ := by rw [l]
    room := by rw [l]; exact id
    drains := by unfold State.DrainsConsistent; rw [l, d]; exact id
    ports := by rw [p]; exact fun _ => .refl _ }

/-- What the consumers of a change and receive can do: the poles and the channels stay. -/
structure State.Hears (s t : State) : Prop extends State.Reacts s t where
  poles : t.breaker = s.breaker
  channels : t.synth.channels = s.synth.channels

theorem State.Hears.refl (s : State) : s.Hears s := { State.Reacts.refl s with poles := rfl, channels := rfl }

theorem State.Hears.trans {s t u : State} (h : s.Hears t) (k : t.Hears u) : s.Hears u :=
  { h.toReacts.trans k.toReacts with
    poles := k.poles.trans h.poles, channels := k.channels.trans h.channels }

theorem State.Hears.thenElse {s u v : State} (h : s.Hears u) (c : Prop) [Decidable c] (k : u.Hears v) :
    s.Hears (if c then u else v) := by
  split
  · exact h
  · exact h.trans k

theorem State.Logs.hears {s t : State} (h : s.Logs t) : s.Hears t :=
  { h.reacts with
    poles := h.keeps.2.2.2.2.2.2.2.2.1
    channels := by rw [h.keeps.2.2.2.2.1] }

/-- A state that differs in nothing that the relation bounds, but for the fields given. -/
theorem State.Hears.of (s t : State)
    (keeps : t.pending = s.pending ∧ t.store = s.store ∧ t.edit = s.edit ∧ t.amp = s.amp
      ∧ t.inputs = s.inputs ∧ t.time = s.time ∧ t.guard = s.guard ∧ t.freeUsed = s.freeUsed)
    (same : t.log = s.log ∧ t.drains = s.drains ∧ t.ports = s.ports)
    (peer : t.peer = { s.peer with sent := t.peer.sent })
    (seq : t.seq = { s.seq with visit := t.seq.visit, startBoundary := t.seq.startBoundary })
    (visit : t.seq.visit.map Visit.bare = s.seq.visit.map Visit.bare)
    (poles : t.breaker = s.breaker)
    (tp : t.tp.source = s.tp.source ∧ t.tp.delay = s.tp.delay)
    (roles : ∀ i (h : i < 4), (t.outputs[i]).role = (s.outputs[i]).role)
    (assess : t.assess.isSome = s.assess.isSome)
    (channels : t.synth.channels = s.synth.channels)
    (actions : s.actions.Moves (s.seq.visit.map (·.entry)) t.actions)
    (start : s.seq.phase ≠ .armed → t.seq.startBoundary = s.seq.startBoundary := by exact fun _ => rfl) :
    s.Hears t :=
  { State.Reacts.of s t keeps same peer seq visit (by rw [poles]) tp roles assess
      (fun c => by rw [channels]) actions start with
    poles := poles, channels := channels }

/-! ### Consumers of one change -/

theorem Hears.evaluateConditions (s : State) (t : Nat) : s.Hears (s.evaluateConditions t) := by
  unfold State.evaluateConditions
  split
  next => exact .refl s
  next v h =>
    refine State.Hears.of _ _ (by simp) (by simp) rfl rfl ?_ rfl (by simp) (by simp) rfl (by simp) ?_
    · simp [h, Visit.bare]
    · rw [h]
      exact evaluateAll_moves _ _ _ _ _ _ _ _ _

theorem Hears.matchStart (s : State) (n : Nat) : s.Hears (s.matchStart n) := by
  unfold State.matchStart
  split
  · split
    · exact State.Hears.of _ _ (by simp) (by simp) rfl rfl rfl rfl (by simp) (by simp) rfl rfl (.refl _ _)
        (fun p => absurd ‹_› p)
    · exact .refl s
  · exact .refl s

/-- A ramp that changes its state alone. -/
theorem Hears.setRamp (s : State) (r : RampContext) :
    s.Hears { s with synth := { s.synth with ramp := r } } :=
  State.Hears.of _ _ (by simp) (by simp) rfl rfl rfl rfl (by simp) (by simp) rfl (by simp) (.refl _ _)

theorem Hears.freezeRamp (s : State) (n t : Nat) : s.Hears (s.freezeRamp n t) := by
  unfold State.freezeRamp
  split
  · dsimp only
    split
    · exact (Hears.setRamp s _).trans (Logs.offer _ _ _).hears
    · exact .refl s
  · exact .refl s

theorem Hears.capture (s : State) (n t : Nat) : s.Hears (s.capture n t) :=
  State.Hears.of _ _ (by simp) (by simp) rfl rfl rfl rfl (by simp) (by simp) (by simp [State.capture])
    (by simp) (.refl _ _)

theorem Hears.deliver (s : State) (n : Nat) (active : Bool) (t : Nat) : s.Hears (s.deliver n active t) := by
  have h := (Hears.evaluateConditions s t).trans (Hears.matchStart _ n)
  unfold State.deliver
  dsimp only
  split
  · exact (h.trans (Hears.freezeRamp _ n t)).trans (Hears.capture _ n t)
  · exact h

/-- With no visit there are no conditions to evaluate. -/
theorem evaluateConditions_none (s : State) (t : Nat) (h : s.seq.visit = none) :
    s.evaluateConditions t = s := by
  simp [State.evaluateConditions, h]

theorem freezeRamp_none (s : State) (n t : Nat) (h : s.seq.visit = none) : s.freezeRamp n t = s := by
  simp [State.freezeRamp, h]

theorem matchStart_other (s : State) (n : Nat) (p : s.seq.phase ≠ .armed) : s.matchStart n = s := by
  unfold State.matchStart
  split
  next h _ _ => exact absurd h p
  next => rfl

/-- With no visit, and not in ARMED, a change reaches at most the context. -/
theorem deliver_quiet (s : State) (n : Nat) (active : Bool) (t : Nat) (h : s.seq.visit = none)
    (p : s.seq.phase ≠ .armed) :
    s.deliver n active t = if active then s.capture n t else s := by
  unfold State.deliver
  rw [evaluateConditions_none s t h, matchStart_other s n p]
  dsimp only
  rw [freezeRamp_none s n t h]

/-- With no visit a change reaches at most the start and the context. -/
theorem deliver_none (s : State) (n : Nat) (active : Bool) (t : Nat) (h : s.seq.visit = none) :
    s.deliver n active t
      = if active then (s.matchStart n).capture n t else s.matchStart n := by
  have e : (s.matchStart n).seq.visit = none := by
    unfold State.matchStart
    split
    · split <;> exact h
    · exact h
  unfold State.deliver
  rw [evaluateConditions_none s t h]
  dsimp only
  rw [freezeRamp_none _ n t e]

/-! ### Outputs and receive -/

theorem Hears.setOutput (s : State) (n : Fin 4) (level : Bool) (src : OutputSource) :
    s.Hears (s.setOutput n level src) := by
  unfold State.setOutput
  split
  · exact .refl s
  · refine State.Hears.trans ?_ (Logs.ite _ (Logs.offer _ _ _)).hears
    refine State.Hears.of _ _ (by simp) (by simp) rfl rfl rfl rfl (by simp) ?_ rfl (by simp) (.refl _ _)
    intro i h
    simp only [Vector.getElem_set]
    split
    next e => subst e; rfl
    next => rfl

theorem Hears.refreshOutputs (s : State) (src : OutputSource) (rule : OutputRole → Option Bool) :
    s.Hears (s.refreshOutputs src rule) := by
  have one : ∀ (u : State) (n : Fin 4), u.Hears (u.refreshOne src rule n) := by
    intro u n
    unfold State.refreshOne
    split
    · exact Hears.setOutput _ _ _ _
    · exact .refl u
  rw [refreshOutputs_eq]
  exact (((one _ 0).trans (one _ 1)).trans (one _ 2)).trans (one _ 3)

theorem Hears.refreshAux (s : State) : s.Hears s.refreshAux := Hears.refreshOutputs _ _ _

/-- Teleprotection items other than source and delay. -/
theorem Hears.setTp (s : State) (tp : Teleprotection) (h : tp.source = s.tp.source ∧ tp.delay = s.tp.delay) :
    s.Hears { s with tp := tp } :=
  State.Hears.of _ _ (by simp) (by simp) rfl rfl rfl rfl h (by simp) rfl (by simp) (.refl _ _)

theorem Hears.refreshReceive (s : State) (t : Nat) : s.Hears (s.refreshReceive t) := by
  unfold State.refreshReceive
  split
  · exact .refl s
  · refine State.Hears.trans (State.Hears.trans ?_ (Hears.deliver _ _ _ _)) (Hears.refreshOutputs _ _ _)
    exact Hears.setTp s { s.tp with receive := s.receiveLevel } ⟨rfl, rfl⟩

theorem Hears.applyEdge (s : State) (level : Bool) (t : Nat) : s.Hears (s.applyEdge level t) := by
  refine State.Hears.trans ?_ (Hears.refreshReceive _ t)
  exact Hears.setTp s { s.tp with applied := level } ⟨rfl, rfl⟩

/-- The list after any moves whose new entries are owned by none. -/
theorem Hears.setActions (s : State) (l : TimedList) (h : s.actions.Moves (s.seq.visit.map (·.entry)) l) :
    s.Hears { s with actions := l } :=
  State.Hears.of _ _ (by simp) (by simp) rfl rfl rfl rfl (by simp) (by simp) rfl (by simp) h

theorem Hears.takeEdge (s : State) (level : Bool) (eventTime : AbsTime) :
    s.Hears (s.takeEdge level eventTime) := by
  have h := Hears.setTp s { s.tp with lastReceived := level } ⟨rfl, rfl⟩
  unfold State.takeEdge
  dsimp only
  split
  · exact (h.trans (Hears.applyEdge _ _ _)).trans (Logs.offerTpEvent _ _).hears
  · split
    · exact h.trans (Hears.setActions _ _ (.place _ _ _ _ _ (.inl rfl) (by simp [Work.unowned, Work.group])))
    · refine State.Hears.trans ?_ (Logs.offerTpEvent _ _).hears
      exact Hears.setTp s { s.tp with lastReceived := level, resync := true } ⟨rfl, rfl⟩

theorem Hears.resyncCheck (s : State) : s.Hears s.resyncCheck := by
  have h := Hears.setTp s { s.tp with resync := false } ⟨rfl, rfl⟩
  unfold State.resyncCheck
  split
  · refine State.Hears.thenElse h _ ?_
    exact (Hears.applyEdge _ _ _).trans (Logs.offerTpEvent _ _).hears
  · exact .refl s

/-! ### The same operations, in the wider relation -/

theorem Reacts.deliver (s : State) (n : Nat) (active : Bool) (t : Nat) : s.Reacts (s.deliver n active t) :=
  (Hears.deliver s n active t).toReacts

theorem Reacts.setOutput (s : State) (n : Fin 4) (level : Bool) (src : OutputSource) :
    s.Reacts (s.setOutput n level src) :=
  (Hears.setOutput s n level src).toReacts

theorem Reacts.refreshOutputs (s : State) (src : OutputSource) (rule : OutputRole → Option Bool) :
    s.Reacts (s.refreshOutputs src rule) :=
  (Hears.refreshOutputs s src rule).toReacts

theorem Reacts.refreshAux (s : State) : s.Reacts s.refreshAux := (Hears.refreshAux s).toReacts

theorem Reacts.refreshReceive (s : State) (t : Nat) : s.Reacts (s.refreshReceive t) :=
  (Hears.refreshReceive s t).toReacts

theorem Reacts.setActions (s : State) (l : TimedList) (h : s.actions.Moves (s.seq.visit.map (·.entry)) l) :
    s.Reacts { s with actions := l } :=
  (Hears.setActions s l h).toReacts

theorem Reacts.takeEdge (s : State) (level : Bool) (eventTime : AbsTime) :
    s.Reacts (s.takeEdge level eventTime) :=
  (Hears.takeEdge s level eventTime).toReacts

/-! ### The poles -/

theorem Reacts.setPole (s : State) (p : Pole) (q : PoleState) : s.Reacts (s.setPole p q) :=
  State.Reacts.of _ _ (by simp) (by simp) rfl rfl rfl rfl (by simp) (by simp) rfl (by simp) (.refl _ _)

theorem Reacts.settleInterruptions (s : State) : s.Reacts s.settleInterruptions :=
  State.Reacts.of _ _ (by simp) (by simp) rfl rfl rfl rfl (by simp) (by simp) rfl (by simp) (.refl _ _)

theorem Reacts.onLinked (s : State) (p : Pole) (f : SynthChannel → SynthChannel)
    (h : ∀ c, (f c).last = c.last) : s.Reacts (s.onLinked p f) := by
  refine State.Reacts.of _ _ (by simp) (by simp) rfl rfl rfl rfl (by simp) (by simp) rfl ?_ (.refl _ _)
  intro c
  simp only [onLinked_synth, PerChannel.get_mapWith]
  split
  · exact h _
  · rfl

theorem Reacts.dropPole (s : State) (p : Pole) : s.Reacts (s.dropPole p) :=
  Reacts.setActions s _ (.keep _ _ _)

theorem Reacts.deliverPoles (s : State) (before : PerPole PoleState) : s.Reacts (s.deliverPoles before) := by
  have one : ∀ (u : State) (p : Pole), u.Reacts
      (if (before.get p).openSignal = (u.breaker.poles.get p).openSignal then u
       else u.deliver (Pole.signal p) (u.breaker.poles.get p).openSignal u.now) := by
    intro u p
    split
    · exact .refl u
    · exact Reacts.deliver _ _ _ _
  exact ((one s .a).trans (one _ .b)).trans (one _ .c)

@[simp] theorem SynthChannel.poleOpened_last (c : SynthChannel) (injecting : Bool) :
    (c.poleOpened injecting).last = c.last := by
  unfold SynthChannel.poleOpened
  split
  · split <;> rfl
  · rfl

@[simp] theorem SynthChannel.poleClosed_last (c : SynthChannel) : c.poleClosed.last = c.last := by
  unfold SynthChannel.poleClosed
  split <;> rfl

theorem Reacts.beginInterruption (s : State) (p : Pole) (t : Nat) : s.Reacts (s.beginInterruption p t) :=
  ((Reacts.onLinked s p _ (by simp)).trans (Reacts.setPole _ _ _)).trans (Reacts.settleInterruptions _)

theorem Reacts.completeOpening (s : State) (p : Pole) (t : Nat) : s.Reacts (s.completeOpening p t) := by
  refine State.Reacts.trans (State.Reacts.thenElse (State.Reacts.thenIf ?_ _ (Reacts.beginInterruption _ p t))
    _ ((Reacts.setPole _ p _).trans (Reacts.deliver _ _ _ t))) (Reacts.refreshAux _)
  exact (Logs.offerBreakerOp s p .opened false t).reacts.trans (Reacts.setPole _ p _)

theorem Reacts.completeClosing (s : State) (p : Pole) (t : Nat) : s.Reacts (s.completeClosing p t) := by
  refine State.Reacts.trans (State.Reacts.thenIf ?_
    _ ((Reacts.setPole _ p _).trans (Reacts.deliver _ _ _ t))) (Reacts.refreshAux _)
  exact (Logs.offerBreakerOp s p .closed false t).reacts.trans
    ((Reacts.setPole _ p _).trans (Reacts.onLinked _ p _ (by simp)))

theorem Reacts.placePole (s : State) (p : Pole) (op : PoleOp) (due : Nat) :
    s.Reacts (s.placePole p op due) := by
  unfold State.placePole
  split
  · have h := Reacts.setActions s s.actions.placeAndTake (.placeAndTake _ _)
    cases op
    · exact h.trans (Reacts.completeOpening _ _ _)
    · exact h.trans (Reacts.completeClosing _ _ _)
  · exact Reacts.setActions s _ (.place _ _ _ _ _ (.inl rfl) (by simp [Work.unowned, Work.group]))

theorem Reacts.tripPole (s : State) (t : Nat) (p : Pole) : s.Reacts (s.tripPole t p) := by
  unfold State.tripPole
  dsimp only
  split
  · exact ((Reacts.setPole _ _ _).trans (Reacts.refreshAux _)).trans (Reacts.placePole _ _ _ _)
  · exact (((Reacts.dropPole s p).trans (Reacts.setPole _ _ _)).trans (Reacts.refreshAux _)).trans
      (Reacts.placePole _ _ _ _)
  · exact .refl s
  · exact .refl s

theorem Reacts.closePole (s : State) (t : Nat) (p : Pole) : s.Reacts (s.closePole t p) := by
  unfold State.closePole
  split
  · split
    · exact (Logs.offerBreakerOp _ _ _ _ _).reacts
    · exact ((Reacts.setPole _ _ _).trans (Reacts.refreshAux _)).trans (Reacts.placePole _ _ _ _)
  · exact (Logs.offerBreakerOp _ _ _ _ _).reacts
  · exact .refl s
  · exact .refl s

/-! ### Roles -/

/-- A fold of steps that each stay within the relation stays within it. -/
theorem Reacts.foldl {α : Type} (f : State → α → State) (h : ∀ (s : State) (a : α), s.Reacts (f s a)) (l : List α)
    (s : State) : s.Reacts (l.foldl f s) := by
  induction l generalizing s with
  | nil => exact .refl s
  | cons a rest ih => exact (h s a).trans (ih _)

theorem Reacts.roleActivates (old s : State) (r : InputRole) (t : Nat) :
    s.Reacts (State.roleActivates old s r t) := by
  have trip : ∀ r' : InputRole, s.Reacts ((tripReach r').foldl
      (fun s p => if alreadyTripped old s r' p then s else s.tripPole t p) s) := by
    intro r'
    refine Reacts.foldl _ (fun u p => ?_) _ _
    split
    · exact .refl u
    · exact Reacts.tripPole _ _ _
  unfold State.roleActivates
  split
  · split
    · exact Reacts.foldl _ (fun u p => Reacts.closePole u t p) _ _
    · exact trip r
  · exact .refl s

theorem Reacts.carrierChanges (s : State) (level : Bool) (eventTime : AbsTime) :
    s.Reacts (s.carrierChanges level eventTime) := by
  unfold State.carrierChanges
  split
  · exact Reacts.takeEdge _ _ _
  · exact .refl s

theorem Reacts.handOverRoles (old s : State) (t : Nat) (eventTime : AbsTime) :
    s.Reacts (State.handOverRoles old s t eventTime) := by
  unfold State.handOverRoles
  have h : s.Reacts (statefulRoles.foldl (fun s r =>
      if !old.roleActive r && s.roleActive r then State.roleActivates old s r t else s) s) := by
    refine Reacts.foldl _ (fun u r => ?_) _ _
    split
    · exact Reacts.roleActivates _ _ _ _
    · exact .refl u
  dsimp only
  split
  · exact h
  · exact h.trans (Reacts.carrierChanges _ _ _)

/-- A frame sent. -/
theorem Reacts.send (s : State) (f : PeerFrame) : s.Reacts (s.send f) := by
  refine State.Reacts.of _ _ (by simp) (by simp) (by simp) (by simp) (by simp) (by simp) (by simp) (by simp)
    (by simp) (by simp) ?_ (by simp)
  rw [(send_keeps s f).2.2.2.2.2.2.2.2.2.2.2.2.2.1]
  exact .refl _ _

theorem Reacts.sendEvent (old s : State) (n : Fin 12) (accepted : Bool) (eventTime : AbsTime) :
    s.Reacts (State.sendEvent old s n accepted eventTime) := by
  unfold State.sendEvent
  dsimp only
  split
  · exact Reacts.send _ _
  · split
    · exact Reacts.send _ _
    · exact .refl s

theorem Reacts.inputChanged (old s : State) (n : Fin 12) (accepted : Bool) (t : Nat) (eventTime : AbsTime) :
    s.Reacts (State.inputChanged old s n accepted t eventTime) := by
  unfold State.inputChanged
  dsimp only
  refine State.Reacts.trans (State.Reacts.trans ?_ (Reacts.handOverRoles _ _ _ _)) (Reacts.sendEvent _ _ _ _ _)
  split
  · exact (Reacts.deliver _ _ _ _).trans (Logs.raiseBoth _ _).reacts
  · exact .refl s

end Sys2Proof.Machine
end

