-- ==== Sys2Proof/Laws/Due.lean ====
section
/-! SUPPORT. The events that the part takes by itself: which one is taken next, when a flush expiry is, and
that the two do not touch each other; and the length of what a transaction clocks out. -/

namespace Sys2Proof.Machine

/-! ### The events of an instant -/

theorem mem_dueIf {due : Bool} {i e : Instr} : e ∈ dueIf due i ↔ due = true ∧ e = i := by
  cases due <;> simp [dueIf]

theorem mem_flushEvents {s : State} {e : Instr} :
    e ∈ s.flushEvents ↔ ∃ p, s.flushDue p = true ∧ e = .flushTimerExpiry p := by
  simp only [State.flushEvents, List.mem_flatMap, mem_dueIf]
  constructor
  · rintro ⟨p, -, h⟩
    exact ⟨p, h⟩
  · rintro ⟨p, h⟩
    exact ⟨p, by cases p <;> simp, h⟩

theorem dueEvents_eq_nil {s : State} : s.dueEvents = [] ↔ s.otherEvents = [] ∧ ∀ p, s.flushDue p = false := by
  simp only [State.dueEvents, List.append_eq_nil_iff]
  refine and_congr_right fun _ => ⟨fun h p => ?_, fun h => ?_⟩
  · cases d : s.flushDue p with
    | false => rfl
    | true =>
      have m : .flushTimerExpiry p ∈ s.flushEvents := mem_flushEvents.mpr ⟨p, d, rfl⟩
      simp [h] at m
  · exact List.eq_nil_iff_forall_not_mem.mpr fun e m => by
      obtain ⟨p, d, -⟩ := mem_flushEvents.mp m
      simp [h p] at d

/-- The events that are no flush expiries, and which of them is next, do not look at the drain channels and the
ports, so that a flush expiry leaves them as they are (R122). -/
theorem otherEvents_drains (s : State) (d : PerPort Drain) (q : PerPort PortInterface) :
    State.otherEvents { s with drains := d, ports := q } = s.otherEvents
    ∧ State.nextEvent { s with drains := d, ports := q } = s.nextEvent := ⟨rfl, rfl⟩

/-- What a flush expiry changes: its channel and its port. -/
theorem execFlushTimerExpiry_only (p : Port) (s : State) :
    ∃ d q, exec (.flushTimerExpiry p) s = .next { s with drains := d, ports := q } := by
  simp only [exec, execFlushTimerExpiry]
  split
  · exact ⟨_, _, rfl⟩
  · exact ⟨s.drains, s.ports, rfl⟩

/-- The event taken is one of those due, or the slew point where none is (R134). -/
theorem nextEvent_eq_some {s : State} {e : Instr} (h : s.nextEvent = some e) :
    e ∈ s.otherEvents ∨ (s.otherEvents = [] ∧ s.time.slewDue = true ∧ e = .slewPoint) := by
  unfold State.nextEvent at h
  split at h
  next none =>
    split at h
    next slew => exact .inr ⟨none, slew, by simpa using h.symm⟩
    next => cases h
  next f rest ready =>
    refine .inl ?_
    obtain rfl := Option.some.inj h
    rw [ready, List.getD_eq_getElem?_getD]
    cases at_ : (f :: rest)[s.freeChoice (rest.length + 1)]? with
    | none => simp
    | some x => simpa using List.mem_of_getElem? at_

/-- While an event is due, one is next. -/
theorem nextEvent_isSome {s : State} (h : s.otherEvents ≠ []) : s.nextEvent.isSome = true := by
  unfold State.nextEvent
  split
  next none => exact absurd none h
  next => rfl

theorem nextEvent_eq_none {s : State} : s.nextEvent = none ↔ s.otherEvents = [] ∧ s.time.slewDue = false := by
  unfold State.nextEvent
  split
  next none => simp [none]
  next due => simp [due]

/-! ### Flush expiries (R122) -/

/-- The next event hands over a page: so does the rest of the instant. -/
theorem restHandsOver_now {p : Port} {n : Nat} {s t : State} {e : Instr} (due : s.otherEvents ≠ [])
    (next : s.nextEvent = some e) (run : exec e s.useFree = .next t)
    (handed : (t.drains.get p).count ≠ (s.drains.get p).count) : State.restHandsOver p (n + 1) s = true := by
  unfold State.restHandsOver
  cases l : s.otherEvents with
  | nil => exact absurd l due
  | cons => simp [next, run, handed]

/-- The rest of the instant after the next event hands over a page: so does the rest before it. -/
theorem restHandsOver_later {p : Port} {n : Nat} {s t : State} {e : Instr} (due : s.otherEvents ≠ [])
    (next : s.nextEvent = some e) (run : exec e s.useFree = .next t)
    (later : State.restHandsOver p n t = true) : State.restHandsOver p (n + 1) s = true := by
  unfold State.restHandsOver
  cases l : s.otherEvents with
  | nil => exact absurd l due
  | cons => simp [next, run, later]

/-- Looking at more events finds no fewer handovers. -/
theorem restHandsOver_mono {p : Port} {n : Nat} {s : State} (h : State.restHandsOver p n s = true) :
    State.restHandsOver p (n + 1) s = true := by
  induction n generalizing s with
  | zero => simp [State.restHandsOver] at h
  | succ n ih =>
    unfold State.restHandsOver at h
    split at h
    next l next =>
      split at h
      next t run =>
        simp only [Bool.or_eq_true, decide_eq_true_eq] at h
        rcases h with h | h
        · exact restHandsOver_now (by simp [l]) next run h
        · exact restHandsOver_later (by simp [l]) next run (ih h)
      next => cases h
      next => cases h
    next => cases h

/-- With nothing else due, the rest of the instant hands over nothing. -/
theorem restHandsOver_of_nil {p : Port} {n : Nat} {s : State} (h : s.otherEvents = []) :
    State.restHandsOver p n s = false := by
  cases n <;> simp [State.restHandsOver, h]

theorem flushPort_eq_some {s : State} {p : Port} (h : s.flushPort = some p) :
    s.flushDue p = true ∧ s.restHandsOver p eventsOfAnInstant = false := by
  have now := List.find?_some h
  simp only [State.flushNow, Bool.and_eq_true, Bool.not_eq_true'] at now
  exact now.1

/-- With nothing else due, a flush expiry is taken if one is due. -/
theorem flushPort_of_nil {s : State} (h : s.otherEvents = []) :
    s.flushPort = none ↔ ∀ p, s.flushDue p = false := by
  have now : ∀ p, s.flushNow p = s.flushDue p := fun p => by
    simp [State.flushNow, restHandsOver_of_nil h, h]
  simp only [State.flushPort, List.find?_eq_none, now]
  exact ⟨fun x p => by cases p <;> simpa using x _ (by simp), fun x p _ => by simp [x p]⟩

/-! ### The step on an empty queue -/

/-- What a step on an empty queue is: a flush expiry that does not wait, an event that is due or the slew
point, or, with nothing due, a microsecond (logs 1 and 3). -/
theorem idleStep_cases (s : State) :
    (∃ p, s.flushDue p = true ∧ s.restHandsOver p eventsOfAnInstant = false
      ∧ s.idleStep = exec (.flushTimerExpiry p) s)
    ∨ (∃ e, s.nextEvent = some e ∧ s.idleStep = exec e s.useFree)
    ∨ (s.dueEvents = [] ∧ s.time.slewDue = false ∧ s.idleStep = .next s.advanceClock) := by
  unfold State.idleStep
  cases f : s.flushPort with
  | some p => exact .inl ⟨p, (flushPort_eq_some f).1, (flushPort_eq_some f).2, rfl⟩
  | none =>
    cases n : s.nextEvent with
    | some e => exact .inr (.inl ⟨e, rfl, rfl⟩)
    | none =>
      have none := nextEvent_eq_none.mp n
      exact .inr (.inr ⟨dueEvents_eq_nil.mpr ⟨none.1, (flushPort_of_nil none.1).mp f⟩, none.2, rfl⟩)

/-! ### What a transaction clocks out -/

@[simp] theorem padTo_length (n : Nat) (bytes : List Byte) : (padTo n bytes).length = n := by
  simp [padTo]

@[simp] theorem clockedOut_length (q : PortInterface) (n : Nat) : (q.clockedOut n).length = n := padTo_length n _

end Sys2Proof.Machine
end

