-- ==== Sys2Proof/Laws/PerInstr.lean ====
section
/-! SUPPORT. What holds of every command as syntax, one lemma for each constructor: only a port's
command is gated, and only a gated one is held to IDLE (Tables 2-1 and 10-1). -/

namespace Sys2Proof.Laws.Sender

/-- A gated command comes from its port, and a command of IDLE is gated (Tables 2-1 and 10-1). -/
def Statement (c : Instr) : Prop :=
  (∀ p, c.gatedSender = some p → c.sender = some p) ∧ (∀ p, c.idleSender = some p → c.gatedSender = some p)

theorem powerOn (level : EStopLevel) : Statement (.powerOn level) :=
  ⟨(fun _ h => nomatch h), (fun _ h => nomatch h)⟩

theorem badFrame (p : Port) : Statement (.badFrame p) :=
  ⟨(fun _ h => nomatch h), (fun _ h => nomatch h)⟩

theorem unknown (p : Port) : Statement (.unknown p) :=
  ⟨(fun _ h => nomatch h), (fun _ h => nomatch h)⟩

theorem getStatus (p : Port) (sect : Nat) : Statement (.getStatus p sect) :=
  ⟨(fun _ h => nomatch h), (fun _ h => nomatch h)⟩

theorem configChannel (p : Port) (channel range trim link : Nat) :
    Statement (.configChannel p channel range trim link) :=
  ⟨fun _ h => h, fun _ h => h⟩

theorem configInput (p : Port) (input polarity debounce role : Nat) :
    Statement (.configInput p input polarity debounce role) :=
  ⟨fun _ h => h, fun _ h => h⟩

theorem configOutput (p : Port) (output role : Nat) : Statement (.configOutput p output role) :=
  ⟨fun _ h => h, fun _ h => h⟩

theorem configBreaker (p : Port) (setting tripTime closeTime : Nat) :
    Statement (.configBreaker p setting tripTime closeTime) :=
  ⟨fun _ h => h, fun _ h => h⟩

theorem configTeleprotection (p : Port) (source delay : Nat) : Statement (.configTeleprotection p source delay) :=
  ⟨fun _ h => h, fun _ h => h⟩

theorem writeState (p : Port) (index expected : Nat) (record : RawRecord) :
    Statement (.writeState p index expected record) :=
  ⟨fun _ h => h, fun _ h => nomatch h⟩

theorem writeBalanced (p : Port) (index expected group amplitude frequency : Nat) (angle : Int) (order : Nat) :
    Statement (.writeBalanced p index expected group amplitude frequency angle order) :=
  ⟨fun _ h => h, fun _ h => nomatch h⟩

theorem readState (p : Port) (index selector : Nat) : Statement (.readState p index selector) :=
  ⟨(fun _ h => nomatch h), (fun _ h => nomatch h)⟩

theorem eraseState (p : Port) (index : Nat) : Statement (.eraseState p index) :=
  ⟨fun _ h => h, fun _ h => h⟩

theorem hold (p : Port) : Statement (.hold p) :=
  ⟨fun _ h => h, fun _ h => nomatch h⟩

theorem release (p : Port) : Statement (.release p) :=
  ⟨fun _ h => h, fun _ h => nomatch h⟩

theorem setAuthority (p : Port) (value : Nat) : Statement (.setAuthority p value) :=
  ⟨(fun _ h => nomatch h), (fun _ h => nomatch h)⟩

theorem arm (p : Port) (first mode : Nat) (mask value : Mask) (startTime : AbsTime) (peer period initial : Nat) :
    Statement (.arm p first mode mask value startTime peer period initial) :=
  ⟨fun _ h => h, fun _ h => h⟩

theorem start (p : Port) : Statement (.start p) :=
  ⟨fun _ h => h, fun _ h => nomatch h⟩

theorem abort (p : Port) (option : Nat) : Statement (.abort p option) :=
  ⟨(fun _ h => nomatch h), (fun _ h => nomatch h)⟩

theorem adjust (p : Port) (target quantity mode : Nat) (value : Int) :
    Statement (.adjust p target quantity mode value) :=
  ⟨fun _ h => h, fun _ h => nomatch h⟩

theorem setOutput (p : Port) (setMask clearMask : Nat) : Statement (.setOutput p setMask clearMask) :=
  ⟨fun _ h => h, fun _ h => nomatch h⟩

theorem setTime (p : Port) (seconds : Nat) : Statement (.setTime p seconds) :=
  ⟨fun _ h => h, fun _ h => nomatch h⟩

theorem drainEnable (p : Port) (selector : Nat) : Statement (.drainEnable p selector) :=
  ⟨(fun _ h => nomatch h), (fun _ h => nomatch h)⟩

theorem readPage (p : Port) (page first : Nat) : Statement (.readPage p page first) :=
  ⟨(fun _ h => nomatch h), (fun _ h => nomatch h)⟩

theorem releasePage (p : Port) (page : Nat) : Statement (.releasePage p page) :=
  ⟨(fun _ h => nomatch h), (fun _ h => nomatch h)⟩

theorem notifyEnable (p : Port) (selector : Nat) (causes : Mask) : Statement (.notifyEnable p selector causes) :=
  ⟨(fun _ h => nomatch h), (fun _ h => nomatch h)⟩

theorem notifyAck (p : Port) (causes : Mask) : Statement (.notifyAck p causes) :=
  ⟨(fun _ h => nomatch h), (fun _ h => nomatch h)⟩

theorem softReset (p : Port) : Statement (.softReset p) :=
  ⟨fun _ h => h, fun _ h => nomatch h⟩

theorem eStopAsserted : Statement (.eStopAsserted) :=
  ⟨(fun _ h => nomatch h), (fun _ h => nomatch h)⟩

theorem eStopReleased : Statement (.eStopReleased) :=
  ⟨(fun _ h => nomatch h), (fun _ h => nomatch h)⟩

theorem acceptedChange (input : Fin 12) : Statement (.acceptedChange input) :=
  ⟨(fun _ h => nomatch h), (fun _ h => nomatch h)⟩

theorem sampleBoundary : Statement (.sampleBoundary) :=
  ⟨(fun _ h => nomatch h), (fun _ h => nomatch h)⟩

theorem amplifierReturn (channel : Channel) (status : AmpStatus) : Statement (.amplifierReturn channel status) :=
  ⟨(fun _ h => nomatch h), (fun _ h => nomatch h)⟩

theorem rampStep : Statement (.rampStep) :=
  ⟨(fun _ h => nomatch h), (fun _ h => nomatch h)⟩

theorem firstEntry : Statement (.firstEntry) :=
  ⟨(fun _ h => nomatch h), (fun _ h => nomatch h)⟩

theorem stateEntry : Statement (.stateEntry) :=
  ⟨(fun _ h => nomatch h), (fun _ h => nomatch h)⟩

theorem stateTimeout : Statement (.stateTimeout) :=
  ⟨(fun _ h => nomatch h), (fun _ h => nomatch h)⟩

theorem exitToEnd : Statement (.exitToEnd) :=
  ⟨(fun _ h => nomatch h), (fun _ h => nomatch h)⟩

theorem shotLimit : Statement (.shotLimit) :=
  ⟨(fun _ h => nomatch h), (fun _ h => nomatch h)⟩

theorem rampDownStart : Statement (.rampDownStart) :=
  ⟨(fun _ h => nomatch h), (fun _ h => nomatch h)⟩

theorem rampDownEnd : Statement (.rampDownEnd) :=
  ⟨(fun _ h => nomatch h), (fun _ h => nomatch h)⟩

theorem closingLingerEnd : Statement (.closingLingerEnd) :=
  ⟨(fun _ h => nomatch h), (fun _ h => nomatch h)⟩

theorem openingActionDue (pole : Pole) : Statement (.openingActionDue pole) :=
  ⟨(fun _ h => nomatch h), (fun _ h => nomatch h)⟩

theorem closeActionDue (pole : Pole) : Statement (.closeActionDue pole) :=
  ⟨(fun _ h => nomatch h), (fun _ h => nomatch h)⟩

theorem forcedLimit (pole : Pole) : Statement (.forcedLimit pole) :=
  ⟨(fun _ h => nomatch h), (fun _ h => nomatch h)⟩

theorem conditionActionDue (index : Fin 4) : Statement (.conditionActionDue index) :=
  ⟨(fun _ h => nomatch h), (fun _ h => nomatch h)⟩

theorem stateOutputDue : Statement (.stateOutputDue) :=
  ⟨(fun _ h => nomatch h), (fun _ h => nomatch h)⟩

theorem tpEdgeDue : Statement (.tpEdgeDue) :=
  ⟨(fun _ h => nomatch h), (fun _ h => nomatch h)⟩

theorem keepaliveExpiry : Statement (.keepaliveExpiry) :=
  ⟨(fun _ h => nomatch h), (fun _ h => nomatch h)⟩

theorem flushTimerExpiry (p : Port) : Statement (.flushTimerExpiry p) :=
  ⟨(fun _ h => nomatch h), (fun _ h => nomatch h)⟩

theorem ppsEdge : Statement (.ppsEdge) :=
  ⟨(fun _ h => nomatch h), (fun _ h => nomatch h)⟩

theorem slewPoint : Statement (.slewPoint) :=
  ⟨(fun _ h => nomatch h), (fun _ h => nomatch h)⟩

theorem ppsTimeout : Statement (.ppsTimeout) :=
  ⟨(fun _ h => nomatch h), (fun _ h => nomatch h)⟩

theorem holdoverTimeout : Statement (.holdoverTimeout) :=
  ⟨(fun _ h => nomatch h), (fun _ h => nomatch h)⟩

theorem sendTimerExpiry : Statement (.sendTimerExpiry) :=
  ⟨(fun _ h => nomatch h), (fun _ h => nomatch h)⟩

theorem lossTimerExpiry : Statement (.lossTimerExpiry) :=
  ⟨(fun _ h => nomatch h), (fun _ h => nomatch h)⟩

theorem invalidPeerFrame : Statement (.invalidPeerFrame) :=
  ⟨(fun _ h => nomatch h), (fun _ h => nomatch h)⟩

theorem hello (version : Byte) (tag : BitVec 64) (heard : Bool) : Statement (.hello version tag heard) :=
  ⟨(fun _ h => nomatch h), (fun _ h => nomatch h)⟩

theorem keepalive : Statement (.keepalive) :=
  ⟨(fun _ h => nomatch h), (fun _ h => nomatch h)⟩

theorem startPropose (startTime : AbsTime) : Statement (.startPropose startTime) :=
  ⟨(fun _ h => nomatch h), (fun _ h => nomatch h)⟩

theorem startAccept (startTime : AbsTime) : Statement (.startAccept startTime) :=
  ⟨(fun _ h => nomatch h), (fun _ h => nomatch h)⟩

theorem startReject (startTime : AbsTime) (reason : RejectReason) : Statement (.startReject startTime reason) :=
  ⟨(fun _ h => nomatch h), (fun _ h => nomatch h)⟩

theorem acceptDeadline : Statement (.acceptDeadline) :=
  ⟨(fun _ h => nomatch h), (fun _ h => nomatch h)⟩

theorem eventFrame (input : Nat) (role : InputRole) (level : Bool) (eventTime : AbsTime) (shot carrier : Bool) :
    Statement (.eventFrame input role level eventTime shot carrier) :=
  ⟨(fun _ h => nomatch h), (fun _ h => nomatch h)⟩

theorem stateFrame (state : Nat) (cause : EntryCause) (entryTime : AbsTime) :
    Statement (.stateFrame state cause entryTime) :=
  ⟨(fun _ h => nomatch h), (fun _ h => nomatch h)⟩

theorem abortFrame (cause : AbortCause) : Statement (.abortFrame cause) :=
  ⟨(fun _ h => nomatch h), (fun _ h => nomatch h)⟩

theorem endFrame (cause : EndCause) : Statement (.endFrame cause) :=
  ⟨(fun _ h => nomatch h), (fun _ h => nomatch h)⟩

theorem inputSample (pins : BitVec 12) : Statement (.inputSample pins) :=
  ⟨(fun _ h => nomatch h), (fun _ h => nomatch h)⟩

end Sys2Proof.Laws.Sender
end

