-- ==== Sys2Proof/Laws/Shot.lean ====
section
/-! SUPPORT. Once and for all, what abort causes, the end of a visit and the entry to CLOSING can do: the
relation `State.Ends` holds between the states before and after each of them; it takes in `State.Reacts`,
is closed under composition, and keeps the shot consistent. -/

namespace Sys2Proof.Machine

/-! ### The relation -/

/-- What the ends of visits and of shots can do, with whatever reacts to them, but for what the sequencer
then holds. -/
structure State.Winds (s t : State) : Prop where
  keeps : t.pending = s.pending ∧ t.store = s.store ∧ t.edit = s.edit ∧ t.amp = s.amp ∧ t.inputs = s.inputs
  time : t.time = { s.time with boundaryPassed := t.time.boundaryPassed }
  guard : t.guard = { s.guard with expiry := t.guard.expiry }
  peer : t.peer = { s.peer with agreement := t.peer.agreement, sent := t.peer.sent }
  breaker : t.breaker = { s.breaker with poles := t.breaker.poles }
  seq : t.seq = { s.seq with
    phase := t.seq.phase, startBoundary := t.seq.startBoundary, visit := t.seq.visit
    chosen := t.seq.chosen, deferring := t.seq.deferring, softEnd := t.seq.softEnd
    rampDownAt := t.seq.rampDownAt, closingAt := t.seq.closingAt, endAtExit := t.seq.endAtExit
    endCause := t.seq.endCause, secondary := t.seq.secondary }
  active : t.seq.phase = .idle ↔ s.seq.phase = .idle
  codes : ∀ c, (t.synth.channels.get c).last = (s.synth.channels.get c).last
    ∨ (t.synth.channels.get c).last = 0
  actions : s.actions.Moves (s.seq.visit.map (·.entry)) t.actions
  log : t.log.freed = s.log.freed ∧ t.log.reservation = s.log.reservation
  extends_ : s.log.records <+: t.log.records
  room : s.log.records.length + s.log.reservation ≤ 1024 →
    t.log.records.length + t.log.reservation ≤ 1024
  drains : s.DrainsConsistent → t.DrainsConsistent
  ports : ∀ p, (s.ports.get p).Grows (t.ports.get p)
  visit : t.seq.visit.map (·.entry) = s.seq.visit.map (·.entry) ∨ t.seq.visit = none

/-- A whole event of that kind: it also keeps the shot consistent, and opens no new way ahead. -/
structure State.Ends (s t : State) : Prop extends State.Winds s t where
  shot : s.ShotConsistent → t.ShotConsistent
  ahead : ∀ i, t.MayEnter i → s.MayEnter i

theorem TimedList.Moves.weaken {o : Option Nat} {l m : TimedList} (h : l.Moves none m) : l.Moves o m :=
  ⟨h.groups, h.ordered, fun a x => (h.owned a x).elim .inl (fun e => .inr (.inl (e.elim id id))), h.kinds⟩

theorem State.Winds.refl (s : State) : s.Winds s where
  keeps := by simp
  time := rfl
  guard := rfl
  peer := rfl
  breaker := rfl
  seq := rfl
  active := Iff.rfl
  codes := fun _ => .inl rfl
  actions := .refl _ _
  log := by simp
  extends_ := List.prefix_refl _
  room := id
  drains := id
  ports := fun _ => .refl _
  visit := .inl rfl

theorem State.Winds.trans {s t u : State} (h : s.Winds t) (k : t.Winds u) : s.Winds u where
  keeps := by
    obtain ⟨h1, h2, h3, h4, h5⟩ := h.keeps
    obtain ⟨k1, k2, k3, k4, k5⟩ := k.keeps
    exact ⟨k1.trans h1, k2.trans h2, k3.trans h3, k4.trans h4, k5.trans h5⟩
  time := by rw [k.time, h.time]
  guard := by rw [k.guard, h.guard]
  peer := by rw [k.peer, h.peer]
  breaker := by rw [k.breaker, h.breaker]
  seq := by rw [k.seq, h.seq]
  active := k.active.trans h.active
  codes := fun c => by
    rcases k.codes c with e | e
    · rw [e]; exact h.codes c
    · exact .inr e
  actions := by
    rcases h.visit with e | e
    · exact h.actions.trans (e ▸ k.actions)
    · refine h.actions.trans (TimedList.Moves.weaken ?_)
      have := k.actions
      rwa [e] at this
  log := ⟨k.log.1.trans h.log.1, k.log.2.trans h.log.2⟩
  extends_ := h.extends_.trans k.extends_
  room := fun x => k.room (h.room x)
  drains := fun x => k.drains (h.drains x)
  ports := fun p => (h.ports p).trans (k.ports p)
  visit := by
    rcases k.visit with e | e
    · rcases h.visit with f | f
      · exact .inl (e.trans f)
      · rw [f] at e
        exact .inr (by simpa using e)
    · exact .inr e

theorem State.Ends.refl (s : State) : s.Ends s := { State.Winds.refl s with shot := id, ahead := fun _ h => h }

theorem State.Ends.trans {s t u : State} (h : s.Ends t) (k : t.Ends u) : s.Ends u :=
  { h.toWinds.trans k.toWinds with
    shot := fun x => k.shot (h.shot x)
    ahead := fun i x => h.ahead i (k.ahead i x) }

theorem State.Ends.ite {s t : State} (c : Prop) [Decidable c] (h : s.Ends t) :
    s.Ends (if c then t else s) := by
  split
  · exact h
  · exact .refl s

theorem Visit.bare_eq {v w : Visit} (h : v.bare = w.bare) :
    v.state = w.state ∧ v.entry = w.entry ∧ v.record = w.record ∧ v.timeoutAt = w.timeoutAt
    ∧ v.conditions.map (·.condition) = w.conditions.map (·.condition) := by
  simp only [Visit.bare, Visit.mk.injEq] at h
  refine ⟨h.1, h.2.1, h.2.2.2.1, h.2.2.2.2.2, ?_⟩
  have := congrArg (List.map CondState.condition) h.2.2.2.2.1
  simpa [Function.comp_def, Condition.unevaluated] using this

theorem State.Reacts.isSome {s t : State} (h : s.Reacts t) : t.seq.visit.isSome = s.seq.visit.isSome := by
  have := congrArg Option.isSome h.visit
  simpa using this

/-- What reacts to a change keeps the shot consistent. -/
theorem State.Reacts.shot {s t : State} (h : s.Reacts t) (c : s.ShotConsistent) : t.ShotConsistent := by
  obtain ⟨c1, c2, c3, c4, c5, c6⟩ := c
  have q := h.seq
  have ph : t.seq.phase = s.seq.phase := by rw [q]
  have rd : t.seq.rampDownAt = s.seq.rampDownAt := by rw [q]
  have cl : t.seq.closingAt = s.seq.closingAt := by rw [q]
  have se : t.seq.softEnd = s.seq.softEnd := by rw [q]
  have ec : t.seq.endCause = s.seq.endCause := by rw [q]
  refine ⟨?_, ?_, ?_, ?_, ?_, ?_⟩
  · rw [ph, h.isSome]; exact c1
  · rw [h.assess, h.isSome]; exact c2
  · rw [ph, rd]; exact c3
  · rw [ph, cl]; exact c4
  · rw [ph, se, ec]; exact c5
  · intro a m b e
    have en := h.entry
    have old : ∀ b, s.seq.visit.map (·.entry) = some b → ∃ v, t.seq.visit = some v ∧ v.entry = b := by
      intro b x
      rw [← en] at x
      simpa using x
    rcases h.actions.owned a m with k | k | k
    · obtain ⟨v, hv, hb⟩ := c6 a k b e
      exact old b (by simp [hv, hb])
    · rw [k] at e; cases e
    · exact old b (by rw [← k, e])

/-- What reacts to a change opens no new way ahead. -/
theorem State.Reacts.ahead {s t : State} (h : s.Reacts t) (i : Fin 32) (m : t.MayEnter i) : s.MayEnter i := by
  have q := h.seq
  have ph : t.seq.phase = s.seq.phase := by rw [q]
  have fs : t.seq.firstState = s.seq.firstState := by rw [q]
  have ch : t.seq.chosen = s.seq.chosen := by rw [q]
  unfold State.MayEnter at *
  rw [ph, fs, ch] at m
  revert m
  split
  · exact id
  · rintro (m | ⟨v, hv, m⟩)
    · exact .inl m
    · refine .inr ?_
      have e := h.visit
      rw [hv] at e
      obtain ⟨w, hw, e⟩ := Option.map_eq_some_iff.1 e.symm
      obtain ⟨-, -, er, et, ec⟩ := Visit.bare_eq e
      refine ⟨w, hw, ?_⟩
      rcases m with ⟨c, hc, hn⟩ | ⟨m1, m2⟩
      · left
        have : c.condition ∈ v.conditions.map (·.condition) := List.mem_map_of_mem hc
        rw [← ec] at this
        obtain ⟨d, hd, hdc⟩ := List.mem_map.1 this
        exact ⟨d, hd, by rw [hdc]; exact hn⟩
      · right
        rw [et, er]
        exact ⟨m1, m2⟩
  · exact id

theorem State.Reacts.ends {s t : State} (h : s.Reacts t) : s.Ends t := by
  obtain ⟨h1, h2, h3, h4, h5, h6, h7, -⟩ := h.keeps
  have q := h.seq
  exact {
    keeps := ⟨h1, h2, h3, h4, h5⟩
    time := by rw [h6]
    guard := by rw [h7]
    peer := by rw [h.peer]
    breaker := h.breaker
    seq := by rw [q]
    active := by rw [q]
    shot := h.shot
    ahead := h.ahead
    codes := fun c => .inl (h.codes c)
    actions := h.actions
    log := ⟨h.log.1, h.log.2.1⟩
    extends_ := h.extends_
    room := h.room
    drains := h.drains
    ports := h.ports
    visit := .inl h.entry }

theorem State.Logs.ends {s t : State} (h : s.Logs t) : s.Ends t := h.reacts.ends

/-- A change of the fields that the relation does not bound, with the log, the drain channels and the ports
as they were. -/
theorem State.Winds.of (s t : State)
    (keeps : t.pending = s.pending ∧ t.store = s.store ∧ t.edit = s.edit ∧ t.amp = s.amp
      ∧ t.inputs = s.inputs)
    (same : t.log.records = s.log.records ∧ t.log.freed = s.log.freed
      ∧ t.log.reservation = s.log.reservation ∧ t.drains = s.drains ∧ t.ports = s.ports)
    (time : t.time = { s.time with boundaryPassed := t.time.boundaryPassed })
    (guard : t.guard = { s.guard with expiry := t.guard.expiry })
    (peer : t.peer = { s.peer with agreement := t.peer.agreement, sent := t.peer.sent })
    (breaker : t.breaker = { s.breaker with poles := t.breaker.poles })
    (seq : t.seq = { s.seq with
      phase := t.seq.phase, startBoundary := t.seq.startBoundary, visit := t.seq.visit
      chosen := t.seq.chosen, deferring := t.seq.deferring, softEnd := t.seq.softEnd
      rampDownAt := t.seq.rampDownAt, closingAt := t.seq.closingAt, endAtExit := t.seq.endAtExit
      endCause := t.seq.endCause, secondary := t.seq.secondary })
    (active : t.seq.phase = .idle ↔ s.seq.phase = .idle)
    (codes : ∀ c, (t.synth.channels.get c).last = (s.synth.channels.get c).last
      ∨ (t.synth.channels.get c).last = 0)
    (actions : s.actions.Moves none t.actions)
    (visit : t.seq.visit.map (·.entry) = s.seq.visit.map (·.entry) ∨ t.seq.visit = none) : s.Winds t := by
  obtain ⟨l, f, r, d, p⟩ := same
  exact {
    keeps := keeps, time := time, guard := guard, peer := peer, breaker := breaker, seq := seq
    active := active, codes := codes, visit := visit
    actions := actions.weaken
    log := ⟨f, r⟩
    extends_ := by rw [l]
    room := by rw [l, r]; exact id
    drains := by
      intro c
      refine ⟨?_, ?_⟩
      · rw [d]; exact c.1.sameRecords f l
      · rw [d]; exact c.2.sameRecords f l
    ports := by rw [p]; exact fun _ => .refl _ }

/-! ### The end of a visit -/

/-- The state in which a visit has ended and its records are still to be offered. -/
def State.visitClosed (s : State) (byAbort : Bool) : State :=
  let captures := (s.assess.map (·.captures)).getD []
  let entry := (s.assess.map (·.entry)).getD 0
  { s with
    seq := { s.seq with visit := none, chosen := none, deferring := false, softEnd := none }
    assess := none
    actions := s.actions.keep fun a => a.owner.isNone
    log := { s.log with verdicts := countVerdicts byAbort entry s.log.verdicts captures }
    freeUsed := s.freeUsed + 1 }

theorem endVisit_none (s : State) (byAbort : Bool) (h : s.seq.visit = none) : s.endVisit byAbort = s := by
  simp [State.endVisit, h]

/-- The records that the end of a visit offers, in their order (R108). -/
def State.visitBodies (s : State) (byAbort : Bool) (v : Visit) : List RecordBody :=
  let verdicts := assessmentBodies v.state byAbort ((s.assess.map (·.entry)).getD 0) 1
    ((s.assess.map (·.captures)).getD [])
  match s.noPickup v with
  | some b => insertAt b (s.freeChoice (verdicts.length + 1)) verdicts
  | none => verdicts

/-- The end of a visit is its close, and then its records. -/
theorem endVisit_some (s : State) (byAbort : Bool) (v : Visit) (h : s.seq.visit = some v) :
    s.endVisit byAbort
      = (s.visitClosed byAbort).offerAll (s.shotTime s.now) (s.visitBodies byAbort v) := by
  unfold State.endVisit
  simp only [h]
  rfl

theorem keep_unowned (l : TimedList) : ∀ a ∈ (l.keep fun a => a.owner.isNone).entries, a.owner = none := by
  intro a m
  have := (List.mem_filter.1 m).2
  simpa using this

/-- What the end of a visit leaves. -/
theorem endVisit_fields (s : State) (byAbort : Bool) :
    (s.endVisit byAbort).pending = s.pending ∧ (s.endVisit byAbort).store = s.store
    ∧ (s.endVisit byAbort).edit = s.edit ∧ (s.endVisit byAbort).synth = s.synth
    ∧ (s.endVisit byAbort).amp = s.amp ∧ (s.endVisit byAbort).inputs = s.inputs
    ∧ (s.endVisit byAbort).outputs = s.outputs ∧ (s.endVisit byAbort).breaker = s.breaker
    ∧ (s.endVisit byAbort).time = s.time ∧ (s.endVisit byAbort).peer = s.peer
    ∧ (s.endVisit byAbort).tp = s.tp ∧ (s.endVisit byAbort).guard = s.guard
    ∧ (s.endVisit byAbort).seq.visit = none ∧ (s.endVisit byAbort).seq.phase = s.seq.phase
    ∧ (s.endVisit byAbort).seq.endCause = s.seq.endCause
    ∧ (s.endVisit byAbort).seq.secondary = s.seq.secondary := by
  cases h : s.seq.visit with
  | none => simp [endVisit_none s byAbort h, h]
  | some v => simp [endVisit_some s byAbort v h, State.visitClosed]

/-- The sequencer, the context and the list after a visit has ended. -/
theorem endVisit_seq (s : State) (byAbort : Bool) (v : Visit) (h : s.seq.visit = some v) :
    (s.endVisit byAbort).seq
      = { s.seq with visit := none, chosen := none, deferring := false, softEnd := none }
    ∧ (s.endVisit byAbort).assess = none
    ∧ (s.endVisit byAbort).actions = s.actions.keep (fun a => a.owner.isNone) := by
  simp [endVisit_some s byAbort v h, State.visitClosed]

theorem Winds.visitClosed (s : State) (byAbort : Bool) : s.Winds (s.visitClosed byAbort) :=
  State.Winds.of _ _ (by simp [State.visitClosed]) (by simp [State.visitClosed]) rfl rfl rfl rfl rfl Iff.rfl
    (fun _ => .inl rfl) (.keep _ _ _) (.inr rfl)

theorem Winds.endVisit (s : State) (byAbort : Bool) : s.Winds (s.endVisit byAbort) := by
  cases h : s.seq.visit with
  | none => rw [endVisit_none s byAbort h]; exact .refl s
  | some v =>
    rw [endVisit_some s byAbort v h]
    exact (Winds.visitClosed s byAbort).trans (Logs.offerAll _ _ _).ends.toWinds

/-! ### The entry to CLOSING -/

/-- The part of the entry to CLOSING that comes before receive falls (R44, R66, R97). -/
def State.closingMuted (s : State) : State :=
  { s with
    seq := { s.seq with phase := .closing, closingAt := some s.now, startBoundary := none, chosen := none,
                        deferring := false, softEnd := none, rampDownAt := none, endAtExit := false }
    guard := { s.guard with expiry := none }
    synth := { s.synth with channels := s.synth.channels.mapWith fun _ c => c.mute }
    breaker := { s.breaker with poles := s.breaker.poles.mapWith fun _ q => q.settle } }

/-- The part of it that comes after (R141, R153). -/
def State.closingCleared (s : State) : State :=
  { s with
    actions := s.actions.keep fun a => a.work.isPole
    tp := { s.tp with applied := s.tp.lastReceived, resync := false } }

theorem enterClosing_eq (s : State) :
    s.enterClosing = ((s.closingMuted.refreshReceive s.now).closingCleared).refreshOutputs .close closingLevel :=
  rfl

theorem Winds.closingMuted (s : State) (a : s.seq.phase ≠ .idle) : s.Winds s.closingMuted :=
  State.Winds.of _ _ (by simp [State.closingMuted]) (by simp [State.closingMuted]) rfl rfl rfl rfl rfl
    (by simp [State.closingMuted, a]) (fun c => .inr (by simp [State.closingMuted, SynthChannel.mute]))
    (.refl _ _) (.inl rfl)

theorem Winds.closingCleared (s : State) : s.Winds s.closingCleared :=
  State.Winds.of _ _ (by simp [State.closingCleared]) (by simp [State.closingCleared]) rfl rfl rfl rfl rfl
    Iff.rfl (fun _ => .inl rfl) (.keep _ _ _) (.inl rfl)

theorem Winds.enterClosing (s : State) (a : s.seq.phase ≠ .idle) : s.Winds s.enterClosing := by
  rw [enterClosing_eq]
  exact (((Winds.closingMuted s a).trans (Reacts.refreshReceive _ _).ends.toWinds).trans
    (Winds.closingCleared _)).trans (Reacts.refreshOutputs _ _ _).ends.toWinds

/-- Receive falls when RUNNING is left: nothing but the level and the outputs that carry it changes. -/
theorem refreshReceive_left (s : State) (t : Nat) (v : s.seq.visit = none) (a : s.seq.phase ≠ .armed) :
    s.refreshReceive t
      = if s.tp.receive = true then
          State.refreshOutputs { s with tp := { s.tp with receive := false } } .teleprotection
            (Teleprotection.outputLevel { s.tp with receive := false })
        else s := by
  have r : s.receiveLevel = false := by
    unfold State.receiveLevel
    rw [v]
    split <;> simp_all
  unfold State.refreshReceive
  rw [r]
  by_cases h : s.tp.receive = true
  · rw [if_neg (by simp [h]), if_pos h]
    have e := deliver_quiet { s with tp := { s.tp with receive := false } } 15 false t v a
    rw [if_neg (by decide)] at e
    dsimp only
    rw [e]
  · rw [if_pos (Bool.eq_false_iff.2 h).symm, if_neg h]

theorem refreshReceive_left_keeps (s : State) (t : Nat) (v : s.seq.visit = none) (a : s.seq.phase ≠ .armed) :
    (s.refreshReceive t).seq = s.seq ∧ (s.refreshReceive t).synth = s.synth
    ∧ (s.refreshReceive t).breaker = s.breaker ∧ (s.refreshReceive t).assess = s.assess
    ∧ (s.refreshReceive t).actions = s.actions ∧ (s.refreshReceive t).guard = s.guard
    ∧ (s.refreshReceive t).peer = s.peer ∧ (s.refreshReceive t).time = s.time
    ∧ (s.refreshReceive t).tp = { s.tp with receive := false } := by
  rw [refreshReceive_left s t v a]
  split
  · simp
  next h => simp [← Bool.eq_false_iff.2 h]

/-- What the entry to CLOSING leaves where no visit stands. -/
theorem enterClosing_fields (s : State) (v : s.seq.visit = none) :
    s.enterClosing.seq = { s.seq with
      phase := .closing, closingAt := some s.now, startBoundary := none, chosen := none
      deferring := false, softEnd := none, rampDownAt := none, endAtExit := false }
    ∧ s.enterClosing.guard = { s.guard with expiry := none }
    ∧ s.enterClosing.synth = { s.synth with channels := s.synth.channels.mapWith fun _ c => c.mute }
    ∧ s.enterClosing.breaker = { s.breaker with poles := s.breaker.poles.mapWith fun _ q => q.settle }
    ∧ s.enterClosing.assess = s.assess
    ∧ s.enterClosing.actions = s.actions.keep (fun a => a.work.isPole)
    ∧ s.enterClosing.tp = { s.tp with applied := s.tp.lastReceived, receive := false, resync := false }
    ∧ s.enterClosing.time = s.time ∧ s.enterClosing.peer = s.peer := by
  have h := refreshReceive_left_keeps s.closingMuted s.now v (by simp [State.closingMuted])
  obtain ⟨h1, h2, h3, h4, h5, h6, h7, h8, h9⟩ := h
  rw [enterClosing_eq]
  simp only [refreshOutputs_keeps]
  simp only [State.closingCleared]
  rw [h1, h2, h3, h4, h5, h6, h7, h8, h9]
  simp [State.closingMuted]

/-- The outputs after the entry to CLOSING. -/
theorem enterClosing_outputs (s : State) (v : s.seq.visit = none) (i : Nat) (h : i < 4) :
    s.enterClosing.outputs[i] = { s.outputs[i] with level :=
      match (s.outputs[i]).role with
      | .stateDriven => false
      | .tpReceive => if s.tp.receive = true then false else (s.outputs[i]).level
      | _ => (s.outputs[i]).level } := by
  rw [enterClosing_eq, refreshOutputs_outputs]
  show ((s.closingMuted.refreshReceive s.now).outputs[i]).ruled closingLevel = _
  rw [refreshReceive_left s.closingMuted s.now v (by simp [State.closingMuted])]
  show Output.ruled ((if s.tp.receive = true then _ else _ : State).outputs[i]) _ = _
  by_cases r : s.tp.receive = true
  · simp only [if_pos r, refreshOutputs_outputs]
    show Output.ruled (Output.ruled (s.outputs[i]) _) _ = _
    cases o : s.outputs[i] with
    | mk role level => cases role <;> simp [Output.ruled, closingLevel, Teleprotection.outputLevel]
  · simp only [if_neg r]
    show Output.ruled (s.outputs[i]) _ = _
    cases o : s.outputs[i] with
    | mk role level => cases role <;> simp [Output.ruled, closingLevel]

/-- A shot that has come to CLOSING with its end cause is consistent, and has no way ahead. -/
theorem Ends.enterClosing (s t : State) (w : s.Winds t) (a : t.seq.phase ≠ .idle) (v : t.seq.visit = none)
    (as_ : s.ShotConsistent → t.assess = none) (e : t.seq.endCause.isSome = true)
    (o : s.ShotConsistent → ∀ x ∈ t.actions.entries, x.owner = none) : s.Ends t.enterClosing := by
  obtain ⟨f1, -, -, -, f5, f6, -⟩ := enterClosing_fields t v
  refine { w.trans (Winds.enterClosing t a) with shot := ?_, ahead := ?_ }
  · intro c
    refine ⟨?_, ?_, ?_, ?_, ?_, ?_⟩
    · simp [f1, v]
    · simp [f1, v, f5, as_ c]
    · simp [f1]
    · simp [f1]
    · simp [f1, e]
    · intro x m b h
      rw [f6] at m
      rw [o c x (List.mem_of_mem_filter m)] at h
      cases h
  · intro i m
    simp [State.MayEnter, f1] at m

/-! ### RAMPING_DOWN (R37, R65) -/

/-- The part of the start of RAMPING_DOWN that comes before receive falls. -/
def State.rampingStarted (s : State) : State :=
  { s with
    seq := { s.seq with phase := .rampingDown, rampDownAt := some s.now, softEnd := none, chosen := none,
                        deferring := false, endAtExit := false }
    guard := { s.guard with expiry := none }
    synth := { s.synth with channels := s.synth.channels.mapWith fun _ c => { c with offset := 0 } } }

theorem startRampDown_eq (s : State) :
    s.startRampDown = (((s.endVisit true).rampingStarted).refreshReceive
      (s.endVisit true).rampingStarted.now).passBoundary := rfl

/-- What the start of RAMPING_DOWN leaves of a visit. -/
theorem startRampDown_fields (s : State) (v : Visit) (h : s.seq.visit = some v) :
    s.startRampDown.seq = { s.seq with
      visit := none, phase := .rampingDown, rampDownAt := some s.now, softEnd := none, chosen := none
      deferring := false, endAtExit := false }
    ∧ s.startRampDown.guard = { s.guard with expiry := none }
    ∧ s.startRampDown.synth
      = { s.synth with channels := s.synth.channels.mapWith fun _ c => { c with offset := 0 } }
    ∧ s.startRampDown.breaker = s.breaker ∧ s.startRampDown.assess = none
    ∧ s.startRampDown.actions = s.actions.keep (fun a => a.owner.isNone)
    ∧ s.startRampDown.tp = { s.tp with receive := false }
    ∧ s.startRampDown.time = { s.time with boundaryPassed := true } ∧ s.startRampDown.peer = s.peer := by
  obtain ⟨e1, e2, e3⟩ := endVisit_seq s true v h
  obtain ⟨g1, g2, g3, g4, g5, g6, g7, g8, g9, g10, g11, g12, g13, g14, g15, g16⟩ := endVisit_fields s true
  have k := refreshReceive_left_keeps (s.endVisit true).rampingStarted (s.endVisit true).rampingStarted.now
    (by simpa [State.rampingStarted] using g13) (by simp [State.rampingStarted])
  obtain ⟨k1, k2, k3, k4, k5, k6, k7, k8, k9⟩ := k
  rw [startRampDown_eq]
  simp only [passBoundary_keeps, passBoundary_time]
  rw [k1, k2, k3, k4, k5, k6, k7, k8, k9]
  simp [State.rampingStarted, e1, e2, e3, g4, g8, g9, g10, g11, g12]

theorem Ends.passBoundary (s : State) : s.Ends s.passBoundary :=
  { State.Winds.of s s.passBoundary (by simp) (by simp) rfl rfl rfl rfl rfl Iff.rfl (fun _ => .inl rfl)
      (.refl _ _) (.inl rfl) with
    shot := id, ahead := fun _ h => h }

theorem Winds.startRampDown (s : State) (a : s.seq.phase ≠ .idle) : s.Winds s.startRampDown := by
  rw [startRampDown_eq]
  have p : (s.endVisit true).seq.phase ≠ .idle := by
    rw [(endVisit_fields s true).2.2.2.2.2.2.2.2.2.2.2.2.2.1]
    exact a
  refine (((Winds.endVisit s true).trans (t := (s.endVisit true)) ?_).trans
    (Reacts.refreshReceive (s.endVisit true).rampingStarted _).ends.toWinds).trans (Ends.passBoundary _).toWinds
  exact State.Winds.of _ _ (by simp [State.rampingStarted]) (by simp [State.rampingStarted]) rfl rfl rfl rfl
    rfl (by simp [State.rampingStarted, p]) (fun c => .inl (by simp [State.rampingStarted])) (.refl _ _)
    (.inl rfl)

/-- The end of a running visit by a soft abort is a whole event. -/
theorem Ends.startRampDown (s : State) (v : Visit) (h : s.seq.visit = some v) (p : s.seq.phase = .running)
    (e : s.seq.endCause.isSome = true) : s.Ends s.startRampDown := by
  obtain ⟨f1, -, -, -, f5, f6, -⟩ := startRampDown_fields s v h
  refine { Winds.startRampDown s (by simp [p]) with shot := ?_, ahead := ?_ }
  · intro c
    refine ⟨?_, ?_, ?_, ?_, ?_, ?_⟩
    · simp [f1]
    · simp [f1, f5]
    · simp [f1]
    · have := c.2.2.2.1
      simp [p] at this
      simp [f1, this]
    · simp [f1, e]
    · intro x m b o
      rw [f6] at m
      rw [keep_unowned _ x m] at o
      cases o
  · intro i m
    simp [State.MayEnter, f1] at m

/-! ### Abort causes -/

theorem Ends.sendAbort (s : State) (c : AbortCause) : s.Ends (s.sendAbort c) := by
  unfold State.sendAbort
  exact State.Ends.ite _ (Reacts.send _ _).ends

/-- A stored cause. -/
theorem Ends.setCause (s : State) (e : Option EndCause) (k : Option AbortCause)
    (h : s.seq.endCause.isSome = true → e.isSome = true) :
    s.Ends { s with seq := { s.seq with endCause := e, secondary := k, endAtExit := false } } :=
  { State.Winds.of s { s with seq := { s.seq with endCause := e, secondary := k, endAtExit := false } }
      (by simp) (by simp) rfl rfl rfl rfl rfl Iff.rfl (fun _ => .inl rfl) (.refl _ _) (.inl rfl) with
    shot := fun c => ⟨c.1, c.2.1, c.2.2.1, c.2.2.2.1, fun x => h (c.2.2.2.2.1 x), c.2.2.2.2.2⟩
    ahead := fun _ m => m }

theorem Ends.takeEndCause (s : State) (c : AbortCause) : s.Ends (s.takeEndCause c) := by
  refine State.Ends.trans (State.Ends.trans ?_ (Logs.offer _ _ _).ends) (Ends.sendAbort _ c)
  exact Ends.setCause s (some (.abort c)) s.seq.secondary (fun _ => rfl)

theorem Ends.takeSecondary (s : State) (c : AbortCause) : s.Ends (s.takeSecondary c) := by
  have h := Ends.setCause s s.seq.endCause (some (s.seq.secondary.getD c)) id
  unfold State.takeSecondary
  dsimp only
  split
  · exact h
  · exact h.trans (Logs.offer _ _ _).ends

theorem Ends.takeRunningCause (s : State) (c : AbortCause) : s.Ends (s.takeRunningCause c) := by
  unfold State.takeRunningCause
  split
  · exact Ends.takeEndCause s c
  · exact Ends.takeSecondary s c

/-- What the taking of an end cause leaves. -/
theorem takeEndCause_fields (s : State) (c : AbortCause) :
    (s.takeEndCause c).seq = { s.seq with endCause := some (.abort c), endAtExit := false }
    ∧ (s.takeEndCause c).pending = s.pending ∧ (s.takeEndCause c).store = s.store
    ∧ (s.takeEndCause c).edit = s.edit ∧ (s.takeEndCause c).synth = s.synth
    ∧ (s.takeEndCause c).amp = s.amp ∧ (s.takeEndCause c).inputs = s.inputs
    ∧ (s.takeEndCause c).outputs = s.outputs ∧ (s.takeEndCause c).breaker = s.breaker
    ∧ (s.takeEndCause c).assess = s.assess ∧ (s.takeEndCause c).time = s.time
    ∧ (s.takeEndCause c).actions = s.actions ∧ (s.takeEndCause c).tp = s.tp
    ∧ (s.takeEndCause c).guard = s.guard ∧ (s.takeEndCause c).freeUsed = s.freeUsed
    ∧ (s.takeEndCause c).log = s.log.offered (s.makeRecord (s.shotTime s.now) (.abort c false))
    ∧ (s.takeEndCause c).peer = { s.peer with
        sent := if s.seq.peerLinked = true ∧ c ≠ .peerAbort ∧ c ≠ .peerLost ∧ s.peer.link = .up
                then s.peer.sent ++ [.abort c] else s.peer.sent } := by
  unfold State.takeEndCause State.sendAbort
  dsimp only
  split
  next h =>
    simp only [Bool.and_eq_true, decide_eq_true_eq, offer_keeps] at h
    obtain ⟨⟨h1, h2⟩, h3⟩ := h
    simp [h1, h2, h3, State.shotTime, State.makeRecord]
  next h =>
    have k : ¬ (s.seq.peerLinked = true ∧ c ≠ .peerAbort ∧ c ≠ .peerLost ∧ s.peer.link = .up) := by
      rintro ⟨x1, x2, x3, -⟩
      apply h
      simp only [Bool.and_eq_true, decide_eq_true_eq, offer_keeps]
      exact ⟨⟨x1, x2⟩, x3⟩
    simp only [if_neg k]
    simp [State.shotTime, State.makeRecord]

/-- What the taking of a secondary cause leaves, whether or not it is the first. -/
theorem takeSecondary_fields (s : State) (c : AbortCause) :
    (s.takeSecondary c).seq = { s.seq with
      secondary := some (s.seq.secondary.getD c), endAtExit := false }
    ∧ (s.takeSecondary c).pending = s.pending ∧ (s.takeSecondary c).store = s.store
    ∧ (s.takeSecondary c).edit = s.edit ∧ (s.takeSecondary c).synth = s.synth
    ∧ (s.takeSecondary c).amp = s.amp ∧ (s.takeSecondary c).inputs = s.inputs
    ∧ (s.takeSecondary c).outputs = s.outputs ∧ (s.takeSecondary c).breaker = s.breaker
    ∧ (s.takeSecondary c).assess = s.assess ∧ (s.takeSecondary c).time = s.time
    ∧ (s.takeSecondary c).actions = s.actions ∧ (s.takeSecondary c).tp = s.tp
    ∧ (s.takeSecondary c).guard = s.guard ∧ (s.takeSecondary c).peer = s.peer := by
  unfold State.takeSecondary
  dsimp only
  split <;> simp

theorem Ends.abortArmed (s : State) (c : AbortCause) (p : s.seq.phase = .armed) (v : s.seq.visit = none) :
    s.Ends (s.abortArmed c) := by
  obtain ⟨f1, -, -, -, -, -, -, -, -, f10, -, f12, -⟩ := takeEndCause_fields s c
  unfold State.abortArmed
  refine Ends.enterClosing s _ ((Ends.takeEndCause s c).toWinds.trans ?_) ?_ ?_ ?_ ?_ ?_
  · exact State.Winds.of _ _ (by simp) (by simp) rfl rfl rfl rfl rfl Iff.rfl (fun _ => .inl rfl) (.refl _ _)
      (.inl rfl)
  · simp [f1, p]
  · simp [f1, v]
  · intro k
    have := k.2.1
    simp [v] at this
    simp [f10, this]
  · simp [f1]
  · intro k x m
    dsimp only at m
    rw [f12] at m
    cases o : x.owner with
    | none => rfl
    | some b =>
      obtain ⟨w, hw, -⟩ := k.2.2.2.2.2 x m b o
      rw [v] at hw
      cases hw

theorem takeRunningCause_isSome (s : State) (c : AbortCause) :
    (s.takeRunningCause c).seq.endCause.isSome = true := by
  unfold State.takeRunningCause
  split
  · simp [(takeEndCause_fields s c).1]
  next h =>
    rw [(takeSecondary_fields s c).1]
    simp [h]

theorem takeRunningCause_keeps (s : State) (c : AbortCause) :
    (s.takeRunningCause c).seq.visit = s.seq.visit ∧ (s.takeRunningCause c).seq.phase = s.seq.phase
    ∧ (s.takeRunningCause c).assess = s.assess ∧ (s.takeRunningCause c).actions = s.actions
    ∧ (s.takeRunningCause c).seq.softEnd = s.seq.softEnd := by
  unfold State.takeRunningCause
  split
  · simp [takeEndCause_fields s c]
  · obtain ⟨h, -, -, -, -, -, -, -, -, a, -, b, -⟩ := takeSecondary_fields s c
    rw [a, b, h]
    simp

theorem Ends.softAbort (s : State) (c : AbortCause) (v : s.seq.phase = .armed → s.seq.visit = none) :
    s.Ends (s.softAbort c) := by
  unfold State.softAbort
  split
  next p => exact Ends.abortArmed s c p (v p)
  next p =>
    refine State.Ends.trans (Ends.takeRunningCause s c) ?_
    refine { State.Winds.of _ _ (by simp) (by simp) rfl rfl rfl rfl rfl Iff.rfl (fun _ => .inl rfl) (.refl _ _)
      (.inl rfl) with shot := ?_, ahead := fun _ m => m }
    intro k
    exact ⟨k.1, k.2.1, k.2.2.1, k.2.2.2.1, fun _ => takeRunningCause_isSome s c, k.2.2.2.2.2⟩
  next p => exact Ends.takeSecondary s c
  next => exact .refl s
  next => exact .refl s

theorem Ends.hardAbort (s : State) (c : AbortCause)
    (v : (s.seq.phase = .armed ∨ s.seq.phase = .rampingDown) → s.seq.visit = none) :
    s.Ends (s.hardAbort c) := by
  unfold State.hardAbort
  split
  next p => exact Ends.abortArmed s c p (v (.inl p))
  next p =>
    obtain ⟨r1, r2, r3, r4, -⟩ := takeRunningCause_keeps s c
    obtain ⟨-, -, -, -, -, -, -, -, -, -, -, -, g13, g14, g15, -⟩ := endVisit_fields (s.takeRunningCause c) true
    refine Ends.enterClosing s _ ((Ends.takeRunningCause s c).toWinds.trans (Winds.endVisit _ _)) ?_ g13 ?_ ?_ ?_
    · rw [g14, r2, p]
      decide
    · intro k
      cases hv : s.seq.visit with
      | none =>
        rw [endVisit_none _ _ (r1.trans hv), r3]
        have := k.2.1
        simp [hv] at this
        exact this
      | some w => exact (endVisit_seq _ true w (r1.trans hv)).2.1
    · rw [g15]
      exact takeRunningCause_isSome s c
    · intro k x m
      cases hv : s.seq.visit with
      | none =>
        rw [endVisit_none _ _ (r1.trans hv), r4] at m
        cases o : x.owner with
        | none => rfl
        | some b =>
          obtain ⟨w, hw, -⟩ := k.2.2.2.2.2 x m b o
          rw [hv] at hw
          cases hw
      | some w =>
        rw [(endVisit_seq _ true w (r1.trans hv)).2.2] at m
        exact keep_unowned _ x m
  next p =>
    obtain ⟨h, -, -, -, -, -, -, -, -, a, -, b, -⟩ := takeSecondary_fields s c
    have nv := v (.inr p)
    refine { State.Winds.trans (Ends.takeSecondary s c).toWinds (Winds.enterClosing _ ?_) with
      shot := ?_, ahead := ?_ }
    · rw [h]
      simp [p]
    · intro k
      have ec : s.seq.endCause.isSome = true := k.2.2.2.2.1 (.inr (.inl p))
      refine (Ends.enterClosing s _ (Ends.takeSecondary s c).toWinds ?_ ?_ ?_ ?_ ?_).shot k
      · rw [h]
        simp [p]
      · rw [h]
        exact nv
      · intro k
        rw [a]
        have := k.2.1
        simp [nv] at this
        exact this
      · rw [h]
        exact ec
      · intro k x m
        rw [b] at m
        cases o : x.owner with
        | none => rfl
        | some b =>
          obtain ⟨w, hw, -⟩ := k.2.2.2.2.2 x m b o
          rw [nv] at hw
          cases hw
    · intro i m
      have nv' : (s.takeSecondary c).seq.visit = none := by
        rw [h]
        exact nv
      simp [State.MayEnter, (enterClosing_fields _ nv').1] at m
  next => exact .refl s
  next => exact .refl s

/-- No visit stands in ARMED and RAMPING_DOWN: what an abort there relies on. -/
theorem State.ShotConsistent.noVisit {s : State} (h : s.ShotConsistent)
    (p : s.seq.phase = .armed ∨ s.seq.phase = .rampingDown) : s.seq.visit = none := by
  have := h.1
  rcases p with p | p <;> simp [p] at this <;> exact this

theorem Ends.guardCause (s : State) (c : AbortCause)
    (v : (s.seq.phase = .armed ∨ s.seq.phase = .rampingDown) → s.seq.visit = none) :
    s.Ends (s.guardCause c) := by
  have body : s.Ends ((s.raiseBoth .guardAbort).abortWith c) := by
    refine (Logs.raiseBoth s .guardAbort).ends.trans ?_
    unfold State.abortWith
    split
    · exact Ends.hardAbort _ _ (by simpa using v)
    · exact Ends.softAbort _ _ (fun p => by simpa using v (.inl (by simpa using p)))
  unfold State.guardCause
  split
  · exact body
  · exact body
  · exact body
  · exact .refl s
  · exact .refl s

end Sys2Proof.Machine
end

