-- ==== Sys2Proof/Tests/Slice0.lean ====
section
/-! SUPPORT. The model's own tests: an ill-formed command for each check of WellFormed, the manual's worked
numbers, and for each statement a state and operands that meet its hypotheses. -/

namespace Sys2Proof.Tests

open Sys2Proof Sys2Proof.Machine

/-! ### Helpers -/

/-- The default record of Table 1-4 stands in slot 0. -/
def programmed : State :=
  { State.reset with store := { State.reset.store with
      slots := State.reset.store.slots.set 0 { active := some .default, staged := none, revision := 1 } } }

/-- The programmed part in a phase, shot 1 armed by the panel for state 0. -/
def inPhase (ph : Phase) : State :=
  { programmed with
    seq := { Sequencer.powerOn with
      phase := ph, shotNumber := 1, armingPort := some .panel, firstState := some 0 }
    log := { ReportLog.empty with reservation := 1 } }

/-- RUNNING in state 0 with a record, entered at local time 0. -/
def runningIn (r : StateRecord) : State :=
  { inPhase .running with
    seq := { (inPhase .running).seq with
      firstEntryAt := some 0, startTime := some 0, visit := some (Visit.opened 0 0 0 r) }
    assess := some { state := 0, entry := 0, captures := [] } }

/-- The default record with a duration of one unit that leads to a next state. -/
def timed (next : Next) : StateRecord := { StateRecord.default with duration := 1, timeoutNext := next }

/-- A state at a local time and a counter value. -/
def clock (local_ counter : Nat) (s : State) : State :=
  { s with time := { s.time with localTime := local_, counter := counter } }

/-- An instant with the same number on both scales. -/
def moment (t : Nat) : Moment := { at_ := t, abs := t }

/-- A command put in the queue. -/
def queued (c : Instr) (s : State) : State := { s with pending := [c] }

/-- One action on the list, due now. -/
def withAction (w : Work) (owner : Option Nat) (s : State) : State :=
  { s with actions := { entries := [{ due := s.now, insertion := 0, work := w, owner := owner }], next := 1 } }

/-- The channel entries, conditions, ramp, assessments and actions of a written default record. -/
def rawChannel : RawChannel := { amplitude := 0, phase := 0, frequency := 50000, offsetTau := 0, link := 0 }
def rawCondition : RawCondition := { enable := 0, value := 0, hold := 0, next := 255 }
def rawRamp : RawRamp := { target := 0, quantity := 0, start := 0, step := 1, limit := 0, dwell := 1, stopMask := 1 }
def rawAssessment : RawAssessment := { mask := 1, expectation := 0, nominal := 0, tolAbs := 0, permille := 0 }
def rawAction : RawAction := { output := 1, level := 0, delay := 0, once := false }

/-- A written default record. -/
def rawRecord : RawRecord :=
  { duration := 0, timeoutNext := 255, tpBlocked := false, inceptionPresent := false, rampPresent := false
    channels := { va := rawChannel, vb := rawChannel, vc := rawChannel, vx := rawChannel, ia := rawChannel
                  ib := rawChannel, ic := rawChannel }
    inceptionRef := 0, inceptionAngle := 0
    conditionCount := 0, conditions := List.replicate 4 rawCondition, ramp := rawRamp
    assessmentCount := 0, assessments := List.replicate 4 rawAssessment
    actionCount := 0, actions := List.replicate 4 rawAction }

/-! ### WellFormed refuses -/

theorem test_fitsBytes_refuses : fitsBytes 1 256 = false ∧ fitsBytes 1 255 = true := by decide

theorem test_fitsSigned_refuses : fitsSigned 2 32768 = false ∧ fitsSigned 2 (-32769) = false
    ∧ fitsSigned 2 (-32768) = true := by decide

theorem test_fitsAbsTime_refuses : fitsAbsTime (4294967296 * 1000000 + 16777216) = false := by decide

theorem test_wellFormed_refuses_channel :
    (Instr.configChannel .panel 256 0 0 0).wellFormed = false
    ∧ (Instr.writeState .panel 0 0 { rawRecord with channels := { rawRecord.channels with
        vx := { rawChannel with amplitude := 16777216 } } }).wellFormed = false
    ∧ ({ rawChannel with phase := 32768 } : RawChannel).wellFormed = false
    ∧ ({ rawChannel with frequency := 16777216 } : RawChannel).wellFormed = false
    ∧ ({ rawChannel with offsetTau := 65536 } : RawChannel).wellFormed = false
    ∧ ({ rawChannel with link := 256 } : RawChannel).wellFormed = false := by decide

theorem test_wellFormed_refuses_lists :
    ({ rawCondition with hold := 16777216 } : RawCondition).wellFormed = false
    ∧ ({ rawCondition with next := 256 } : RawCondition).wellFormed = false
    ∧ ({ rawRamp with target := 256 } : RawRamp).wellFormed = false
    ∧ ({ rawRamp with start := 2147483648 } : RawRamp).wellFormed = false
    ∧ ({ rawRamp with dwell := 16777216 } : RawRamp).wellFormed = false
    ∧ ({ rawAssessment with expectation := 256 } : RawAssessment).wellFormed = false
    ∧ ({ rawAssessment with permille := 65536 } : RawAssessment).wellFormed = false
    ∧ ({ rawAction with output := 256 } : RawAction).wellFormed = false
    ∧ ({ rawAction with delay := 16777216 } : RawAction).wellFormed = false
    ∧ ({ rawRecord with conditions := [] } : RawRecord).wellFormed = false
    ∧ ({ rawRecord with assessments := [] } : RawRecord).wellFormed = false
    ∧ ({ rawRecord with actions := [] } : RawRecord).wellFormed = false
    ∧ ({ rawRecord with duration := 4294967296 } : RawRecord).wellFormed = false
    ∧ ({ rawRecord with inceptionAngle := -32769 } : RawRecord).wellFormed = false
    ∧ rawRecord.wellFormed = true := by decide

theorem test_wellFormed_refuses_commands :
    (Instr.getStatus .panel 256).wellFormed = false
    ∧ (Instr.configInput .panel 1 0 65536 0).wellFormed = false
    ∧ (Instr.configOutput .panel 1 256).wellFormed = false
    ∧ (Instr.configBreaker .panel 0 65536 0).wellFormed = false
    ∧ (Instr.configTeleprotection .panel 0 65536).wellFormed = false
    ∧ (Instr.writeState .panel 256 0 rawRecord).wellFormed = false
    ∧ (Instr.writeBalanced .panel 0 0 0 0 0 32768 0).wellFormed = false
    ∧ (Instr.readState .panel 0 256).wellFormed = false
    ∧ (Instr.eraseState .panel 256).wellFormed = false
    ∧ (Instr.setAuthority .panel 256).wellFormed = false
    ∧ (Instr.arm .panel 0 0 0 0 0 0 65536 0).wellFormed = false
    ∧ (Instr.abort .panel 256).wellFormed = false
    ∧ (Instr.adjust .panel 0 0 0 2147483648).wellFormed = false
    ∧ (Instr.setOutput .panel 256 0).wellFormed = false
    ∧ (Instr.setTime .panel 4294967296).wellFormed = false
    ∧ (Instr.drainEnable .panel 256).wellFormed = false
    ∧ (Instr.readPage .panel 0 256).wellFormed = false
    ∧ (Instr.releasePage .panel 256).wellFormed = false
    ∧ (Instr.notifyEnable .panel 256 0).wellFormed = false := by decide

theorem test_wellFormed_refuses_events :
    (Instr.startPropose (4294967296 * 1000000 + 16777216)).wellFormed = false
    ∧ (Instr.startAccept (4294967296 * 1000000 + 16777216)).wellFormed = false
    ∧ (Instr.startReject (4294967296 * 1000000 + 16777216) .tooLate).wellFormed = false
    ∧ (Instr.eventFrame 0 .general true 0 true false).wellFormed = false
    ∧ (Instr.eventFrame 13 .general true 0 true false).wellFormed = false
    ∧ (Instr.stateFrame 32 .start 0).wellFormed = false := by decide

/-! ### The manual's worked numbers -/

/-- Table 3-2 and the examples of R50. -/
theorem test_constants :
    [50000, 60000, 10000, 1000000].map incrementOf = [21474836#32, 25769804#32, 4294967#32, 429496730#32]
    ∧ [0, -9000, 9000].map angleCode = [0#32, 3221225472#32, 1073741824#32]
    ∧ peakCode 12500 12500 32768 = 32767 ∧ peakCode 12500 12500 36045 = 36044
    ∧ peakCode 1000 12500 32768 = 2621 ∧ peakCode 10000 12500 32768 = 26214
    ∧ peakCode 10000 50000 32768 = 6553 := by decide +kernel

/-- Table 3-3. -/
theorem test_sine :
    [0, 1, 512, 1024, 2048, 3072, 4075].map sineEntry = [0, 50, 23170, 32767, 0, -32767, -1055] := by
  decide +kernel

/-- Table 3-5. -/
theorem test_fault_entry :
    acSample 2621 4273492460#32 = -84 ∧ acSample 26214 3221225472#32 = -26213
    ∧ acSample 26214 3242700308#32 = -26201 ∧ decayFactor 400 = 65372 ∧ decayOffset 26129 65372 = 26063 := by
  decide +kernel

/-- The first rows of Table 4-2: a bounce, then six samples at the new level with debounce 5. -/
theorem test_debounce :
    let i : Input := { Input.powerOn with debounce := 5 }
    let at_ (t : Nat) := moment (1000000 + t)
    let bounced := (((i.sample false (at_ 0)).sample true (at_ 10)).sample true (at_ 20)).sample false (at_ 30)
    let run := [40, 50, 60, 70, 80].foldl (fun j t => j.sample true (at_ t)) bounced
    bounced = i ∧ run.count = 5 ∧ run.ready = false ∧ (run.sample true (at_ 90)).ready = true
      ∧ (run.sample true (at_ 90)).candidate = some (at_ 40) := by decide

/-- The CRC of the nine digits (R143). -/
theorem test_crc : crc16 [0x31, 0x32, 0x33, 0x34, 0x35, 0x36, 0x37, 0x38, 0x39] = 0x29B1#16 := by decide +kernel

/-- Edge 1 of Table 8-3: FREE, counter 300,000, a loaded value. -/
theorem test_first_edge :
    let t := (({ TimeBase.powerOn with
      localTime := 4300000, counter := 300000, seconds := 4, loaded := some 812345 } : TimeBase).edge false)
    t.2 = .locking ∧ t.1.counter = 0 ∧ t.1.seconds = 812345 ∧ t.1.loaded = none ∧ t.1.good = 0 := by decide

/-- Edge 5 of Table 8-3: LOCKED, two microseconds late. -/
theorem test_fifth_edge :
    let t := (({ TimeBase.powerOn with
      lock := .locked, localTime := 8300002, counter := 2, seconds := 812349, good := 3 } : TimeBase).edge false)
    t.2 = .locked ∧ t.1.counter = 2 ∧ t.1.seconds = 812349 ∧ t.1.slew = .insert := by decide

/-! ### States that meet the hypotheses of the statements -/

theorem test_meets_StepRunsTheFrontCommand : ∃ (c : Instr) (rest : List Instr) (s : State),
    s.pending = c :: rest := ⟨.keepalive, [], queued .keepalive .reset, rfl⟩

/-- Neither a boundary nor a sample nor a send timer is due any more at this instant. -/
def settled (s : State) : State :=
  { s with
    time := { s.time with boundaryPassed := true, sampleDone := true, inputsDone := true }
    peer := { s.peer with sendAt := s.now + 10000 } }

/-- CLOSING at the end of its linger, with the flush timer of both channels expired. -/
def lingering : State :=
  let d : Drain := { Drain.powerOn with flush := some 0 }
  settled (clock 50000 50000 { inPhase .closing with
    seq := { (inPhase .closing).seq with closingAt := some 0, endCause := some .completed }
    drains := { sequence := d, panel := d } })

/-- ARMED with fifteen records copied and the flush timer of the panel expired, and BI1 one sample short of its
acceptance: the sixteenth record comes two events later. -/
def filling : State :=
  let records := List.replicate 15 (State.reset.makeRecord 0 (.tpEvent .late))
  clock 10 10 { inPhase .armed with
    log := { ReportLog.empty with records := records, reservation := 1 }
    drains := State.reset.drains.set .panel
      { Drain.powerOn with x := { Page.empty with records := records }, copyPos := some 15, flush := some 0 }
    peer := { State.reset.peer with sendAt := 10000 }
    inputs := { State.reset.inputs with
      pins := 1, sampled := true
      inputs := State.reset.inputs.inputs.set 0
        { Input.powerOn with candidate := some (moment 0), count := 20 } } }

/-- In `filling` only the sample is due; the acceptance that it makes due hands the page over. The expiry waits
for it (R122). -/
theorem test_flush_waits_for_a_later_event :
    filling.otherEvents = [.inputSample 1] ∧ filling.flushDue .panel = true
    ∧ filling.restHandsOver .panel 1 = false ∧ filling.restHandsOver .panel 2 = true
    ∧ filling.flushPort = none := by decide +kernel

/-- The slew point reached with a slew pending, and nothing else due. -/
def slewing : State :=
  settled { State.reset with time := { State.reset.time with counter := 500004, lock := .locked, slew := .drop } }

theorem test_meets_IdleStepRunsAnEventOrTicks :
    (∃ s : State, s.pending = [] ∧ s.dueEvents ≠ [])
    ∧ (slewing.pending = [] ∧ slewing.dueEvents = [] ∧ slewing.time.slewDue = true)
    ∧ (∃ s : State, s.pending = [] ∧ s.dueEvents = [] ∧ s.time.slewDue = false ∧ s.time.InRange)
    ∧ (lingering.pending = [] ∧ lingering.flushDue .panel = true ∧ ∃ u, EventsOfTheInstant lingering 1 u
      ∧ (u.drains.get .panel).count ≠ (lingering.drains.get .panel).count)
    ∧ ∃ m u, filling.pending = [] ∧ EventsOfTheInstant filling 1 m ∧ EventsOfTheInstant m 1 u
      ∧ (u.drains.get .panel).count ≠ (m.drains.get .panel).count := by
  refine ⟨⟨State.reset, by decide +kernel⟩, by decide +kernel,
    ⟨clock 1 1 { State.reset with peer := { State.reset.peer with sendAt := 10000 } },
      by decide +kernel, by decide +kernel, by decide +kernel, by decide, by decide, by decide, by decide,
      nofun, nofun, by decide, by decide⟩,
    ⟨rfl, by decide +kernel, _, ⟨_, .closingLingerEnd, rfl, by decide +kernel, by decide +kernel, rfl⟩,
      by decide +kernel⟩,
    _, _, rfl, ⟨_, .inputSample 1, rfl, by decide +kernel, by decide +kernel, rfl⟩,
    ⟨_, .acceptedChange 0, rfl, by decide +kernel, by decide +kernel, rfl⟩, by decide +kernel⟩

/-- The reset state with a KEEPALIVE waiting, whose step answers a next state, meets every invariant. -/
theorem test_meets_invariants :
    let s := queued .keepalive State.reset
    (∃ t, step s = .next t) ∧ s.time.InRange ∧ s.actions.WithinGroups ∧ s.actions.Ordered ∧ s.LogReserved
      ∧ s.NothingForgotten ∧ s.CodesInRange ∧ s.store.WithinRanges ∧ s.DrainsConsistent ∧ s.ShotConsistent
      ∧ s.PolesConsistent ∧ s.actions.OwnedByKind ∧ s.store.WithinCounts := by
  refine ⟨⟨_, rfl⟩, ⟨by decide, by decide, by decide, by decide, nofun, nofun, by decide, by decide⟩,
    fun g => by cases g <;> decide, ⟨.nil, nofun⟩, ⟨by decide, rfl⟩, ?_, ?_, ?_, ?_, ?_, ?_, nofun, ?_⟩
  · exact fun _ _ => by decide +kernel
  · exact fun c => by cases c <;> exact ⟨⟨by decide, by decide⟩, by decide, by decide⟩
  · have empty : ∀ i : Fin 32, State.reset.store.slots[i] = Slot.empty := by decide +kernel
    exact fun i => ⟨fun r h => absurd h (by simp [queued, empty, Slot.empty]),
      fun p r h => absurd h (by simp [queued, empty, Slot.empty])⟩
  · have empty : Drain.powerOn.Consistent ReportLog.empty :=
      ⟨Drain.enableAt_holds Drain.powerOn ReportLog.empty, fun w => absurd rfl w⟩
    exact ⟨empty, empty⟩
  · exact ⟨by decide, by decide, by decide, by decide, by decide, nofun⟩
  · exact fun q => by cases q <;> exact ⟨rfl, nofun⟩
  · have empty : ∀ i : Fin 32, State.reset.store.slots[i] = Slot.empty := by decide +kernel
    exact fun i => ⟨fun r h => absurd h (by simp [queued, empty, Slot.empty]),
      fun p r h => absurd h (by simp [queued, empty, Slot.empty])⟩

/-- An armed shot whose one state is defined and leads nowhere. -/
theorem test_meets_StepNeverFaults : (inPhase .armed).AheadDefined ∧ State.reset.seq.phase = .idle := by
  refine ⟨fun i j m l => ?_, rfl⟩
  have hi : i = 0 := by
    have : some (0 : Fin 32) = some i := m
    simpa using this.symm
  subst hi
  cases l with
  | here => decide +kernel
  | step _ k _ h _ =>
      have none : targetsOf (inPhase .armed).store.slots 0 = [] := by decide +kernel
      rw [none] at h
      exact absurd h (List.not_mem_nil)

theorem test_meets_FramesAreTakenAndAnswered :
    State.reset.guard.expiry = none ∧ (inPhase .running).seq.armingPort ≠ some .sequence
    ∧ ∃ (s : State) (e : Nat), s.guard.expiry = some e ∧ s.seq.armingPort = some .panel :=
  ⟨rfl, by decide, { inPhase .running with guard := { State.reset.guard with expiry := some 5 } }, 5, rfl, rfl⟩

theorem test_meets_CommandsRefusedByAuthorityAndPhase :
    (∃ (c : Instr) (p : Port) (s : State), c.gatedSender = some p ∧ s.excluded p = true)
    ∧ ∃ (c : Instr) (p : Port) (s : State),
      c.idleSender = some p ∧ s.excluded p = false ∧ s.seq.phase ≠ .idle :=
  ⟨⟨.start .sequence, .sequence, { State.reset with edit := { State.reset.edit with authority := .local_ } },
    rfl, rfl⟩, .eraseState .panel 0, .panel, inPhase .running, rfl, rfl, by decide⟩

/-- The least and the greatest section, selector and mask on each side of their limits. -/
theorem test_meets_notify_and_status :
    7 < 8 ∧ 7 ≤ 7 ∧ 1 < 2 ∧ 1 ≤ 1 ∧ 1024 ≤ (1024#16).toNat ∧ (1023#16).toNat < 1024
    ∧ (∀ k, k < 10 → (0x3FF#10).getLsbD k
        = ((State.reset.ports.get .panel).enables.getLsbD k || (1023#16).getLsbD k))
    ∧ (∀ k, k < 10 → (0#10).getLsbD k
        = ((State.reset.ports.get .panel).enables.getLsbD k && !(1023#16).getLsbD k))
    ∧ NotifyCause.authorityChanged.bit.setWidth 16 &&& 1023#16 = NotifyCause.authorityChanged.bit.setWidth 16
    ∧ ∃ s : State, NotifyCause.pageReady.bit &&& (s.ports.get .panel).enables = NotifyCause.pageReady.bit :=
  ⟨by decide, by decide, by decide, by decide, by decide, by decide, by decide, by decide, by decide,
   { State.reset with ports := State.reset.ports.set .panel { PortInterface.powerOn with enables := 0x3FF#10 } },
   by decide⟩

/-- ERASE_STATE and READ_STATE: excluded or not, in IDLE or not, a slot empty and one that is not. -/
theorem test_meets_EraseStateEmptiesTheSlot :
    (∃ s : State, s.excluded .panel = true)
    ∧ (inPhase .armed).excluded .panel = false ∧ (inPhase .armed).seq.phase ≠ .idle ∧ 32 ≤ 32
    ∧ programmed.seq.phase = .idle ∧ programmed.store.slots[1].active = none
    ∧ programmed.store.slots[1].staged = none ∧ programmed.store.slots[0].active ≠ none :=
  ⟨⟨{ State.reset with edit := { State.reset.edit with authority := .remote } }, rfl⟩,
   by decide +kernel⟩

/-- The programmed part with a pending copy in slot 0, tagged by a port. -/
def staged (p : Port) (s : State) : State :=
  { s with store := { s.store with
      slots := s.store.slots.set 0 { active := some .default, staged := some (p, .default), revision := 1 } } }

/-- WRITE_STATE: the first value out of range of each field by its code, with the values before it in range; the
position is that of the channel or of the entry, and fields of an absent part are not looked at. -/
theorem test_first_bad_fields :
    let named := fun r => firstFailure (recordChecks State.reset.store.config 31 r)
    let channel := fun e => named { rawRecord with channels := { rawRecord.channels with ia := e } }
    let ramped := fun w => named { rawRecord with rampPresent := true, ramp := w }
    let assessed := fun a => named { rawRecord with assessmentCount := 2, assessments := [rawAssessment, a] }
    let acted := fun a => named { rawRecord with actionCount := 2, actions := [rawAction, a] }
    let good := { rawRamp with step := 12500, target := 8 }
    [ firstFailure (recordChecks State.reset.store.config 32 rawRecord),
      named { rawRecord with duration := 36000001 }, named { rawRecord with timeoutNext := 32 },
      channel { rawChannel with amplitude := 12501 }, channel { rawChannel with phase := 18000 },
      channel { rawChannel with frequency := 9999 }, channel { rawChannel with offsetTau := 5001 },
      channel { rawChannel with link := 5 },
      named { rawRecord with inceptionPresent := true, inceptionRef := 7 },
      named { rawRecord with inceptionPresent := true, inceptionAngle := -18001 },
      named { rawRecord with conditionCount := 5 },
      named { rawRecord with conditionCount := 2, conditions := [rawCondition, { rawCondition with hold := 100001 }] },
      named { rawRecord with conditionCount := 2, conditions := [rawCondition, { rawCondition with next := 254 }] },
      ramped { good with target := 9 }, ramped { good with quantity := 3 }, ramped { good with start := -1 },
      ramped { good with step := 12501 }, ramped { good with limit := 12501 }, ramped { good with dwell := 0 },
      ramped { good with limit := 12500, dwell := 100000, stopMask := 0 },
      named { rawRecord with assessmentCount := 5 },
      assessed { rawAssessment with mask := 0 }, assessed { rawAssessment with expectation := 2 },
      assessed { rawAssessment with nominal := 3600000001 }, assessed { rawAssessment with tolAbs := 3600000001 },
      assessed { rawAssessment with permille := 1001 },
      named { rawRecord with actionCount := 5 },
      acted { rawAction with output := 5 }, acted { rawAction with level := 2 }, acted { rawAction with delay := 100001 } ]
    = [ (1, 0), (2, 0), (3, 0), (4, 5), (5, 5), (6, 5), (7, 5), (8, 5), (9, 0), (10, 0), (11, 0), (12, 2), (13, 2),
        (14, 0), (15, 0), (16, 0), (17, 0), (18, 0), (19, 0), (20, 0), (21, 0), (22, 2), (23, 2), (24, 2), (25, 2),
        (26, 2), (27, 0), (28, 2), (29, 2), (30, 2) ].map some
    ∧ named { rawRecord with ramp := { good with target := 9 } } = none := by decide +kernel

/-- WRITE_STATE: a field out of range with none before it, and a record that passes; each refusal, each effect. -/
theorem test_meets_WriteStateAppliesOrStages :
    (FieldBad State.reset.store.config 32 rawRecord 1 0
      ∧ ∀ c x, FieldBefore c x 1 0 → ¬ FieldBad State.reset.store.config 32 rawRecord c x)
    ∧ FieldBad State.reset.store.config 0 { rawRecord with duration := 36000001 } 2 0
    ∧ (∀ code pos, ¬ FieldBad State.reset.store.config 31 rawRecord code pos)
    ∧ (0 : Nat) ≠ programmed.store.slots[0].revision ∧ 1 = programmed.store.slots[0].revision
    ∧ (staged .panel programmed).store.slots[0].otherStaged .sequence = true
    ∧ (inPhase .armed).store.slots[0].otherStaged .panel = false
    ∧ (∃ d, (inPhase .armed).stagedWalk .panel 0 (timed (.state 5)) = some d)
    ∧ (inPhase .armed).stagedWalk .panel 0 .default = none
    ∧ programmed.edit.hold.get .panel = false ∧ programmed.store.slots[0].staged = none
    ∧ (staged .panel programmed).store.slots[0].otherStaged .panel = false
    ∧ (staged .panel programmed).store.slots[0].staged ≠ none := by
  refine ⟨⟨.inl ⟨rfl, rfl, by decide⟩, fun c x before => ?_⟩, .inr (.inl ⟨rfl, rfl, by decide⟩), fun code pos => ?_,
    by decide, by decide, by decide, by decide, ⟨.emptyTarget 5, by decide +kernel⟩, by decide +kernel, by decide,
    by decide, by decide, by decide +kernel⟩
  · have zero : c = 0 := by
      simp only [FieldBefore, SamePart] at before
      omega
    subst zero
    rintro (⟨h, -⟩ | ⟨h, -⟩ | ⟨h, -⟩ | ⟨ch, -, h⟩ | ⟨h, -⟩ | ⟨h, -⟩ | ⟨_, lo, hi, -⟩ | ⟨h, -⟩ | ⟨h, -⟩ | ⟨_, lo, hi, -⟩
      | ⟨h, -⟩ | ⟨_, lo, hi, -⟩)
    all_goals first | exact absurd h (by decide) | exact h | exact absurd (lo.trans hi) (by decide)
  · have channel : ∀ ch, ¬ ChannelFieldBad State.reset.store.config ch (rawRecord.channels.get ch) code := by
      intro ch bad
      unfold ChannelFieldBad at bad
      cases ch <;> split at bad <;> revert bad <;> decide
    rintro (⟨-, -, h⟩ | ⟨-, -, h⟩ | ⟨-, -, h⟩ | ⟨ch, -, h⟩ | ⟨h, -⟩ | ⟨-, -, h⟩ | ⟨_, lo, hi, -⟩ | ⟨h, -⟩ | ⟨-, -, h⟩
      | ⟨_, lo, hi, -⟩ | ⟨-, -, h⟩ | ⟨_, lo, hi, -⟩)
    all_goals first
      | exact absurd h (by decide) | exact absurd rfl h.2 | exact channel ch h | exact absurd (lo.trans hi) (by decide)

/-- A record that leads to two states, and one with an action on BO1. -/
def leading (a b : Fin 32) : StateRecord :=
  { StateRecord.default with conditions := [⟨0, 0, 0, .state a⟩, ⟨0, 0, 0, .state b⟩] }
def acting : StateRecord := { StateRecord.default with actions := [⟨0, true, 0, false⟩] }

/-- State 0 leads to states 2 and 1; state 2 leads to 0 and 2 and has a pending copy that acts on BO1; state 1 is
empty. -/
def branching : State :=
  { State.reset with store := { State.reset.store with
      slots := (State.reset.store.slots.set 0 { active := some (leading 2 1), staged := none, revision := 1 }).set 2
        { active := some (leading 0 2), staged := some (.panel, acting), revision := 1 } } }

/-- The walk takes state 2 before state 1: the action on BO1 of its pending copy is named, and not the empty
state; with BO1 STATE_DRIVEN the empty state is. -/
theorem test_walk :
    BreadthFirst branching.store.slots [0] [0, 2, 1]
    ∧ StateFails branching.store.slots branching.outputs 2 (.badAction 2 true 1)
    ∧ StateFails branching.store.slots branching.outputs 1 (.emptyTarget 1)
    ∧ StateSound branching.store.slots branching.outputs 0
    ∧ branching.armWalk 0 = some (.badAction 2 true 1)
    ∧ (({ branching with outputs := branching.outputs.set 0 ⟨.stateDriven, false⟩ } : State).armWalk 0)
      = some (.emptyTarget 1) := by
  have here : ∀ a b, (b ∈ TargetsOfSlot branching.store.slots a) →
      Relation.ReflTransGen (fun a b => b ∈ TargetsOfSlot branching.store.slots a) a b :=
    fun _ _ h => .single h
  have bad : FirstBadAction branching.outputs acting 1 := ⟨[], ⟨0, true, 0, false⟩, [], rfl, rfl, by decide, nofun⟩
  refine ⟨⟨by decide +kernel, fun j m => ⟨0, List.mem_singleton.mpr rfl, ?_⟩⟩,
    .inr ⟨leading 0 2, by decide +kernel, .inr ⟨nofun, (.panel, acting), 1, by decide +kernel, bad, rfl⟩⟩,
    .inl ⟨by decide +kernel, rfl⟩, ⟨⟨leading 2 1, by decide +kernel, nofun⟩, fun x h => ?_⟩, by decide +kernel,
    by decide +kernel⟩
  · have : j = 0 ∨ j = 2 ∨ j = 1 := by simpa using m
    rcases this with rfl | rfl | rfl
    · exact .refl
    · exact here _ _ (by decide +kernel)
    · exact here _ _ (by decide +kernel)
  · have none : branching.store.slots[(0 : Fin 32)].staged = none := by decide +kernel
    exact absurd (none.symm.trans h) nofun

/-- WRITE_BALANCED on the default record, on the active copy, and on the writer's pending copy; each value out of
its range. -/
theorem test_meets_WriteBalancedWritesOneGroup :
    (∀ c : Channel, c.group = some .v → 300000 ≤ (State.reset.store.config.get c).range)
    ∧ (∀ c : Channel, c.group = some .i → 12500 ≤ (State.reset.store.config.get c).range)
    ∧ programmed.store.slots[0].ownStaged .panel = none
    ∧ (programmed.store.slots[0].active.getD .default = .default)
    ∧ (staged .panel programmed).store.slots[0].staged = some (.panel, .default)
    ∧ 10000 ≤ 10000 ∧ 1000000 ≤ 1000000 ∧ (-18000 : Int) ≤ -18000 ∧ (17999 : Int) ≤ 17999
    ∧ 32 ≤ 32 ∧ 31 < 32 ∧ 1 < 2 ∧ PhaseGroup.ofCode 1 = some .i ∧ (State.reset.store.config.get .ia).range < 12501
    ∧ (∀ b : Channel, b.group = some .i → b.position < Channel.ia.position →
        12501 ≤ (State.reset.store.config.get b).range)
    ∧ 9999 < 10000 ∧ (17999 : Int) < 18000 := by
  refine ⟨fun c => by cases c <;> decide, fun c => by cases c <;> decide, by decide, by decide +kernel,
    by decide +kernel, by decide, by decide, by decide, by decide, by decide, by decide, by decide, rfl, by decide,
    fun b => by cases b <;> decide, by decide, by decide⟩

/-- HOLD, RELEASE and SET_AUTHORITY: who holds, who may set, and what a port has pending. -/
theorem test_meets_EditControlFollowsItsCommands :
    State.reset.excluded .panel = false ∧ State.reset.edit.hold.get .panel = false
    ∧ (∃ s : State, s.edit.hold.get .panel = true ∧ s.edit.hold.get .sequence = true)
    ∧ (∃ s : State, s.edit.hold.get .panel = true ∧ s.seq.phase ≠ .idle)
    ∧ (∃ s : State, s.edit.hold.get .panel = true ∧ s.seq.phase = .idle ∧ s.edit.hold.get .sequence = false
        ∧ s.store.anyStaged = true)
    ∧ 2 < 3 ∧ Authority.ofCode 2 = some .remote ∧ Authority.excludes .local_ = some .sequence
    ∧ Authority.excludes .shared = none ∧ Authority.remote ≠ State.reset.edit.authority
    ∧ (staged .panel programmed).store.slots[0].staged = some (Port.sequence.other, .default) :=
  ⟨rfl, rfl,
   ⟨{ State.reset with edit := { State.reset.edit with hold := { sequence := true, panel := true } } }, rfl, rfl⟩,
   ⟨{ inPhase .armed with edit := { State.reset.edit with hold := { sequence := false, panel := true } } },
     rfl, by decide⟩,
   ⟨{ staged .panel programmed with edit :=
       { State.reset.edit with hold := { sequence := false, panel := true } } },
     rfl, rfl, rfl, by decide +kernel⟩,
   by decide, rfl, rfl, rfl, by decide, by decide +kernel⟩

/-- A record with an amplitude on VA above the lower of the two voltage ranges, in slot 0. -/
def wide : State :=
  let r := { StateRecord.default with channels := { StateRecord.default.channels with
    va := { ChannelEntry.default with amplitude := 150001 } } }
  { programmed with store := { programmed.store with
      slots := programmed.store.slots.set 0 { active := some r, staged := none, revision := 1 } } }

/-- CONFIG_CHANNEL: a range and a link of the wrong kind, a lowered range that conflicts, one that does
not. -/
theorem test_meets_ConfigChannelReplacesOneChannel :
    Channel.ofCode 0 = some .va ∧ ¬ RangeOfKind .va 12500 ∧ RangeOfKind .va 150000
    ∧ RangeOfKind .ia 50000 ∧ 3 < 4 ∧ (Channel.va.isVoltage = true ∧ 0 ≠ 3)
    ∧ poleLinkOfCode 3 = some none ∧ 150000 < (wide.store.config.get .va).range
    ∧ (∀ j : Fin 32, j < 0 → wide.store.slots[j].exceeds .va 150000 = (false, false))
    ∧ wide.store.slots[0].exceeds .va 150000 ≠ (false, false)
    ∧ (∀ i : Fin 32, programmed.store.slots[i].exceeds .va 150000 = (false, false)) := by
  refine ⟨rfl, by unfold RangeOfKind; decide, by unfold RangeOfKind; decide, by unfold RangeOfKind; decide,
    by decide, by decide, rfl, by decide, nofun, by decide +kernel, by decide +kernel⟩

/-- The clock LOCKED and the link UP. -/
def synced (s : State) : State :=
  { s with time := { s.time with lock := .locked }, peer := { s.peer with link := .up } }

/-- The part in IDLE with BI1 active in a role. -/
def active (r : InputRole) (s : State) : State :=
  { s with inputs := { s.inputs with inputs := s.inputs.inputs.set 0 { Input.powerOn with level := true, role := r } } }

/-- BI1 given a polarity and a role by the panel, the debounce as it was. -/
def configured (pol role : Nat) (s : State) : Option State :=
  match exec (.configInput .panel 1 pol 20 role) s with
  | .next t => some t
  | _ => none

/-- The breaker with every pole OPEN. -/
def opened (s : State) : State :=
  { s with breaker := { s.breaker with poles := s.breaker.poles.mapWith fun _ _ => PoleState.initial true } }

/-- CONFIG_INPUT: the input numbers at the ends of their range, and a role that changes no role state. -/
theorem test_meets_ConfigInputReplacesAndDelivers :
    State.reset.excluded .panel = false ∧ inputOfCode 12 = some 11 ∧ inputOfCode 1 = some 0 ∧ 12 < 13
    ∧ Polarity.ofCode 1 = some .inverted ∧ InputRole.ofCode 6 = some .carrierSend
    ∧ Polarity.normal = State.reset.inputs.inputs[0].polarity
    ∧ Polarity.inverted ≠ State.reset.inputs.inputs[0].polarity
    ∧ (∀ q : InputRole, State.reset.roleActive q = false) ∧ State.reset.seq.visit = none
    ∧ State.reset.PolesConsistent ∧ (opened .reset).PolesConsistent := by
  refine ⟨rfl, rfl, rfl, by decide, rfl, rfl, rfl, by decide, fun q => by cases q <;> decide +kernel, rfl,
    fun q => by cases q <;> exact ⟨rfl, nofun⟩, fun q => by cases q <;> exact ⟨rfl, nofun⟩⟩

/-- A flip that activates TRIP_A and a role change of an active input to TRIP_3P start the poles; a flip that
activates CLOSE closes the open ones; with both times 0 they move at once; a flip of the carrier is sent, and in
local loop received. -/
theorem test_configured_inputs_are_delivered :
    ((configured 1 1 State.reset).map fun t => t.breaker.poles.a.position) = some .opening
    ∧ ((configured 0 4 (active .general .reset)).map fun t => t.breaker.poles.c.position) = some .opening
    ∧ ((configured 1 5 (opened .reset)).map fun t => (t.breaker.poles.b.position, t.actions.held .pole))
      = some (.closing, 3)
    ∧ ((configured 1 1 { State.reset with breaker := { State.reset.breaker with tripTime := 0 } }).map
        fun t => (t.breaker.poles.a, t.signal 12))
      = some ({ position := .opened, interruption := .complete, start := some 0, openSignal := true }, true)
    ∧ ((configured 1 6 (synced .reset)).map fun t => (t.peer.sent, t.actions.held .tpEdge))
      = some ([.event 1 .carrierSend true 0 false true], 0)
    ∧ ((configured 1 6 { State.reset with tp := { State.reset.tp with source := .localLoop } }).map fun t =>
        (t.tp.lastReceived, t.actions.held .tpEdge)) = some (true, 1) := by decide +kernel

/-- Outputs 1 and 2 MANUAL, the others of no role. -/
def manual : State :=
  { State.reset with outputs := #v[⟨.manual, true⟩, ⟨.manual, false⟩, ⟨.none, false⟩, ⟨.none, false⟩] }

/-- CONFIG_OUTPUT and SET_OUTPUT: a level for each role, masks that pass, and an output that is not MANUAL. -/
theorem test_meets_OutputsAreConfiguredAndDriven :
    outputOfCode 4 = some 3 ∧ outputOfCode 1 = some 0 ∧ OutputRole.ofCode 5 = some .manual
    ∧ (∀ q : Pole, (State.reset.breaker.poles.get q).position = .closed)
    ∧ manual.outputs[0].role = .manual ∧ manual.outputs[0].level = true
    ∧ (15 : Nat) < 16 ∧ 16 ≤ 16 ∧ (1 : Nat) &&& 2 = 0 ∧ (3 : Nat) &&& 2 ≠ 0
    ∧ (∀ n : Fin 4, (1 ||| 2 : Nat).testBit n.val = true → manual.outputs[n].role = .manual)
    ∧ (1 ||| 4 : Nat).testBit (2 : Fin 4).val = true ∧ manual.outputs[2].role ≠ .manual
    ∧ (∀ k : Fin 4, k < 2 → (1 ||| 4 : Nat).testBit k.val = true → manual.outputs[k].role = .manual) := by
  refine ⟨rfl, rfl, rfl, fun q => by cases q <;> rfl, rfl, rfl, ?_⟩
  decide +kernel

/-- CONFIG_BREAKER and CONFIG_TELEPROTECTION at the ends of their ranges. -/
theorem test_meets_breaker_and_teleprotection :
    State.reset.excluded .panel = false ∧ State.reset.seq.phase = .idle ∧ State.reset.seq.visit = none
    ∧ 1 < 2 ∧ 5000 < 5001 ∧ 5000 ≤ 5000 ∧ 10000 < 10001 ∧ 10000 ≤ 10000
    ∧ TpSource.ofCode 0 = some .peer ∧ TpSource.peer = State.reset.tp.source
    ∧ TpSource.ofCode 1 = some .localLoop ∧ TpSource.localLoop ≠ State.reset.tp.source := by
  refine ⟨rfl, rfl, rfl, by decide, by decide, by decide, by decide, by decide, rfl, rfl, rfl, by decide⟩

/-- A log that holds so many records, with a lost count. -/
def filled (n lost : Nat) (s : State) : State :=
  { s with log := { s.log with
      records := List.replicate n (State.reset.makeRecord 0 (.tpEvent .late)), lost := lost } }

theorem filled_length (n lost : Nat) (s : State) : (filled n lost s).log.records.length = n := List.length_replicate

/-- ARM: each parameter out of its range, and each check from 5 to 11 with those before it passed. -/
theorem test_meets_ArmIsRefusedInTheOrderOfItsChecks :
    32 ≤ 32 ∧ 31 < 32 ∧ 5 ≤ 5 ∧ 4 < 5 ∧ (2 ≤ 2) ∧ (1 = 1 ∧ 2 < 3) ∧ (0 = 0 ∧ 4 = 4)
    ∧ (49 ≠ 0 ∧ (49 < 50 ∨ 5000 < 49)) ∧ (5001 ≠ 0 ∧ (5001 < 50 ∨ 5000 < 5001)) ∧ (50 ≤ 50 ∧ 5000 ≤ 5000)
    ∧ StartMode.ofCode 0 0 ((0 + 99) / 100 * 100 % daySpan) 0 = some .immediate
    ∧ FlagAllowed .immediate false ∧ FlagAllowed (.atTime 200000) true ∧ FlagAllowed .peer true
    ∧ (∃ s : State, s.guard.eStop = .asserted)
    ∧ (∃ s : State, s.guard.eStop = .released ∧ s.drains.sequence.enabled = false
        ∧ s.drains.panel.enabled = false)
    ∧ (∃ s : State, s.guard.eStop = .released ∧ s.drains.panel.enabled = true ∧ 1022 < s.log.records.length)
    ∧ State.reset.time.lock ≠ .locked ∧ StartMode.peer.isTimed = true
    ∧ ¬ StartAcceptable (synced .reset) (.atTime 0) false
    ∧ ¬ StartAcceptable (synced .reset) (.atTime 199900) true
    ∧ (∃ s : State, StartAcceptable s (.atTime 200000) true ∧ s.time.lock = .locked ∧ s.peer.link ≠ .up)
    ∧ (ArmConditions State.reset .immediate false ∧ ∃ d, State.reset.armWalk 0 = some d) := by
  refine ⟨by decide, by decide, by decide, by decide, by decide, by decide, by decide, by decide, by decide,
    by decide, rfl, rfl, trivial, rfl,
    ⟨{ State.reset with guard := { State.reset.guard with eStop := .asserted } }, rfl⟩,
    ⟨{ State.reset with drains :=
        { sequence := { Drain.powerOn with enabled := false }, panel := { Drain.powerOn with enabled := false } } },
      rfl, rfl, rfl⟩,
    ⟨filled 1023 0 .reset, rfl, rfl, by rw [filled_length]; decide⟩,
    by decide, rfl, fun h => absurd (h 0 rfl).1 (by decide +kernel),
    fun h => absurd ((h 199900 rfl).2.2 rfl) (by decide +kernel),
    ⟨{ synced .reset with peer := State.reset.peer }, ?_, rfl, by decide⟩, ⟨rfl, .inl rfl, by decide, ?_, ?_, ?_⟩,
    .emptyTarget 0, by decide +kernel⟩
  · intro t h
    cases h
    decide +kernel
  · exact nofun
  · exact fun t h => nomatch h
  · exact nofun

/-- ARM in every start mode. -/
theorem test_meets_ArmMakesAShot :
    (∀ m, m = .immediate ∨ m = .onCommand ∨ m = .onInput 0 0 → ArmConditions programmed m false)
    ∧ ArmConditions (synced programmed) (.atTime 200000) true ∧ ArmConditions (synced programmed) .peer true
    ∧ programmed.armWalk 0 = none ∧ (synced programmed).armWalk 0 = none
    ∧ programmed.store.slots[0].active = some .default ∧ programmed.log.reservation = 0
    ∧ programmed.assess = none ∧ programmed.breaker.enabled = true
    ∧ (∃ s : State, s.breaker.enabled = false ∧ s.armWalk 0 = none ∧ s.log.reservation = 0) := by
  refine ⟨?_, ⟨rfl, .inl rfl, by decide, fun _ => rfl, ?_, fun _ => rfl⟩,
    ⟨rfl, .inl rfl, by decide, fun _ => rfl, fun t h => (nomatch h), fun _ => rfl⟩, by decide +kernel,
    by decide +kernel, by decide +kernel, rfl, rfl, rfl,
    ⟨{ programmed with breaker := { programmed.breaker with enabled := false } }, rfl, by decide +kernel, rfl⟩⟩
  · rintro m (rfl | rfl | rfl) <;>
      exact ⟨rfl, .inl rfl, by decide, fun h => (nomatch h), fun t h => (nomatch h), nofun⟩
  · intro t h
    cases h
    decide +kernel

/-- A shot armed in a start mode. -/
def armedIn (m : StartMode) : State :=
  { inPhase .armed with seq := { (inPhase .armed).seq with mode := some m } }

/-- START and ABORT in each phase. -/
theorem test_meets_StartAndAbortActByPhase :
    ((armedIn .onCommand).excluded .panel = false ∧ (armedIn .onCommand).seq.phase = .armed
      ∧ (armedIn .onCommand).seq.mode = some .onCommand ∧ (armedIn .onCommand).seq.startBoundary = none)
    ∧ (armedIn .immediate).seq.mode ≠ some .onCommand ∧ 1 < 2 ∧ 1 ≤ 1
    ∧ State.reset.seq.phase = .idle ∧ (inPhase .closing).seq.phase = .closing
    ∧ (inPhase .armed).seq.visit = none ∧ (inPhase .rampingDown).seq.secondary = none
    ∧ (∃ s : State, s.seq.phase = .rampingDown ∧ s.seq.secondary ≠ none)
    ∧ ((runningIn .default).seq.phase = .running ∧ (runningIn .default).seq.endCause = none
      ∧ (runningIn .default).seq.endAtExit = false)
    ∧ (∃ s : State, s.seq.phase = .running ∧ s.seq.endAtExit = true)
    ∧ ∃ s : State, s.seq.phase = .running ∧ s.seq.endCause ≠ none ∧ s.seq.softEnd ≠ none
        ∧ s.seq.secondary = none := by
  refine ⟨⟨rfl, rfl, rfl, rfl⟩, by decide, by decide, by decide, rfl, rfl, rfl, rfl, ?_, ⟨rfl, rfl, rfl⟩, ?_,
    { runningIn .default with seq := { (runningIn .default).seq with
        endCause := some (.abort .overtemp), softEnd := some 0 } }, rfl, by decide, by decide, rfl⟩
  · exact ⟨{ inPhase .rampingDown with
      seq := { (inPhase .rampingDown).seq with secondary := some .aborted } }, rfl, by decide⟩
  · exact ⟨{ runningIn .default with seq := { (runningIn .default).seq with endAtExit := true } }, rfl, rfl⟩

/-- A ramp of VA's amplitude by 10 a unit, stopped by BI1. -/
def ramp : Ramp :=
  { target := .channel .va, quantity := .amplitude, start := 100, step := 10, limit := 200, dwell := 1, stopMask := 1 }

/-- RUNNING in a record with the ramp, its first step to come. -/
def ramping : State :=
  { runningIn { StateRecord.default with ramp := some ramp } with
    synth := { State.reset.synth with ramp := rampContextOf (some ramp) 0 } }

/-- ADJUST: each code above its range, a target on the ramp of the visit, and one off it. -/
theorem test_meets_AdjustChangesTheWorkingSet :
    State.reset.seq.phase ≠ .running ∧ (8 < 9 ∧ 8 ≤ 8 ∧ 2 < 3 ∧ 2 ≤ 2 ∧ 1 < 2 ∧ 1 ≤ 1)
    ∧ Target.ofCode 7 = some (.group .v) ∧ Target.ofCode 8 = some (.group .i)
    ∧ Quantity.ofCode 0 = some .amplitude
    ∧ (∃ vis rmp, ramping.seq.visit = some vis ∧ vis.record.ramp = some rmp ∧ rmp.quantity = .amplitude
        ∧ ∃ ch, (Target.group .v).covers ch = true ∧ rmp.target.covers ch = true)
    ∧ (∀ vis rmp, ramping.seq.visit = some vis → vis.record.ramp = some rmp → rmp.quantity = .amplitude →
        ∀ ch, (Target.group .i).covers ch = true → rmp.target.covers ch = false) := by
  refine ⟨by decide, by decide, rfl, rfl, rfl, ⟨_, ramp, rfl, rfl, rfl, .va, rfl, rfl⟩, ?_⟩
  intro vis rmp hv hr _ ch hc
  cases hv
  cases hr
  cases ch <;> first | rfl | exact absurd hc (by decide)

/-- A drain channel that is disabled. -/
def disabled : Drain := { Drain.powerOn with enabled := false, copyPos := none, consumedPos := none }

/-- A page that the port owns, with one record. -/
def handedOver (n : Nat) : Page :=
  { owner := .port, records := [State.reset.makeRecord 0 (.tpEvent .late)], number := n, cause := some .flush }

/-- DRAIN_ENABLE: both selectors on both settings, the last channel within a shot and in IDLE. -/
theorem test_meets_DrainEnableSwitchesAChannel :
    1 < 2 ∧ Drain.powerOn.enabled = true ∧ disabled.enabled = false
    ∧ (∃ s : State, (s.drains.get .panel).enabled = true
        ∧ (s.drains.get Port.panel.other).enabled = false ∧ s.seq.phase ≠ .idle)
    ∧ (inPhase .armed).drains.get Port.panel.other = Drain.powerOn ∧ State.reset.seq.phase = .idle :=
  ⟨by decide, rfl, rfl,
   ⟨{ inPhase .armed with drains := { sequence := disabled, panel := .powerOn } }, rfl, rfl, by decide⟩, rfl, rfl⟩

/-- READ_PAGE and RELEASE_PAGE: a page of the part's, a page of the port's, and the younger of two. -/
theorem test_meets_PagesAreReadAndReleased :
    1 < 2 ∧ PageName.ofCode 0 = some .x ∧ PageName.ofCode 1 = some .y ∧ 15 < 16 ∧ 15 ≤ 15
    ∧ (Drain.powerOn.page .x).owner = .part
    ∧ (∃ d : Drain, d.enabled = true ∧ (d.page .x).owner = .port ∧ (d.page PageName.x.other).owner = .part
        ∧ d.consumedPos = some 0 ∧ State.reset.log.awaiting d = [])
    ∧ (∃ d : Drain, d.enabled = true ∧ (d.page .y).owner = .port ∧ (d.page PageName.y.other).owner = .port
        ∧ PageName.y ≠ d.toggle)
    ∧ (∃ d : Drain, d.enabled = true ∧ (d.page .x).owner = .port ∧ PageName.x = d.toggle
        ∧ d.consumedPos = some 0) :=
  ⟨by decide, rfl, rfl, by decide, by decide, rfl,
   ⟨{ Drain.powerOn with x := handedOver 1, toggle := .y, copyPos := some 1 }, rfl, rfl, rfl, rfl, rfl⟩,
   ⟨{ Drain.powerOn with x := handedOver 1, y := handedOver 2, copyPos := some 2 }, rfl, rfl, rfl, by decide⟩,
   ⟨{ Drain.powerOn with x := handedOver 1, y := handedOver 2, copyPos := some 2 }, rfl, rfl, rfl, rfl⟩⟩

/-- A SHOT_END record. -/
def shotEndRecord : LogRecord :=
  State.reset.makeRecord 0 (.shotEnd .completed none 0 false State.reset.clipMask .zero .good)

/-- The panel's channel with both pages handed over, a record in each, and records that await it; the other
channel disabled. -/
def backlog (w : List LogRecord) : State :=
  let r := State.reset.makeRecord 0 (.tpEvent .late)
  { State.reset with
    log := { ReportLog.empty with records := r :: r :: w }
    drains := { sequence := disabled
                panel := { Drain.powerOn with x := handedOver 1, y := handedOver 2, copyPos := some 2, count := 2 } } }

/-- Such a state is consistent, whatever waits. -/
theorem backlog_consistent (w : List LogRecord) : (backlog w).DrainsConsistent := by
  refine ⟨Drain.disable_consistent Drain.powerOn (backlog w).log, ?_, fun _ => rfl⟩
  simp [backlog, Drain.HoldsItsRecords, Drain.held, Drain.older, Drain.PagesInOrder, Drain.page, Drain.powerOn,
    PageName.other, handedOver, ReportLog.empty]

/-- A release with none, fifteen, a SHOT_END and sixteen records waiting. -/
theorem test_meets_ReleaseResumesCopying :
    (∀ w, (backlog w).DrainsConsistent ∧ (backlog w).log.records.drop (2 - (backlog w).log.freed) = w)
    ∧ ((backlog []).drains.get .panel).x.owner = .port ∧ ((backlog []).drains.get .panel).y.owner = .port
    ∧ PageName.ofCode 0 = some ((backlog []).drains.get .panel).toggle
    ∧ (([] : List LogRecord).length < 16 ∧ (handedOver 1).records.length < 16
      ∧ ∀ r ∈ (handedOver 1).records, r.body.isShotEnd = false)
    ∧ ([shotEndRecord][0]? = some shotEndRecord ∧ shotEndRecord.body.isShotEnd = true
      ∧ ∀ x ∈ [shotEndRecord].take 0, RecordBody.isShotEnd x.body = false)
    ∧ ((filled 16 0 .reset).log.records[15]? = some (State.reset.makeRecord 0 (.tpEvent .late))
      ∧ ∀ x ∈ (filled 16 0 .reset).log.records.take 15, RecordBody.isShotEnd x.body = false) :=
  ⟨fun w => ⟨backlog_consistent w, rfl⟩, rfl, rfl, rfl, by decide, by decide, by decide +kernel⟩

/-- FLUSH_TIMER_EXPIRY: a timer still running, and one that ends now. -/
theorem test_meets_FlushHandsOverThePage :
    (∃ (s : State) (d : Drain), d = s.drains.get .panel ∧ ∀ e, d.flush = some e → s.now < e)
    ∧ ∃ (s : State) (d : Drain) (e : Nat), d = s.drains.get .panel ∧ d.flush = some e ∧ e ≤ s.now
        ∧ s.log.awaiting d = [] :=
  ⟨⟨{ State.reset with drains := State.reset.drains.set .panel { Drain.powerOn with flush := some 1 } }, _, rfl,
    fun e h => by cases h; decide⟩,
   { State.reset with drains := State.reset.drains.set .panel { Drain.powerOn with flush := some 0 } }, _, 0, rfl,
   rfl, by decide, rfl⟩

/-- A log with a slot free and a log without; a lost count below its end and one at it. -/
theorem test_meets_RecordsAreWrittenOrCounted :
    State.reset.log.records.length + State.reset.log.reservation < 1024
    ∧ (∃ s : State, 1024 ≤ s.log.records.length + s.log.reservation ∧ s.log.lost < 4294967295)
    ∧ ∃ s : State, 1024 ≤ s.log.records.length + s.log.reservation ∧ ¬ s.log.lost < 4294967295 := by
  refine ⟨by decide, ⟨filled 1024 0 .reset, ?_, by decide⟩, filled 1024 4294967295 .reset, ?_, by decide⟩ <;>
    (rw [filled_length]; decide)

/-- A channel with so many records in the page being filled and none waiting. -/
def holding (n : Nat) : Drain :=
  { Drain.powerOn with
    x := { Page.empty with records := (filled n 0 .reset).log.records }
    copyPos := some (filled n 0 .reset).log.records.length
    flush := if n = 0 then none else some 20000 }

/-- A visit that ends here by a soft abort, its end fixed before this boundary or not. -/
def ending (fixed : Bool) : State :=
  { runningIn .default with
    seq := { (runningIn .default).seq with softEnd := some 0 }
    time := { (runningIn .default).time with endFixed := fixed } }

/-- A record copied: the first and the fifteenth of a page, the sixteenth, a SHOT_END; a channel disabled, and
one whose port owns both pages with a record awaiting; the two events that write one record. -/
theorem test_meets_RecordsAreCopied :
    ((holding 0).page (holding 0).toggle).records.length < 15
    ∧ ((holding 14).page (holding 14).toggle).records.length < 15
    ∧ ((holding 15).page (holding 15).toggle).records.length = 15
    ∧ ((holding 15).page (holding 15).toggle).owner = .part
    ∧ (holding 15).copyPos = some ((filled 15 0 .reset).log.freed + (filled 15 0 .reset).log.records.length)
    ∧ shotEndRecord.body.isShotEnd = true
    ∧ (∃ d : Drain, d.enabled = false ∧ d.copyPos = none)
    ∧ (∃ d : Drain, (d.page d.toggle).owner = .port ∧ (filled 1 0 .reset).log.awaiting d ≠ [])
    ∧ 1 ≤ State.reset.log.unreserved ∧ (∃ s : State, s.log.unreserved = 0)
    ∧ ((withAction (.stateOutput 0 true) (some 0) (ending false)).dueAction.map (·.work))
      = some (.stateOutput 0 true)
    ∧ (runningIn .default).outputs[0].level ≠ true
    ∧ lingering.lingerDue = true ∧ lingering.seq.endCause = some .completed := by
  refine ⟨by decide +kernel, by decide +kernel, by decide +kernel, rfl, rfl, rfl,
    ⟨Drain.powerOn.disable, rfl, rfl⟩, ⟨{ Drain.powerOn with x := handedOver 1 }, rfl, by decide +kernel⟩,
    by decide, ⟨filled 1024 0 .reset, ?_⟩, by decide +kernel, by decide, by decide +kernel, rfl⟩
  simp [ReportLog.unreserved, ReportLog.free, filled_length]

/-- SOFT_RESET within a shot and without; the E-STOP line and the keepalive timer in the phases named. -/
theorem test_meets_SoftReset_and_GuardEndsTheShot :
    (inPhase .armed).excluded .panel = false ∧ State.reset.guard.eStop = .released
    ∧ (∃ s : State, s.guard.eStop = .asserted)
    ∧ ((inPhase .closing).guard.eStop = .released ∧ (inPhase .closing).seq.phase = .closing)
    ∧ ((runningIn .default).guard.eStop = .released ∧ (runningIn .default).seq.phase = .running
      ∧ (runningIn .default).seq.endCause = none ∧ (runningIn .default).seq.visit ≠ none)
    ∧ ((inPhase .armed).seq.visit = none ∧ (inPhase .rampingDown).seq.visit = none)
    ∧ (∀ e, State.reset.guard.expiry = some e → State.reset.now < e)
    ∧ ∃ (s : State) (e : Nat), s.guard.expiry = some e ∧ e ≤ s.now ∧ s.seq.phase = .running
        ∧ s.seq.endCause = none :=
  ⟨rfl, rfl, ⟨{ State.reset with guard := { State.reset.guard with eStop := .asserted } }, rfl⟩, ⟨rfl, rfl⟩,
   ⟨rfl, rfl, rfl, by decide⟩, ⟨rfl, rfl⟩, nofun,
   { runningIn .default with guard := { State.reset.guard with period := 50, expiry := some 0 } }, 0, rfl,
   by decide, rfl, rfl⟩

/-- Input 1 with a role and a change of it accepted at this sample, with start 0. -/
def accepting (r : InputRole) (s : State) : State :=
  { s with inputs := { s.inputs with
      inputs := s.inputs.inputs.set 0 { Input.powerOn with role := r, candidate := some (moment 0), count := 21, ready := true } } }

/-- INPUT_SAMPLE due and not due; ACCEPTED_CHANGE with a trip of closed poles, and with a close of open
ones. -/
theorem test_meets_inputs :
    (clock 1 1 State.reset).sampleDue = false
    ∧ (State.reset.time.counter % 10 = 0 ∧ State.reset.time.inputsDone = false
      ∧ ∀ n : Fin 12, State.reset.inputs.inputs[n].ready = false)
    ∧ State.reset.inputs.inputs[0].ready = false
    ∧ (∃ s : State, s.inputs.inputs[0].ready = true ∧ s.inputs.inputs[0].candidate = some (moment 0)
        ∧ s.seq.phase ≠ .idle ∧ s.breaker.enabled = true ∧ ReachedBy s.inputs.inputs[0].role .a
        ∧ (∀ q : Pole, s.tripActive q = false) ∧ (s.breaker.poles.get .a).position = .closed
        ∧ s.actions.held .pole = 0 ∧ s.now < 0 + s.breaker.tripTime * 100)
    ∧ ∃ s : State, s.inputs.inputs[0].ready = true ∧ s.inputs.inputs[0].candidate = some (moment 0)
        ∧ s.seq.phase = .idle ∧ s.seq.visit = none ∧ s.inputs.inputs[0].role = .close
        ∧ s.roleActive .close = false ∧ (s.breaker.poles.get .a).position = .opened
        ∧ s.tripActive .a = false ∧ s.actions.held .pole = 0 ∧ s.now < 0 + s.breaker.closeTime * 100 := by
  refine ⟨by decide, ⟨rfl, rfl, by decide +kernel⟩, by decide +kernel,
    ⟨accepting .trip3P (inPhase .armed), by decide +kernel, by decide +kernel, by decide, rfl, .inl ?_,
      fun q => by cases q <;> decide +kernel, rfl, rfl, by decide⟩,
    { accepting .close State.reset with breaker := { State.reset.breaker with
        poles := State.reset.breaker.poles.mapWith fun _ _ => .initial true } },
    by decide +kernel, by decide +kernel, rfl, rfl, by decide +kernel, by decide +kernel, rfl, by decide +kernel,
    rfl, by decide⟩
  decide +kernel

/-- BI1 accepted in a shot of the peer's, as a GENERAL input and as the carrier of a local loop, and in one that
waits for it to start: what it changes. -/
theorem test_meets_AcceptedChangeIsDelivered :
    (∃ u, exec (.acceptedChange 0) (accepting .general (runningIn .default)) = .next u
      ∧ (∀ k, k ≠ (0 : Fin 12).val → u.signal k = (accepting .general (runningIn .default)).signal k)
      ∧ (accepting .general (runningIn .default)).roleActive .carrierSend = u.roleActive .carrierSend)
    ∧ (∃ (s u : State), s.tp.source = .localLoop ∧ exec (.acceptedChange 0) s = .next u
      ∧ s.roleActive .carrierSend ≠ u.roleActive .carrierSend ∧ s.actions.held .tpEdge < 13
      ∧ 0 < s.aheadOf ((moment 0).abs + s.tp.delay * 100))
    ∧ (∃ v, StopsTheRamp ramping 0 true v ramp)
    ∧ (armedIn (.onInput 1 1)).seq.startBoundary = none := by
  refine ⟨⟨_, rfl, ?_, by decide +kernel⟩,
    ⟨{ accepting .carrierSend State.reset with tp := { State.reset.tp with source := .localLoop } }, _, rfl, rfl,
      by decide +kernel, by decide +kernel, by decide +kernel⟩, ⟨_, rfl, rfl, rfl, rfl, .inl rfl, by decide⟩, rfl⟩
  intro k ne
  by_cases h : k < 16
  · interval_cases k <;> first | exact absurd rfl ne | decide +kernel
  · have high : ∀ s : State, s.signal k = false := fun s => by
      simp [State.signal, show ¬ k < 12 by omega, show k ≠ 12 by omega, show k ≠ 13 by omega,
        show k ≠ 14 by omega, show k ≠ 15 by omega]
    rw [high, high]

/-- What the acceptance of BI1 leaves. -/
def accepted (s : State) : Option State :=
  match exec (.acceptedChange 0) s with
  | .next t => some t
  | _ => none

/-- BI1 about to be accepted in a role, with the AUX outputs on BO1 and BO2, the operating times of the breaker and
its pole A in a position. -/
def operating (r : InputRole) (times : Nat) (q : PoleState) (s : State) : State :=
  { accepting r s with
    outputs := #v[⟨.aux52A, true⟩, ⟨.aux52B, false⟩, ⟨.none, false⟩, ⟨.none, false⟩]
    breaker := { s.breaker with tripTime := times, closeTime := times, poles := s.breaker.poles.set .a q } }

/-- Within a shot: a trip of a closed pole drops AUX_52A, and with the operating time 0 opens the pole at once, its
interruption begun; a trip of a pole that is CLOSING takes its close action away; a close of a pole that is OPENING
is refused with its record. -/
theorem test_breaker_takes :
    let trip := operating .tripA 5 (PoleState.initial false) (runningIn .default)
    let atOnce := operating .tripA 0 (PoleState.initial false) (runningIn .default)
    let free := operating .tripA 5 { PoleState.initial true with position := .closing }
      (withAction (.pole .a .closing) none (runningIn .default))
    let late := operating .close 5 { PoleState.initial false with position := .opening } (inPhase .armed)
    (trip.actions.held .pole = 0
      ∧ (accepted trip).map (fun t => (t.breaker.poles.a.position, t.outputs[0].level,
          (t.log.records.map (·.body)).getLast?))
        = some (.opening, false, some (.outputChange 0 false .breaker)))
    ∧ (atOnce.actions.held .pole = 0
      ∧ (accepted atOnce).map (fun t => (t.breaker.poles.a.position, t.breaker.poles.a.start, t.actions.held .pole))
        = some (.opened, some 0, 0))
    ∧ (free.actions.ofPole .a = [(.pole .a .closing, none)]
      ∧ (accepted free).map (fun t => (t.breaker.poles.a.position, t.actions.ofPole .a))
        = some (.opening, [(.pole .a .opening, none)]))
    ∧ (late.actions.held .pole = 0
      ∧ (accepted late).map (fun t => (t.breaker.poles.a.position, (t.log.records.map (·.body)).getLast?))
        = some (.opening, some (.breakerOp .a .refused false))) := by decide +kernel

/-- A state output action due where the visit goes on; where it ends here, fixed before and only now. -/
theorem test_meets_StateOutputActionFires :
    State.reset.dueAction = none
    ∧ ((withAction (.stateOutput 0 true) (some 0) (runningIn .default)).dueAction
        = some { due := 0, insertion := 0, work := .stateOutput 0 true, owner := some 0 })
    ∧ (withAction (.stateOutput 0 true) (some 0) (ending false)).dueAction.isSome = true
    ∧ (withAction (.stateOutput 0 true) (some 0) (ending true)).dueAction = none
    ∧ (ending true).time.endFixed = true ∧ (ending true).visitEndsHere = true := by
  refine ⟨rfl, by decide +kernel, by decide +kernel, by decide +kernel, rfl, by decide +kernel⟩

/-- Behind an output action that the end of its visit withholds, a condition of the same due time falls due
(R32, R141). -/
theorem test_withheld_output_holds_back_nothing :
    let at_ (n : Nat) (w : Work) : TimedAction := { due := 0, insertion := n, work := w, owner := some 0 }
    ({ ending true with actions := { entries := [at_ 0 (.stateOutput 0 true), at_ 1 (.condition 2)], next := 2 } }
      : State).dueAction = some (at_ 1 (.condition 2)) := by decide +kernel

/-- A pole with an interruption in progress since local time 0. -/
def interrupting (s : State) : State :=
  let pole : PoleState := { position := .opened, interruption := .inProgress, start := some 0, openSignal := true }
  { s with breaker := { s.breaker with poles := s.breaker.poles.set .a pole } }

/-- A pole action due, in IDLE and within a shot; an interruption at its forced limit. -/
theorem test_meets_PoleActions_and_ForcedLimit :
    (withAction (.pole .a .opening) none (runningIn .default)).dueAction
      = some { due := 0, insertion := 0, work := .pole .a .opening, owner := none }
    ∧ (withAction (.pole .a .closing) none State.reset).dueAction
      = some { due := 0, insertion := 0, work := .pole .a .closing, owner := none }
    ∧ (State.reset.breaker.poles.get .a).interruption = .none
    ∧ ((interrupting State.reset).breaker.poles.get .a).interruption ≠ .none
    ∧ (State.reset.breaker.poles.get .a).openSignal = false
    ∧ ((interrupting State.reset).breaker.poles.get .a).openSignal = true
    ∧ State.reset.forcedDue .a = false
    ∧ ∃ s : State, (s.breaker.poles.get .a).interruption = .inProgress
        ∧ (s.breaker.poles.get .a).start = some 0 ∧ s.time.counter % 100 = 0 ∧ s.time.sampleDone = false
        ∧ 0 + 40000 ≤ s.now :=
  ⟨rfl, rfl, rfl, by decide, rfl, rfl, by decide, clock 40000 40000 (interrupting State.reset), rfl, rfl, by decide, rfl,
   by decide⟩

/-- Every return of the frame before has come. -/
def returned (s : State) : State :=
  { s with amp := { s.amp with channels := s.amp.channels.mapWith fun _ a => { a with returned := true } } }

/-- Every return has come but IA's, which has been missing so often. -/
def missingIA (missing : Nat) (valid : Bool) (s : State) : State :=
  { s with amp :=
      { frame := s.amp.frame.mapWith fun _ f => { f with valid := valid }
        channels := s.amp.channels.mapWith fun c a =>
          { a with returned := decide (c ≠ .ia), missing := missing } } }

/-- A boundary due with the channels injecting, and with them muted; a return missing for a subframe that
was VALID, twice and the third time, and for one that was not. -/
theorem test_meets_boundaries :
    ((returned (runningIn .default)).boundaryDue = true ∧ (runningIn .default).seq.phase = .running
      ∧ ∀ c : Channel, ((returned (runningIn .default)).amp.channels.get c).returned = true)
    ∧ (clock 1 1 State.reset).boundaryDue = false
    ∧ State.reset.boundaryDue = true ∧ (returned (inPhase .closing)).boundaryDue = true
    ∧ (∃ s : State, s.boundaryDue = true ∧ s.seq.phase ≠ .idle
        ∧ (∀ c : Channel, (s.amp.channels.get c).returned = decide (c ≠ .ia))
        ∧ (s.amp.frame.get .ia).valid = false ∧ (s.amp.channels.get .ia).missing = 0
        ∧ (s.amp.channels.get .ia).overload < 5)
    ∧ ∃ s : State, s.boundaryDue = true ∧ s.seq.phase = .running
        ∧ (∀ c : Channel, (s.amp.channels.get c).returned = decide (c ≠ .ia))
        ∧ (s.amp.frame.get .ia).valid = true ∧ (s.amp.channels.get .ia).missing = 2
        ∧ (s.amp.channels.get .ia).overload < 5 ∧ (s.guard.latches.get .ia).disconnected = false
        ∧ s.seq.endCause = none ∧ ∀ ph, ph = .armed ∨ ph = .rampingDown ∨ ph = .closing →
          (missingIA 2 true (inPhase ph)).boundaryDue = true ∧ (inPhase ph).seq.visit = none := by
  refine ⟨⟨by decide +kernel, rfl, fun c => by cases c <;> rfl⟩, by decide, by decide +kernel, by decide +kernel,
    ⟨missingIA 0 false (runningIn .default), by decide +kernel, by decide, fun c => by cases c <;> rfl, rfl, rfl,
      by decide⟩,
    missingIA 2 true (runningIn .default), by decide +kernel, rfl, fun c => by cases c <;> rfl, rfl, rfl,
    by decide, rfl, rfl, ?_⟩
  rintro ph (rfl | rfl | rfl) <;> exact ⟨by decide +kernel, rfl⟩

/-- A return in IDLE, one that ends a run of OVERLOAD, and an OVERTEMP with its latch clear and set. -/
theorem test_meets_AmplifierReturnsAreCounted :
    State.reset.seq.phase = .idle
    ∧ ((runningIn .default).seq.phase ≠ .idle ∧ ((runningIn .default).amp.channels.get .ia).overload < 4
      ∧ ((runningIn .default).amp.channels.get .ia).missing < 3
      ∧ ((runningIn .default).guard.latches.get .ia).overtemp = false
      ∧ ((runningIn .default).guard.latches.get .ia).overload = false
      ∧ (runningIn .default).seq.endCause = none)
    ∧ (∀ s : State, ∃ u : State, u.seq = s.seq ∧ (u.amp.channels.get .ia).overload = 4)
    ∧ ((inPhase .armed).seq.visit = none ∧ (inPhase .rampingDown).seq.visit = none
      ∧ (inPhase .closing).seq.phase = .closing)
    ∧ (∃ s : State, 5 ≤ (s.amp.channels.get .ia).overload)
    ∧ ∃ s : State, (s.guard.latches.get .ia).overtemp = true ∧ s.seq.phase ≠ .idle :=
  ⟨rfl, ⟨by decide, by decide, by decide, rfl, rfl, rfl⟩,
   fun s => ⟨s.setAmp .ia { AmpChannel.powerOn with overload := 4 }, rfl, rfl⟩, ⟨rfl, rfl, rfl⟩,
   ⟨(runningIn .default).setAmp .ia { AmpChannel.powerOn with overload := 5 }, by decide⟩,
   { runningIn .default with guard := { State.reset.guard with
       latches := State.reset.guard.latches.set .ia { FaultLatches.clear with overtemp := true } } }, rfl, by decide⟩

/-- The ramp's first step falls at its boundary, one dwell unit after the entry. -/
theorem test_meets_RampStepMovesTheValue :
    ramping.rampStepDue = false
    ∧ (clock 100 100 ramping).rampStepDue = true ∧ (clock 100 100 ramping).choiceOfState = none
    ∧ (clock 100 100 ramping).synth.ramp.ramp = some ramp ∧ ramp.valueAt 1 = 110 := by decide +kernel

/-- A condition that watches BI1 with a hold of one unit. -/
def condition : CondState :=
  { condition := { enable := 1, value := 1, hold := 1, next := .state 0 }, truth := false, candidate := none }

/-- RUNNING with that condition, a candidate for local time 0. -/
def candidate : State :=
  { runningIn .default with seq := { (runningIn .default).seq with
      visit := some { Visit.opened 0 0 0 .default with conditions := [{ condition with candidate := some 0 }] } } }

/-- A condition that rises, with its hold still to pass and passed; that falls; whose action is due. -/
theorem test_meets_ConditionsBecomeCandidates :
    ((true = true ↔ (1#16 &&& condition.condition.enable = condition.condition.value &&& condition.condition.enable))
      ∧ condition.truth = false ∧ 99 < 0 + condition.condition.hold * 100
      ∧ 0 + condition.condition.hold * 100 ≤ 100)
    ∧ ((false = true ↔ (0#16 &&& condition.condition.enable = condition.condition.value &&& condition.condition.enable))
      ∧ ({ condition with truth := true } : CondState).truth = true)
    ∧ ∃ v, (withAction (.condition 0) (some 0) candidate).dueAction
        = some { due := 0, insertion := 0, work := .condition 0, owner := some 0 }
      ∧ candidate.seq.visit = some v := by
  refine ⟨by decide, by decide, _, rfl, rfl⟩

/-- A running visit with a condition, an input's change accepted, and a pole's opening and close due. -/
theorem test_meets_VectorChangesReevaluateTheConditions :
    ((accepting .general candidate).seq.phase = .running ∧ (accepting .general candidate).seq.visit ≠ none
      ∧ (accepting .general candidate).inputs.inputs[0].ready = true
      ∧ (accepting .general candidate).inputs.inputs[0].candidate = some (moment 0)
      ∧ (accepting .general candidate).inputs.inputs[0].role = .general)
    ∧ ((withAction (.pole .a .opening) none candidate).dueAction ≠ none
      ∧ (candidate.breaker.poles.get .a).openSignal = false)
    ∧ ((withAction (.pole .a .closing) none (interrupting candidate)).dueAction ≠ none
      ∧ ((interrupting candidate).breaker.poles.get .a).openSignal = true) := by
  refine ⟨⟨rfl, by decide, by decide +kernel, by decide +kernel, by decide +kernel⟩, ⟨by decide, rfl⟩,
    by decide, rfl⟩

/-- A transition chosen already, a candidate, a timeout at its boundary, and none of them. -/
theorem test_meets_TheChoiceAtABoundary :
    (∃ (s : State) (v : Visit) (c : Chosen), s.seq.visit = some v ∧ s.seq.chosen = some c)
    ∧ (∃ (v : Visit) (c : CondState), candidate.seq.visit = some v ∧ candidate.seq.chosen = none
        ∧ v.conditions[(0 : Fin 4).val]? = some c ∧ c.candidate = some 0 ∧ 0 ≤ candidate.now)
    ∧ ((clock 100 100 (runningIn (timed .finish))).timeoutDue = true
      ∧ (clock 100 100 (runningIn (timed .finish))).choiceOpen = true
      ∧ ((clock 100 100 (runningIn (timed .finish))).transition.map (·.target)) = some .finish)
    ∧ (runningIn .default).timeoutDue = false
    ∧ ∃ s : State, s.timeoutDue = true ∧ (s.transition.map (·.target)) = some (.state 0)
        ∧ s.inceptionReached (some { reference := .va, angle := 9000 }) = false := by
  refine ⟨⟨{ runningIn .default with seq := { (runningIn .default).seq with
      chosen := some { target := .finish, cause := .timeout, boundary := 0, inception := none } } }, _, _, rfl, rfl⟩,
    ⟨_, _, rfl, rfl, rfl, rfl, by decide⟩, by decide +kernel, by decide +kernel,
    clock 100 100 (runningIn (timed (.state 0))), by decide +kernel, by decide +kernel, by decide +kernel⟩

/-- Each verdict of Table 6-1, at the ends of a window from 90 to 110. -/
theorem test_meets_VisitsEndWithVerdicts :
    let a : Assessment := { mask := 1, expectation := .mustTrip, nominal := 100, tolAbs := 10, permille := 0 }
    let tol := max a.tolAbs (a.nominal * a.permille / 1000)
    (89 + tol < a.nominal ∧ a.nominal ≤ 90 + tol ∧ 110 ≤ a.nominal + tol ∧ a.nominal + tol < 111)
    ∧ ∃ v ctx, ramping.seq.visit = some v ∧ ramping.assess = some ctx
      ∧ ramping.synth.ramp.ramp = some ramp ∧ ramping.synth.ramp.entry = v.entry
      ∧ ramping.synth.ramp.state = .stepping ∧ ctx.captures.length ≤ ramping.log.unreserved := by
  refine ⟨by decide, _, _, rfl, rfl, rfl, rfl, rfl, by decide⟩

/-- State 0 with an inception at 90 degrees of VA. -/
def deferred (s : State) : State :=
  let r := { StateRecord.default with inception := some { reference := .va, angle := 9000 } }
  { s with store := { s.store with
      slots := s.store.slots.set 0 { active := some r, staged := none, revision := 1 } } }

/-- A first entry whose start is fixed for this boundary. -/
def starting (m : StartMode) : State :=
  { inPhase .armed with seq := { (inPhase .armed).seq with
      mode := some m, startBoundary := some 0, startTime := some 0 } }

/-- FIRST_ENTRY at a boundary: at its start time and before it, at its fixed start and before it, with an
inception to wait for, and with one already waited for. -/
theorem test_meets_FirstEntryStartsTheShot :
    EnteredRecord (starting (.atTime 0)) 0 .default ∧ EnteredRecord (staged .panel (starting .peer)) 0 .default
    ∧ (starting (.atTime 0)).timedStart = true ∧ (starting (.atTime 0)).timeOfDay = 0 % daySpan
    ∧ (starting .immediate).timedStart = false ∧ (starting .immediate).seq.startBoundary = some 0
    ∧ (starting .immediate).time.counter % 100 = 0 ∧ (starting .immediate).time.boundaryPassed = false
    ∧ (armedIn .onCommand).seq.startBoundary = none ∧ (armedIn (.atTime 100)).seq.startTime = none
    ∧ (starting .immediate).seq.chosen = none
    ∧ (starting .immediate).inceptionReached ((starting .immediate).inceptionOf (.state 0)) = true
    ∧ (deferred (starting .immediate)).seq.deferring = false
    ∧ (deferred (starting .immediate)).inceptionReached
        ((deferred (starting .immediate)).inceptionOf (.state 0)) = false
    ∧ ∃ (s : State) (c : Chosen), s.seq.chosen = some c ∧ s.seq.deferring = true
        ∧ s.inceptionReached c.inception = false := by
  refine ⟨.inr ⟨.inr (by decide +kernel), by decide +kernel⟩, .inl ⟨rfl, .panel, by decide +kernel⟩, rfl,
    by decide, rfl, rfl, rfl, rfl, rfl, rfl, rfl, by decide +kernel, rfl, by decide +kernel,
    { starting .immediate with seq := { (starting .immediate).seq with
        chosen := some { target := .state 0, cause := .start, boundary := 0,
                         inception := some { reference := .va, angle := 9000 } }
        deferring := true } }, _, rfl, rfl, by decide +kernel⟩

/-- Output actions of delay 0 on BO1, the second of them once-flagged, and one on BO2 of a delay. -/
def immediate : StateRecord :=
  { StateRecord.default with actions :=
      [{ output := 0, level := false, delay := 0, once := false },
       { output := 0, level := true, delay := 0, once := true },
       { output := 1, level := true, delay := 3, once := false }] }

/-- The last scheduled action of delay 0 is the one in force; at an entry with the level 1 applied the output that
follows receive rises. -/
theorem test_outputs_at_entry :
    (ImmediateAction State.reset 0 immediate 0).map (·.level) = some true
    ∧ ImmediateAction State.reset 0 immediate 1 = none
    ∧ (let s := starting .immediate
       let s := { s with tp := { s.tp with applied := true }
                         outputs := #v[⟨.tpReceive, false⟩, ⟨.none, false⟩, ⟨.none, false⟩, ⟨.none, false⟩] }
       (match exec .firstEntry s with
        | .next t => some (t.outputs[0].level, t.log.records.length)
        | _ => none) = some (true, 2))
    ∧ immediate.actions.length ≤ 4
    ∧ ((starting .immediate).assess.map fun c : AssessContext => c.captures.length).getD 0 + 11
      ≤ (starting .immediate).log.unreserved := by decide +kernel

/-- STATE_ENTRY at the timeout of state 0 into itself: the entry, the deferral and the wait. -/
theorem test_meets_StateEntryMakesTheTransition :
    (runningIn .default).choiceOfState.isNone = true
    ∧ (let s := clock 100 100 (runningIn (timed (.state 0)))
       (s.choiceOfState.map fun x => (x.2, s.inceptionReached x.1.inception)) = some (0, true)
       ∧ s.seq.visit ≠ none ∧ EnteredRecord s 0 .default)
    ∧ (let s := clock 100 100 (deferred (runningIn (timed (.state 0))))
       (s.choiceOfState.map fun x => (x.2, s.inceptionReached x.1.inception)) = some (0, false)
       ∧ s.seq.deferring = false) := by
  refine ⟨by decide +kernel, ⟨by decide +kernel, by decide, .inr ⟨.inr (by decide +kernel), by decide +kernel⟩⟩,
    by decide +kernel, rfl⟩

/-- The ends of a shot: an exit, the shot limit, a soft abort's boundary, the end of the ramp-down and of
CLOSING. -/
theorem test_meets_ShotEndsInOrder :
    (runningIn .default).exitDue = false ∧ (runningIn .default).shotLimitDue = false
    ∧ (let s := clock 100 100 (runningIn (timed .finish))
       s.choiceOpen = true ∧ (s.transition.map (·.target)) = some .finish ∧ s.seq.visit ≠ none)
    ∧ (let s := clock 3600000000 0 (runningIn .default)
       s.seq.firstEntryAt = some 0 ∧ 0 + 3600000000 ≤ s.now ∧ s.seq.endCause = none
         ∧ s.time.boundaryPassed = false)
    ∧ (∃ s : State, s.seq.phase = .running ∧ s.seq.softEnd = some 0 ∧ 0 ≤ s.now ∧ s.seq.visit ≠ none)
    ∧ (∃ s : State, s.seq.phase = .rampingDown ∧ s.seq.visit = none ∧ s.seq.rampDownAt = some 0
        ∧ 0 + 20000 ≤ s.now)
    ∧ ∃ s : State, s.seq.phase = .closing ∧ s.seq.closingAt = some 0 ∧ 0 + 50000 ≤ s.now
        ∧ s.seq.endCause = some .completed := by
  refine ⟨by decide +kernel, by decide +kernel, ⟨by decide +kernel, by decide +kernel, by decide⟩,
    ⟨rfl, by decide, rfl, rfl⟩,
    ⟨{ runningIn .default with seq := { (runningIn .default).seq with softEnd := some 0 } }, rfl, rfl, by decide,
      by decide⟩,
    ⟨clock 20000 20000 { inPhase .rampingDown with
        seq := { (inPhase .rampingDown).seq with rampDownAt := some 0 } }, rfl, rfl, rfl, by decide⟩,
    clock 50000 50000 { inPhase .closing with
      seq := { (inPhase .closing).seq with closingAt := some 0, endCause := some .completed } }, rfl, rfl,
    by decide, rfl⟩

/-- The Time Base in a lock state, its last edge at local time 0. -/
def lockedAs (l : LockState) (local_ counter : Nat) (s : State) : State :=
  { s with time := { s.time with lock := l, lastEdge := some 0, localTime := local_, counter := counter } }

/-- Edges at the ends of the small errors, slews pending, and the timeouts at their instants. -/
theorem test_meets_ClockFollowsThePps :
    State.reset.excluded .panel = false ∧ 4294967295 < 4294967296
    ∧ ((20 : Int) ≤ 20 ∧ (-20 : Int) ≤ 999980 - 1000000 ∧ (20 : Int) < 21)
    ∧ (lockedAs .locking 999998 0 State.reset).time.lastEdge = some 0 ∧ 999998 ≤ 999998 - 0 ∧ 1000002 < 1000003
    ∧ (∃ s : State, s.time.counter = 500004 ∧ s.time.lock = .locked ∧ s.time.slew = .insert)
    ∧ (∃ s : State, s.time.counter = 500004 ∧ s.time.lock = .holdover ∧ s.time.slew = .drop)
    ∧ ((lockedAs .locked 1100000 0 State.reset).time.timeoutDue = true
      ∧ (lockedAs .locking 1100000 0 State.reset).time.timeoutDue = true
      ∧ (lockedAs .holdover 61100000 0 State.reset).time.holdoverDue = true)
    ∧ (State.reset.time.slewDue = false ∧ State.reset.time.timeoutDue = false
      ∧ State.reset.time.holdoverDue = false)
    ∧ ((lockedAs .locked 1100000 0 (armedIn .peer)).seq.phase = .armed
      ∧ (lockedAs .locked 1100000 0 (armedIn .peer)).timedStart = true
      ∧ (lockedAs .locked 1100000 0 (armedIn .peer)).seq.visit = none)
    ∧ (∃ s : State, QualityFollows s) ∧ ¬ QualityFollows State.reset := by
  refine ⟨rfl, by decide, by decide, rfl, by decide, by decide,
    ⟨{ State.reset with time := { State.reset.time with counter := 500004, lock := .locked, slew := .insert } },
      rfl, rfl, rfl⟩,
    ⟨{ State.reset with time := { State.reset.time with counter := 500004, lock := .holdover, slew := .drop } },
      rfl, rfl, rfl⟩, by decide, by decide, by decide,
    ⟨{ inPhase .armed with time := { State.reset.time with armedLocked := true } }, by decide, rfl⟩,
    fun h => absurd h.1 (by decide)⟩

/-- A peer-linked shot in a phase, with the link UP. -/
def linked (s : State) : State := { synced s with seq := { s.seq with peerLinked := true } }

/-- A record with a condition that is true with hold 0, one that is true with a hold, and one that is false. -/
def watching : StateRecord :=
  { StateRecord.default with conditions :=
      [{ enable := 0, value := 0, hold := 0, next := .finish }, { enable := 0, value := 0, hold := 3, next := .finish },
       { enable := 1, value := 1, hold := 3, next := .finish }] }

/-- A record in slot 0. -/
def holdingRecord (r : StateRecord) (s : State) : State :=
  { s with store := { s.store with slots := s.store.slots.set 0 { active := some r, staged := none, revision := 1 } } }

/-- The conditions of the visit, and what stands on the list with its owner, after a command. -/
def conditionsAfter (c : Instr) (s : State) :
    Option (List (Bool × Option Nat) × List (Work × Nat × Option Nat)) :=
  match exec c s with
  | .next t => some (((t.seq.visit.map (·.conditions)).getD []).map fun c => (c.truth, c.candidate),
      t.actions.entries.map fun a => (a.work, a.due, a.owner))
  | _ => none

/-- The three conditions at a first entry at 0, and at an entry at 100 that removes the action of the visit before. -/
theorem test_conditions_at_entry :
    watching.conditions.length ≤ 4
    ∧ conditionsAfter .firstEntry (holdingRecord watching (starting .immediate))
      = some ([(true, some 100), (true, none), (false, none)], [(.condition 1, 300, some 0)])
    ∧ conditionsAfter .stateEntry
        (withAction (.condition 2) (some 0) (clock 100 100 (holdingRecord watching (runningIn (timed (.state 0))))))
      = some ([(true, some 200), (true, none), (false, none)], [(.condition 1, 400, some 100)]) :=
  ⟨by decide, by decide +kernel, by decide +kernel⟩

/-- The visit to state 0 with one assessment, which waits for signal 0. -/
def judging (s : State) : State :=
  { s with assess := some { state := 0, entry := 0, captures := [
      { capture := .waiting
        assessment := { mask := 1, expectation := .mustTrip, nominal := 100, tolAbs := 10, permille := 0 } }] } }

/-- What a command writes, sends and counts: the bodies of the records, the frames, and the verdicts ABORTED. -/
def reported (c : Instr) (s : State) : Option (List RecordBody × List PeerFrame × Nat) :=
  match exec c s with
  | .next t => some (t.log.records.map (·.body), t.peer.sent, t.log.verdicts.aborted)
  | _ => none

/-- The verdict of a visit that ends at a state entry stands before the STATE_ENTRY. -/
theorem test_visit_end_precedes_the_entry :
    reported .stateEntry (judging (clock 100 100 (holdingRecord .default (runningIn (timed (.state 0))))))
      = some ([.assessment 0 1 .noTrip none 90 110, .stateEntry 0 .timeout false], [], 0) := by decide +kernel

/-- A peer-linked shot with the link UP, running in a state with one assessment. -/
def linkedShot : State := linked (judging (runningIn .default))

/-- The same with a soft abort waiting for this boundary, and a second cause. -/
def softEnding : State :=
  { linkedShot with seq := { linkedShot.seq with
      endCause := some (.abort .aborted), secondary := some .overtemp, softEnd := some 0 } }

/-- A hard abort, the shot limit and the boundary of a soft abort, in a peer-linked shot with the link UP: the end
cause is sent and the verdict is ABORTED; as a second cause a hard abort sends nothing. -/
theorem test_aborts_are_judged_and_sent :
    reported .eStopAsserted linkedShot
      = some ([.abort .eStop false, .assessment 0 1 .aborted none 90 110], [.abort .eStop], 1)
    ∧ reported .eStopAsserted softEnding = some ([.assessment 0 1 .aborted none 90 110], [], 1)
    ∧ reported .sampleBoundary (missingIA 2 true (State.passBoundary linkedShot))
      = some ([.abort .disconnected false, .assessment 0 1 .aborted none 90 110], [.abort .disconnected], 1)
    ∧ reported .shotLimit (clock 3600000000 0 linkedShot)
      = some ([.abort .shotLimit false, .assessment 0 1 .aborted none 90 110], [.abort .shotLimit], 1)
    ∧ reported .rampDownStart softEnding = some ([.assessment 0 1 .aborted none 90 110], [], 1) :=
  ⟨by decide +kernel, by decide +kernel, by decide +kernel, by decide +kernel, by decide +kernel⟩

/-- The same with an AT_STATE_END pending again, and the keepalive timer expired. -/
def pendingEnd : State :=
  { softEnding with seq := { softEnding.seq with endAtExit := true }
                    guard := { softEnding.guard with expiry := some 0 } }

/-- The flag of a pending AT_STATE_END, the secondary cause and the number of records after a command. -/
def flagAfter (c : Instr) (s : State) : Option (Bool × Option AbortCause × Nat) :=
  match exec c s with
  | .next t => some (t.seq.endAtExit, t.seq.secondary, t.log.records.length)
  | _ => none

/-- A plain ABORT and an expiry of the keepalive timer each drop the pending AT_STATE_END, although a secondary cause
is stored; and another AT_STATE_END is then recorded. -/
theorem test_later_causes_drop_the_flag :
    flagAfter (.abort .panel 0) pendingEnd = some (false, some .overtemp, 0)
    ∧ flagAfter .keepaliveExpiry pendingEnd = some (false, some .overtemp, 0)
    ∧ flagAfter (.abort .panel 1) pendingEnd = some (true, some .overtemp, 0)
    ∧ flagAfter (.abort .panel 1) softEnding = some (true, some .overtemp, 1)
    ∧ softEnding.seq.endCause ≠ none ∧ softEnding.seq.softEnd ≠ none ∧ softEnding.peer.link = .up :=
  ⟨by decide +kernel, by decide +kernel, by decide +kernel, by decide +kernel, by decide, by decide, rfl⟩

/-- A loss of lock ends an armed peer-linked shot with TIME_LOST, and a lost link one with PEER_LOST: both are
recorded, and the first alone is sent. -/
theorem test_time_and_peer_are_lost :
    reported .ppsTimeout (linked (lockedAs .locked 1100000 0 (armedIn .peer)))
      = some ([.abort .timeLost false], [.abort .timeLost], 0)
    ∧ (let s := linked (armedIn .peer)
       reported .lossTimerExpiry { s with peer := { s.peer with lossAt := some 0 } }
        = some ([.abort .peerLost false], [], 0)) :=
  ⟨by decide +kernel, by decide +kernel⟩

/-- The last edge falls due with a resync pending: it raises receive, and the resync lowers it again. -/
theorem test_resync :
    let s := withAction (.tpEdge true) none (runningIn .default)
    reported .tpEdgeDue { s with tp := { s.tp with resync := true } } = some ([.tpEvent .resync], [], 0)
    ∧ ∃ m t, exec .tpEdgeDue s = .next m
        ∧ exec .tpEdgeDue { s with tp := { s.tp with resync := true } } = .next t
        ∧ m.tp.receive = true ∧ t.tp.receive = false ∧ s.tp.lastReceived = false :=
  ⟨by decide +kernel, _, _, rfl, rfl, by decide +kernel, by decide +kernel, rfl⟩

/-- A record that ramps the phase of the voltages from 10 degrees, with VB at -120 degrees. -/
def turning : StateRecord :=
  { StateRecord.default with
    channels := StateRecord.default.channels.set .vb { ChannelEntry.default with phase := -12000 }
    ramp := some { target := .group .v, quantity := .phase, start := 1000, step := 1, limit := 2000, dwell := 1
                   stopMask := 1 } }

/-- At an entry phase A takes the ramp start, phase B keeps its spacing, and a channel beside the group its entry. -/
theorem test_ramped_group_at_entry :
    (RampOn turning .vb .phase).isSome = true ∧ RampOn turning .ia .phase = none
    ∧ RampOn turning .vb .amplitude = none
    ∧ (match exec .firstEntry (holdingRecord turning (starting .immediate)) with
       | .next t => some [(t.synth.channels.get .va).phase, (t.synth.channels.get .vb).phase,
           (t.synth.channels.get .ia).phase]
       | _ => none) = some [1000, -11000, 0] := by decide +kernel

/-- The link in each state, its timers running and expired, and a peer-linked shot in ARMED and RUNNING. -/
theorem test_meets_LinkFollowsTheFrames :
    (∃ version : Byte, version ≠ Config.protocolVersion) ∧ CarriesNews .keepalive
    ∧ State.reset.peer.link = .down ∧ (synced .reset).peer.link = .up
    ∧ (∃ s : State, s.peer.link = .linking)
    ∧ State.reset.peer.sendAt ≤ State.reset.now ∧ (∃ s : State, s.now < s.peer.sendAt)
    ∧ (∀ e, State.reset.peer.lossAt = some e → State.reset.now < e)
    ∧ (∃ (s : State) (e : Nat), s.peer.lossAt = some e ∧ e ≤ s.now)
    ∧ ((linked (inPhase .armed)).seq.peerLinked = true ∧ (linked (inPhase .armed)).peer.farEnded = none
      ∧ (linked (inPhase .armed)).seq.visit = none)
    ∧ ((linked (runningIn .default)).seq.phase = .running ∧ (linked (runningIn .default)).seq.endCause = none) := by
  refine ⟨⟨~~~Config.protocolVersion, fun h => ?_⟩, trivial, rfl, rfl,
    ⟨{ State.reset with peer := { State.reset.peer with link := .linking } }, rfl⟩, by decide,
    ⟨{ State.reset with peer := { State.reset.peer with sendAt := 1 } }, by decide⟩, nofun,
    ⟨{ State.reset with peer := { State.reset.peer with lossAt := some 0 } }, 0, rfl, by decide⟩,
    ⟨rfl, rfl, rfl⟩, rfl, rfl⟩
  have bit := congrArg (fun v : Byte => v.getLsbD 0) h
  simp at bit

/-- An agreement in a state, for the start time 0, armed in mode PEER or to propose. -/
def agreeing (m : StartMode) (a : Agreement) : State :=
  { linked (starting m) with peer := { (linked (starting m)).peer with agreement := a } }

/-- A proposal before each row of Table 9-3, an acceptance and a refusal, and the deadline. -/
theorem test_meets_StartsAreAgreed :
    (inPhase .running).seq.phase ≠ .armed ∧ (agreeing .peer .agreed).seq.mode = some .peer
    ∧ (agreeing .peer .agreed).seq.startTime = some 0 ∧ (agreeing .peer .agreed).seq.startTime ≠ some 100
    ∧ (agreeing .peer .waiting).peer.agreement ≠ .agreed ∧ (agreeing .peer .waiting).time.lock = .locked
    ∧ (agreeing .peer .waiting).aheadOf 199999 < 200000 ∧ 200000 ≤ (agreeing .peer .waiting).aheadOf 200000
    ∧ (agreeing (.atTime 0) .proposing).peer.agreement = .proposing
    ∧ (agreeing (.atTime 0) .proposing).peer.link = .up ∧ (agreeing (.atTime 0) .proposing).seq.visit = none
    ∧ (agreeing (.atTime 0) .proposing).aheadOf 100000 ≤ 100000
    ∧ State.reset.deadlineDue = false ∧ (∃ s : State, s.peer.link = .up ∧ s.time.lock ≠ .locked) := by
  refine ⟨by decide, rfl, rfl, by decide, by decide, rfl, by decide +kernel, by decide +kernel, rfl, rfl, rfl,
    by decide +kernel, rfl, { State.reset with peer := { State.reset.peer with link := .up } }, rfl, by decide⟩

/-- An edge late, on its way and dropped; an edge due, with and without a resync; a shot of the peer and
none. -/
theorem test_meets_RemoteEventsAreTaken :
    ((synced .reset).peer.link = .up ∧ (synced .reset).peerShot = false ∧ (linked (inPhase .closing)).peerShot = true
      ∧ (linked (inPhase .closing)).peer.link = .up)
    ∧ ((synced .reset).tp.source = .peer ∧ ∃ s : State, s.tp.source ≠ .peer)
    ∧ ((clock 10000 10000 State.reset).aheadOf (0 + 100 * 100) ≤ 0
      ∧ 0 < State.reset.aheadOf (0 + 100 * 100) ∧ State.reset.actions.held .tpEdge < 13)
    ∧ (∃ s : State, 13 ≤ s.actions.held .tpEdge)
    ∧ ((withAction (.tpEdge true) none State.reset).dueAction
        = some { due := 0, insertion := 0, work := .tpEdge true, owner := none }
      ∧ (withAction (.tpEdge true) none State.reset).actions.held .tpEdge = 1
      ∧ State.reset.tp.resync = false ∧ ∃ s : State, s.tp.resync = true)
    ∧ ((runningIn .default).seq.firstEntryAt = some 0 ∧ (runningIn .default).seq.startTime = some 0
      ∧ State.reset.seq.firstEntryAt = none ∧ aheadBy 0 0 ≤ 0 ∧ aheadBy 4294967295 0 < 4294967296
      ∧ ¬ aheadBy 4294967296 0 < 4294967296)
    ∧ (∃ t, exec .tpEdgeDue (withAction (.tpEdge true) none (runningIn .default)) = .next t
      ∧ t.tp.receive ≠ (runningIn .default).tp.receive)
    ∧ (∀ n : Fin 4, State.reset.outputs[n].role = .tpReceive → State.reset.outputs[n].level = State.reset.tp.receive)
    ∧ ((linked (runningIn .default)).seq.endCause = none ∧ 12 ≤ (linked (runningIn .default)).log.unreserved)
    ∧ (linked (inPhase .armed)).seq.visit = none
    ∧ ((linked (inPhase .rampingDown)).peerShot = true ∧ (linked (inPhase .rampingDown)).seq.secondary = none) := by
  refine ⟨by decide, ⟨rfl, { State.reset with tp := { State.reset.tp with source := .localLoop } }, by decide⟩,
    by decide +kernel,
    ⟨{ State.reset with actions :=
        { entries := List.replicate 13 { due := 0, insertion := 0, work := .tpEdge true, owner := none }
          next := 1 } }, by decide +kernel⟩,
    ⟨rfl, by decide +kernel, rfl, { State.reset with tp := { State.reset.tp with resync := true } }, rfl⟩,
    ⟨rfl, rfl, rfl, by decide +kernel, by decide +kernel, by decide +kernel⟩,
    ⟨_, rfl, by decide +kernel⟩, by decide +kernel, by decide, rfl, by decide, rfl⟩

/-- A record with every list empty passes the checks. -/
theorem test_meets_RecordBytesRoundTrip :
    rawRecord.wellFormed = true ∧ firstFailure (recordChecks State.reset.store.config 0 rawRecord) = none
    ∧ 65535 < 65536 := by decide +kernel

theorem test_meets_PeerFramesRoundTrip :
    (arrival .keepalive).wellFormed = true ∧ (arrival (.startPropose 0)).wellFormed = true ∧ 0 < daySpan := by
  decide

/-- Records with their fields at the ends of their ranges, and answers that carry as much as they may. -/
theorem test_meets_BytesOfRecordsAndResponses :
    255 < 256 ∧ 4294967295 < 4294967296 ∧ daySpan - 1 < daySpan
    ∧ BodyInRange (.inputChange 255 true true (daySpan - 1))
    ∧ BodyInRange (.rampResult 31 (.channel .va) .phase (some (-2147483648)))
    ∧ BodyInRange (.adjust (.group .i) .amplitude 2147483647 .panel)
    ∧ BodyInRange (.assessment 31 255 .aborted none 4294967295 4294967295)
    ∧ BodyInRange (.shotEnd .completed none 4294967295 true State.reset.clipMask ⟨15, 15, 15, 15, 15, 15, 15⟩ .good)
    ∧ BodyInRange (.shotStart .panel .immediate .free none) ∧ 65535 < 65536
    ∧ (filled 8 0 .reset).log.records.length ≤ 8 := by
  refine ⟨by decide, by decide, by decide, ⟨by decide, by decide⟩, ?_, ⟨by decide, by decide⟩,
    ⟨by decide, by decide, by decide, nofun⟩, ?_, nofun, by decide, by rw [filled_length]⟩
  · intro x h
    cases h
    decide
  · unfold BodyInRange
    decide

end Sys2Proof.Tests
end

section
/-! PROOF. NOTIFY_ENABLE and NOTIFY_ACK (R171 to R173): which masks name causes, the next state of each
command in each of its cases, and the two obligations about them. -/

namespace Sys2Proof.Proofs.Notify

open Sys2Proof Sys2Proof.Machine

/-! ### Masks, causes and selectors -/

theorem getLsbD_bitsAboveNine (k : Nat) :
    (0xFC00#16).getLsbD k = (decide (k < 16) && decide (10 ≤ k)) := by
  have shifted : 0xFC00#16 = BitVec.allOnes 16 <<< 10 := by decide
  rw [shifted, BitVec.getLsbD_shiftLeft]
  simp only [BitVec.getLsbD_allOnes]
  grind

/-- The masks that name no cause above bit 9 are those below 1024. -/
theorem causesInRange_iff (m : Mask) : causesInRange m = true ↔ m.toNat < 1024 := by
  rw [causesInRange, decide_eq_true_iff]
  constructor
  · intro clear
    refine Nat.lt_pow_two_of_testBit (n := 10) m.toNat fun k above => ?_
    have bit := congrArg (·.getLsbD k) clear
    have past := m.getLsbD_of_ge k
    simp only [BitVec.getLsbD_and, getLsbD_bitsAboveNine] at bit
    grind [BitVec.getLsbD]
  · intro small
    refine BitVec.eq_of_getLsbD_eq fun k _ => ?_
    have above : 10 ≤ k → m.getLsbD k = false := fun le =>
      Nat.testBit_lt_two_pow (small.trans_le (Nat.pow_le_pow_right (by decide) le : 2 ^ 10 ≤ 2 ^ k))
    simp only [BitVec.getLsbD_and, getLsbD_bitsAboveNine]
    grind

theorem causesInRange_eq_false (m : Mask) (h : 1024 ≤ m.toNat) : causesInRange m = false := by
  rw [Bool.eq_false_iff, Ne, causesInRange_iff]
  omega

theorem getLsbD_causesOf (m : Mask) (k : Nat) (h : k < 10) : (causesOf m).getLsbD k = m.getLsbD k := by
  simp [causesOf, h]

/-- A mask that holds a cause's bit names that cause. -/
theorem bit_and_causesOf (m : Mask) (c : NotifyCause) (h : c.bit.setWidth 16 &&& m = c.bit.setWidth 16) :
    c.bit &&& causesOf m = c.bit := by
  have narrowed := congrArg (BitVec.setWidth 10) h
  simpa [causesOf, BitVec.setWidth_and] using narrowed

theorem bit_ne_zero (c : NotifyCause) : c.bit ≠ 0 := by cases c <;> decide

theorem boolOfCode_unknown (n : Nat) (h : 1 < n) : boolOfCode n = none := by
  match n, h with
  | n + 2, _ => rfl

theorem boolOfCode_known (n : Nat) (h : n ≤ 1) : ∃ b, boolOfCode n = some b := by
  match n, h with
  | 0, _ => exact ⟨_, rfl⟩
  | 1, _ => exact ⟨_, rfl⟩

/-! ### Sets of causes -/

/-- The enables that NOTIFY_ENABLE leaves: SET adds the masked causes, CLEAR removes them (R172). -/
def enablesAfter (clear : Bool) (m : Mask) (enables : CauseSet) : CauseSet :=
  if clear then enables &&& ~~~causesOf m else enables ||| causesOf m

theorem getLsbD_andNot_causesOf (x : CauseSet) (m : Mask) (k : Nat) (h : k < 10) :
    (x &&& ~~~causesOf m).getLsbD k = (x.getLsbD k && !m.getLsbD k) := by
  rw [BitVec.getLsbD_and, BitVec.getLsbD_not, getLsbD_causesOf m k h]
  simp [h]

theorem getLsbD_enablesAfter (clear : Bool) (m : Mask) (x : CauseSet) (k : Nat) (h : k < 10) :
    (enablesAfter clear m x).getLsbD k
      = if clear then x.getLsbD k && !m.getLsbD k else x.getLsbD k || m.getLsbD k := by
  cases clear with
  | true => exact getLsbD_andNot_causesOf x m k h
  | false => simp [enablesAfter, getLsbD_causesOf m k h]

/-- The rule's bits single out one set of enables (R172). -/
theorem eq_enablesAfter (sel : Nat) (clear : Bool) (m : Mask) (x e : CauseSet)
    (known : boolOfCode sel = some clear)
    (bits : ∀ k, k < 10 → e.getLsbD k
      = if sel = 0 then x.getLsbD k || m.getLsbD k else x.getLsbD k && !m.getLsbD k) :
    e = enablesAfter clear m x := by
  refine BitVec.eq_of_getLsbD_eq fun k h => ?_
  rw [bits k h, getLsbD_enablesAfter clear m x k h]
  match sel, known with
  | 0, known => cases known; rfl
  | 1, known => cases known; rfl

/-- A named cause is gone from a set once the masked causes are cleared. -/
theorem andNot_causesOf_and_bit (x : CauseSet) (m : Mask) (c : NotifyCause)
    (h : c.bit &&& causesOf m = c.bit) : (x &&& ~~~causesOf m) &&& c.bit = 0 := by
  rw [← h]
  ext k
  grind

theorem raise_requests_and_bit (q : PortInterface) (c : NotifyCause) :
    (q.raise c).requests &&& c.bit = c.bit := by
  rw [PortInterface.raise, BitVec.and_comm, BitVec.or_comm]
  exact and_or_self _ _

/-- Raising an enabled cause asserts the NOTIFY line, whatever stood requested (R171). -/
theorem raise_notifyLine (q : PortInterface) (c : NotifyCause) (h : c.bit &&& q.enables = c.bit) :
    (q.raise c).notifyLine = true := by
  rw [PortInterface.notifyLine, decide_eq_true_iff]
  intro released
  refine bit_ne_zero c ?_
  calc c.bit
      = c.bit &&& q.enables := h.symm
    _ = ((q.raise c).requests &&& c.bit) &&& q.enables := by rw [raise_requests_and_bit]
    _ = c.bit &&& ((q.raise c).requests &&& (q.raise c).enables) := by
        rw [BitVec.and_comm (q.raise c).requests, BitVec.and_assoc]; rfl
    _ = 0 := by rw [released]; exact BitVec.and_zero

/-! ### What the two commands do -/

/-- A Port Interface whose NOTIFY_ENABLE has been taken (R172). -/
def enabled (q : PortInterface) (e : CauseSet) : PortInterface :=
  { q with enables := e, response := { status := .ok, data := .enables e } }

/-- A Port Interface whose NOTIFY_ACK has been taken (R173). -/
def acknowledged (q : PortInterface) (m : Mask) : PortInterface :=
  { q with
    requests := q.requests &&& ~~~causesOf m
    repeated := q.repeated &&& ~~~causesOf m
    response := { status := .ok, data := .notified q.requests q.repeated } }

/-- A response to a port whose interface has just been replaced is part of that one replacement. -/
theorem respond_setPort (s : State) (p : Port) (q : PortInterface) (st : Status) (d : RespData) :
    (s.setPort p q).respond p st d = s.setPort p { q with response := { status := st, data := d } } := by
  simp [State.respond, State.setPort]

theorem exec_notifyEnable (p : Port) (sel : Nat) (m : Mask) (s : State) :
    exec (.notifyEnable p sel m) s = execNotifyEnable p sel m s := by
  rfl

theorem exec_notifyAck (p : Port) (m : Mask) (s : State) :
    exec (.notifyAck p m) s = execNotifyAck p m s := by
  rfl

theorem exec_notifyEnable_unknownSelector (p : Port) (sel : Nat) (m : Mask) (s : State) (h : 1 < sel) :
    exec (.notifyEnable p sel m) s = .next (s.answered p .range (.param .selector)) := by
  rw [exec_notifyEnable, execNotifyEnable, State.open_, boolOfCode_unknown sel h, State.answered]

theorem exec_notifyEnable_badMask (p : Port) (sel : Nat) (clear : Bool) (m : Mask) (s : State)
    (known : boolOfCode sel = some clear) (bad : 1024 ≤ m.toNat) :
    exec (.notifyEnable p sel m) s = .next (s.answered p .range (.param .causes)) := by
  simp [exec_notifyEnable, execNotifyEnable, State.open_, known, causesInRange_eq_false m bad, State.answered]

/-- NOTIFY_ENABLE taken: the sending port's enables and response are replaced, and the frame is taken for the
keepalive (R164, R172). -/
theorem exec_notifyEnable_taken (p : Port) (sel : Nat) (clear : Bool) (m : Mask) (s : State)
    (known : boolOfCode sel = some clear) (small : m.toNat < 1024) :
    exec (.notifyEnable p sel m) s = .next ((s.takeFrame p).setPort p
      (enabled (s.ports.get p) (enablesAfter clear m (s.ports.get p).enables))) := by
  simp [exec_notifyEnable, execNotifyEnable, State.open_, known, (causesInRange_iff m).2 small, respond_setPort,
    enabled, enablesAfter]

theorem exec_notifyAck_badMask (p : Port) (m : Mask) (s : State) (bad : 1024 ≤ m.toNat) :
    exec (.notifyAck p m) s = .next (s.answered p .range (.param .causes)) := by
  simp [exec_notifyAck, execNotifyAck, State.open_, causesInRange_eq_false m bad, State.answered]

/-- NOTIFY_ACK taken: the sending port's sets and response are replaced, and the frame is taken for the
keepalive (R164, R173). -/
theorem exec_notifyAck_taken (p : Port) (m : Mask) (s : State) (small : m.toNat < 1024) :
    exec (.notifyAck p m) s = .next ((s.takeFrame p).setPort p (acknowledged (s.ports.get p) m)) := by
  simp [exec_notifyAck, execNotifyAck, State.open_, (causesInRange_iff m).2 small, respond_setPort, acknowledged]

/-! ### The obligations -/

/-- Settles O17: a known selector and a mask in range meet the one taken case, in which the bits asked of the
enables fix them; the selector is refused first, so either refusal of two bad parameters may be named. -/
theorem notifyEnableSetsAndClears : Obligations.NotifyEnableSetsAndClears := by
  intro p m s
  refine ⟨fun sel unknown _ => exec_notifyEnable_unknownSelector p sel m s unknown,
    fun sel unknown _ => .inl (exec_notifyEnable_unknownSelector p sel m s unknown),
    fun sel known bad => ?_, fun sel e known small bits => ?_⟩
  · obtain ⟨clear, code⟩ := boolOfCode_known sel known
    exact exec_notifyEnable_badMask p sel clear m s code bad
  · obtain ⟨clear, code⟩ := boolOfCode_known sel known
    obtain rfl := eq_enablesAfter sel clear m _ e code bits
    refine ⟨_, exec_notifyEnable_taken p sel clear m s code small, rfl, ?_, ?_, ?_⟩ <;>
      simp [enabled, PortInterface.notifyLine]

/-- A cause raised just before a NOTIFY_ACK that names it is shown by the response and cleared (R173). -/
theorem exec_notifyAck_after_raise (p : Port) (m : Mask) (s : State) (c : NotifyCause)
    (small : m.toNat < 1024) (named : c.bit &&& causesOf m = c.bit) :
    ∃ t, exec (.notifyAck p m) (s.raiseFor p c) = .next t
      ∧ (t.ports.get p).requests &&& c.bit = 0
      ∧ ∃ req rep, (t.ports.get p).response = { status := .ok, data := .notified req rep }
          ∧ req &&& c.bit = c.bit := by
  refine ⟨_, exec_notifyAck_taken p m _ small, ?_, ((s.ports.get p).raise c).requests,
    ((s.ports.get p).raise c).repeated, ?_, raise_requests_and_bit _ c⟩
  · simpa [acknowledged] using andNot_causesOf_and_bit ((s.ports.get p).raise c).requests m c named
  · simp [acknowledged]

/-- A cause raised just after a NOTIFY_ACK sets its request anew, and the line where it is enabled (R173). -/
theorem exec_notifyAck_before_raise (p : Port) (m : Mask) (s : State) (c : NotifyCause) (small : m.toNat < 1024) :
    ∃ t, exec (.notifyAck p m) s = .next t
      ∧ ((t.raiseFor p c).ports.get p).requests &&& c.bit = c.bit
      ∧ (c.bit &&& (s.ports.get p).enables = c.bit →
          ((t.raiseFor p c).ports.get p).notifyLine = true) := by
  refine ⟨_, exec_notifyAck_taken p m s small, ?_, fun isEnabled => ?_⟩
  · simpa using raise_requests_and_bit (acknowledged (s.ports.get p) m) c
  · simpa using raise_notifyLine (acknowledged (s.ports.get p) m) c isEnabled

/-- Settles O18: the one taken case read off bit by bit, and the two orders of a raise and an acknowledgement
as the lemmas before it give them. -/
theorem notifyAckClears : Obligations.NotifyAckClears := by
  intro p m s
  refine ⟨exec_notifyAck_badMask p m s, fun small => ?_, fun c small holds =>
    ⟨exec_notifyAck_after_raise p m s c small (bit_and_causesOf m c holds),
      exec_notifyAck_before_raise p m s c small⟩⟩
  have ports : ((s.takeFrame p).setPort p (acknowledged (s.ports.get p) m)).ports.get p
      = acknowledged (s.ports.get p) m := by simp
  refine ⟨_, exec_notifyAck_taken p m s small, rfl, by simp, ?_⟩
  rw [ports]
  exact ⟨rfl, rfl, getLsbD_andNot_causesOf (s.ports.get p).requests m,
    getLsbD_andNot_causesOf (s.ports.get p).repeated m, rfl⟩

end Sys2Proof.Proofs.Notify
end

section
/-! PROOF. The breadth-first walk of the program (R19 to R21): the order in which it takes the states, and that
it answers what the first state of that order fails with. -/

namespace Sys2Proof.Proofs.Walk

open Sys2Proof Sys2Proof.Machine

/-! ### The order of the walk -/

theorem newStates_eq (seen l : List (Fin 32)) : newStates seen l = (l.removeAll seen).eraseDups := by
  induction l generalizing seen with
  | nil => simp [newStates]
  | cons i rest ih =>
    rewrite [newStates, List.cons_removeAll, ih, ih]
    by_cases h : seen.contains i = true
    · rw [if_pos h, if_neg (by simpa using h)]
    · rewrite [if_neg h, if_pos (by simpa using h), List.eraseDups_cons]
      congr 2
      simp only [List.removeAll, List.filter_filter]
      refine List.filter_congr fun x _ => ?_
      by_cases e : x = i <;> simp [e, Bool.beq_eq_decide_eq]

theorem mem_newStates {seen l : List (Fin 32)} {j : Fin 32} : j ∈ newStates seen l ↔ j ∈ l ∧ j ∉ seen := by
  rewrite [newStates_eq, List.mem_eraseDups, List.removeAll, List.mem_filter]
  simp

theorem newStates_nodup (seen l : List (Fin 32)) : (newStates seen l).Nodup := by
  induction l generalizing seen with
  | nil => simp [newStates]
  | cons i rest ih =>
    rewrite [newStates]
    split
    · exact ih seen
    · exact List.nodup_cons.2 ⟨fun h => (mem_newStates.1 h).2 (by simp), ih _⟩

theorem append_newStates_nodup {seen : List (Fin 32)} (h : seen.Nodup) (l : List (Fin 32)) :
    (seen ++ newStates seen l).Nodup :=
  List.nodup_append.2 ⟨h, newStates_nodup seen l, fun _ a _ b e => (mem_newStates.1 b).2 (e ▸ a)⟩

/-- The states seen after a list of targets are those of the whole list of states named so far, each once. -/
theorem append_newStates_eraseDups {seen named : List (Fin 32)} (h : seen = named.eraseDups) (l : List (Fin 32)) :
    seen ++ newStates seen l = (named ++ l).eraseDups := by
  have same : l.removeAll seen = l.removeAll named := List.filter_congr fun x _ => by
    rewrite [Bool.eq_iff_iff]
    simp [h]
  rw [List.eraseDups_append, newStates_eq, same, h]

/-- The states that a walk takes from a queue on, in their order. -/
def walkOrder (slots : Vector Slot 32) : Nat → List (Fin 32) → List (Fin 32) → List (Fin 32)
  | _, [], _ => []
  | 0, _ :: _, _ => []
  | fuel + 1, i :: queue, seen =>
      i :: walkOrder slots fuel (queue ++ newStates seen (targetsOf slots i))
        (seen ++ newStates seen (targetsOf slots i))

/-- A walk answers the first failure of its order. -/
theorem walk_eq_findSome (slots : Vector Slot 32) (outputs : Vector Output 4) (fuel : Nat)
    (queue seen : List (Fin 32)) :
    walk slots outputs fuel queue seen = (walkOrder slots fuel queue seen).findSome? (examineState slots outputs) := by
  induction fuel generalizing queue seen with
  | zero => cases queue <;> rfl
  | succ fuel ih =>
    cases queue with
    | nil => rfl
    | cons i queue =>
      rewrite [walk, walkOrder, List.findSome?_cons]
      cases examineState slots outputs i with
      | some d => rfl
      | none => exact ih _ _

/-- What a walk has come to: `done` taken and `queue` still to be taken, which are the states named so far by
the roots and the states taken; each is reachable, and the fuel covers what can still be found. -/
structure Midway (slots : Vector Slot 32) (roots done queue seen : List (Fin 32)) (fuel : Nat) : Prop where
  split : seen = done ++ queue
  named : seen = (roots ++ done.flatMap (targetsOf slots)).eraseDups
  nodup : seen.Nodup
  reached : ∀ j ∈ seen, ∃ i ∈ roots, Relation.ReflTransGen (fun a b => b ∈ targetsOf slots a) i j
  covered : queue.length + 32 ≤ fuel + seen.length

theorem Midway.next {slots : Vector Slot 32} {roots done queue seen : List (Fin 32)} {fuel : Nat} {i : Fin 32}
    (h : Midway slots roots done (i :: queue) seen (fuel + 1)) :
    Midway slots roots (done ++ [i]) (queue ++ newStates seen (targetsOf slots i))
      (seen ++ newStates seen (targetsOf slots i)) fuel where
  split := by simp [h.split]
  named := by
    rewrite [append_newStates_eraseDups h.named]
    simp
  nodup := append_newStates_nodup h.nodup _
  reached := fun j m => by
    rcases List.mem_append.1 m with old | new
    · exact h.reached j old
    · obtain ⟨r, root, path⟩ := h.reached i (by simp [h.split])
      exact ⟨r, root, path.tail (mem_newStates.1 new).1⟩
  covered := by
    have := h.covered
    simp only [List.length_append, List.length_cons] at *
    omega

/-- A walk with fuel enough takes every state named by the roots and by the states it takes, each once, and only
reachable ones. -/
theorem walkOrder_complete (slots : Vector Slot 32) (roots : List (Fin 32)) (fuel : Nat)
    (done queue seen : List (Fin 32)) (h : Midway slots roots done queue seen fuel) :
    ∃ order, order = done ++ walkOrder slots fuel queue seen
      ∧ order = (roots ++ order.flatMap (targetsOf slots)).eraseDups
      ∧ ∀ j ∈ order, ∃ i ∈ roots, Relation.ReflTransGen (fun a b => b ∈ targetsOf slots a) i j := by
  induction fuel generalizing done queue seen with
  | zero =>
    have bound : seen.length ≤ 32 := by simpa using h.nodup.length_le_card
    have empty : queue = [] := List.eq_nil_of_length_eq_zero (by have := h.covered; omega)
    subst empty
    have all := h.split
    rewrite [List.append_nil] at all
    exact ⟨done, by simp [walkOrder], all ▸ h.named, all ▸ h.reached⟩
  | succ fuel ih =>
    cases queue with
    | nil =>
      have all := h.split
      rewrite [List.append_nil] at all
      exact ⟨done, by simp [walkOrder], all ▸ h.named, all ▸ h.reached⟩
    | cons i queue =>
      obtain ⟨order, eq, rest⟩ := ih _ _ _ h.next
      exact ⟨order, by simpa [walkOrder] using eq, rest⟩

/-- Where a walk starts: its roots, each once, are seen and none is taken. -/
theorem Midway.start (slots : Vector Slot 32) (roots : List (Fin 32)) :
    Midway slots roots [] (newStates [] roots) (newStates [] roots) 32 where
  split := by simp
  named := by
    rewrite [newStates_eq]
    simp [List.removeAll]
  nodup := newStates_nodup _ _
  reached := fun j m => ⟨j, (mem_newStates.1 m).1, .refl⟩
  covered := by omega

/-- The order in which the walk from a list of roots takes the states. -/
def orderFrom (slots : Vector Slot 32) (roots : List (Fin 32)) : List (Fin 32) :=
  walkOrder slots 32 (newStates [] roots) (newStates [] roots)

theorem orderFrom_named (slots : Vector Slot 32) (roots : List (Fin 32)) :
    orderFrom slots roots = (roots ++ (orderFrom slots roots).flatMap (targetsOf slots)).eraseDups := by
  obtain ⟨order, rfl, named, -⟩ := walkOrder_complete slots roots _ _ _ _ (.start slots roots)
  exact named

theorem orderFrom_reached (slots : Vector Slot 32) (roots : List (Fin 32)) :
    ∀ j ∈ orderFrom slots roots,
      ∃ i ∈ roots, Relation.ReflTransGen (fun a b => b ∈ targetsOf slots a) i j := by
  obtain ⟨order, rfl, -, reached⟩ := walkOrder_complete slots roots _ _ _ _ (.start slots roots)
  exact reached

/-- The order holds whatever its roots lead to. -/
theorem mem_orderFrom_of_leads {slots : Vector Slot 32} {roots : List (Fin 32)} {i j : Fin 32}
    (h : Leads slots i j) (root : i ∈ orderFrom slots roots) : j ∈ orderFrom slots roots := by
  induction h with
  | here i => exact root
  | step i j k target _ ih =>
    refine ih ?_
    rewrite [orderFrom_named, List.mem_eraseDups, List.mem_append, List.mem_flatMap]
    exact .inr ⟨i, root, target⟩

theorem mem_orderFrom_of_root {slots : Vector Slot 32} {roots : List (Fin 32)} {i : Fin 32} (h : i ∈ roots) :
    i ∈ orderFrom slots roots := by
  rewrite [orderFrom_named, List.mem_eraseDups, List.mem_append]
  exact .inl h

/-! ### The two walks -/

theorem armWalk_eq (s : State) (first : Fin 32) :
    s.armWalk first = (orderFrom s.store.slots [first]).findSome? (examineState s.store.slots s.outputs) := by
  rewrite [State.armWalk, walk_eq_findSome]
  rfl

theorem stagedWalk_eq (s : State) (p : Port) (i : Fin 32) (r : StateRecord)
    (sound : badActionIndex s.outputs 1 r.actions = none) :
    s.stagedWalk p i r
      = (orderFrom (s.store.slots.set i { s.store.slots[i]'i.isLt with staged := some (p, r) } i.isLt) r.targets).findSome?
          (examineState (s.store.slots.set i { s.store.slots[i]'i.isLt with staged := some (p, r) } i.isLt) s.outputs) := by
  simp only [State.stagedWalk, sound, walk_eq_findSome]
  rfl

/-- A state that passes its examination is defined. -/
theorem active_of_examineState {slots : Vector Slot 32} {outputs : Vector Output 4} {i : Fin 32}
    (h : examineState slots outputs i = none) : (slots[i]'i.isLt).active.isSome = true := by
  unfold examineState at h
  split at h
  · cases h
  next r active => rw [active]; rfl

/-- A walk that answers nothing has found every state that its roots lead to defined. -/
theorem active_of_walk_none {slots : Vector Slot 32} {outputs : Vector Output 4} {roots : List (Fin 32)}
    (h : (orderFrom slots roots).findSome? (examineState slots outputs) = none) {i j : Fin 32} (root : i ∈ roots)
    (leads : Leads slots i j) : (slots[j]'j.isLt).active.isSome = true :=
  active_of_examineState
    (List.findSome?_eq_none_iff.1 h j (mem_orderFrom_of_leads leads (mem_orderFrom_of_root root)))

/-! ### The walk as the statements spell it -/

theorem targets_eq (r : StateRecord) : TargetsOfRecord r = r.targets := by
  unfold TargetsOfRecord StateRecord.targets
  rewrite [List.filterMap_eq_flatMap_toList]
  by_cases zero : r.duration = 0 <;> simp only [zero, ne_eq, not_true_eq_false, not_false_eq_true, if_true, if_false]
    <;> exact List.flatMap_congr fun n _ => by cases n <;> rfl

theorem targetsOfSlot_eq (slots : Vector Slot 32) (i : Fin 32) : TargetsOfSlot slots i = targetsOf slots i := by
  unfold TargetsOfSlot targetsOf
  congr 1
  · cases (slots[i]'i.isLt).active <;> simp [targets_eq]
  · cases (slots[i]'i.isLt).staged <;> simp [targets_eq]

theorem badActionIndex_eq_none (outputs : Vector Output 4) (n : Nat) (l : List OutputAction) :
    badActionIndex outputs n l = none ↔ ∀ a ∈ l, (outputs[a.output]'a.output.isLt).role = .stateDriven := by
  induction l generalizing n with
  | nil => simp [badActionIndex]
  | cons a rest ih =>
    rewrite [badActionIndex]
    split
    next sound => rw [ih, List.forall_mem_cons, and_iff_right sound]
    next bad => exact ⟨nofun, fun all => absurd (all a (by simp)) bad⟩

/-- The entry index answered counts from the one that the list begins with. -/
theorem badActionIndex_append (outputs : Vector Output 4) (n : Nat) (before : List OutputAction) (a : OutputAction)
    (after : List OutputAction) (sound : ∀ b ∈ before, (outputs[b.output]'b.output.isLt).role = .stateDriven)
    (bad : (outputs[a.output]'a.output.isLt).role ≠ .stateDriven) :
    badActionIndex outputs n (before ++ a :: after) = some (n + before.length) := by
  induction before generalizing n with
  | nil => rw [List.nil_append, badActionIndex, if_neg bad]; rfl
  | cons b rest ih =>
    rewrite [List.cons_append, badActionIndex, if_pos (sound b (by simp)), ih _ fun c m => sound c (by simp [m]),
      List.length_cons]
    congr 1
    omega

theorem badActionIndex_of_first {outputs : Vector Output 4} {r : StateRecord} {n : Nat}
    (h : FirstBadAction outputs r n) : badActionIndex outputs 1 r.actions = some n := by
  obtain ⟨before, a, after, split, rfl, bad, sound⟩ := h
  rw [split, badActionIndex_append outputs 1 before a after sound bad, Nat.add_comm]

theorem badActionIndex_of_sound {outputs : Vector Output 4} {r : StateRecord} (h : ActionsSound outputs r) :
    badActionIndex outputs 1 r.actions = none := (badActionIndex_eq_none _ _ _).2 h

theorem sound_of_badActionIndex {outputs : Vector Output 4} {r : StateRecord}
    (h : badActionIndex outputs 1 r.actions = none) : ActionsSound outputs r := (badActionIndex_eq_none _ _ _).1 h

/-- An examination passes just the sound states. -/
theorem examineState_eq_none (slots : Vector Slot 32) (outputs : Vector Output 4) (j : Fin 32) :
    examineState slots outputs j = none ↔ StateSound slots outputs j := by
  unfold examineState StateSound
  obtain ⟨active, staged, revision⟩ := slots[j]'j.isLt
  dsimp only
  cases active with
  | none => simp only [reduceCtorEq, false_and, exists_false]
  | some r =>
    simp only [Option.some.injEq, exists_eq_left']
    cases own : badActionIndex outputs 1 r.actions with
    | some n =>
      simp only [reduceCtorEq, false_iff]
      rintro ⟨sound, -⟩
      rewrite [badActionIndex_of_sound sound] at own
      cases own
    | none =>
      have sound := sound_of_badActionIndex own
      cases staged with
      | none => simpa using sound
      | some x =>
        simp only [Option.some.injEq, forall_eq']
        cases other : badActionIndex outputs 1 x.2.actions with
        | some n =>
          simp only [reduceCtorEq, false_iff]
          rintro ⟨-, sound⟩
          rewrite [badActionIndex_of_sound sound] at other
          cases other
        | none => exact iff_of_true rfl ⟨sound, sound_of_badActionIndex other⟩

/-- An examination that fails names the failure. -/
theorem examineState_of_fails {slots : Vector Slot 32} {outputs : Vector Output 4} {j : Fin 32} {d : RespData}
    (h : StateFails slots outputs j d) : examineState slots outputs j = some d := by
  unfold examineState
  rcases h with ⟨empty, rfl⟩ | ⟨r, active, ⟨n, bad, rfl⟩ | ⟨sound, x, n, staged, bad, rfl⟩⟩
  · simp only [empty]
  · simp only [active, badActionIndex_of_first bad]
  · simp only [active, badActionIndex_of_sound sound, staged, badActionIndex_of_first bad]

/-- A walk answers nothing where every reachable state is sound, and otherwise what the first that is not, in
breadth-first order, fails with. -/
theorem walkAnswers (slots : Vector Slot 32) (outputs : Vector Output 4) (roots : List (Fin 32)) :
    WalkAnswers slots outputs roots ((orderFrom slots roots).findSome? (examineState slots outputs)) := by
  refine ⟨orderFrom slots roots, ⟨?_, ?_⟩, ?_, fun before j after d split sound fails => ?_⟩
  · rewrite [funext (targetsOfSlot_eq slots)]
    exact orderFrom_named slots roots
  · simpa only [targetsOfSlot_eq] using orderFrom_reached slots roots
  · simp only [List.findSome?_eq_none_iff, examineState_eq_none]
  · have passed : before.findSome? (examineState slots outputs) = none :=
      List.findSome?_eq_none_iff.2 fun i m => (examineState_eq_none slots outputs i).2 (sound i m)
    rewrite [split, List.findSome?_append, passed, List.findSome?_cons, examineState_of_fails fails]
    rfl

theorem armWalkAnswers : ArmWalkAnswers := fun i s => by
  rewrite [armWalk_eq]
  exact walkAnswers _ _ _

set_option Elab.async false in
theorem stagedWalkAnswers : StagedWalkAnswers := fun s p i r => by
  refine ⟨fun n bad => by simp [State.stagedWalk, badActionIndex_of_first bad], fun sound => ?_⟩
  rewrite [stagedWalk_eq s p i r (badActionIndex_of_sound sound), targets_eq]
  exact walkAnswers _ _ _

end Sys2Proof.Proofs.Walk
end

section
/-! PROOF. The poles and their actions (the last part of O6): what each operation does to the pending actions of a pole
(R91) and to the interruptions (R95, R97). -/

namespace Sys2Proof.Proofs.Poles

open Sys2Proof Sys2Proof.Machine

/-! ### The pending actions of a pole -/

/-- The work is an action of the pole. -/
def Acts (q : Pole) (w : Work) : Prop := w = .pole q .opening ∨ w = .pole q .closing

theorem acts_iff {q : Pole} {w : Work} : Acts q w ↔ ∃ op, w = .pole q op := by
  constructor
  · rintro (h | h)
    · exact ⟨_, h⟩
    · exact ⟨_, h⟩
  · rintro ⟨op, rfl⟩
    cases op
    · exact .inl rfl
    · exact .inr rfl

theorem not_acts_of_group {q : Pole} {w : Work} (h : w.group ≠ .pole) : ¬ Acts q w := fun acts => by
  obtain ⟨op, rfl⟩ := acts_iff.1 acts
  exact h rfl

/-- The actions of a pole among a list of entries. -/
def ofPoleIn (l : List TimedAction) (q : Pole) : List (Work × Option Nat) := TimedList.ofPole ⟨l, 0⟩ q

theorem ofPole_eq (l : TimedList) (q : Pole) : l.ofPole q = ofPoleIn l.entries q := rfl

theorem ofPoleIn_nil (q : Pole) : ofPoleIn [] q = [] := rfl

theorem ofPoleIn_cons_of_acts {a : TimedAction} {q : Pole} (l : List TimedAction) (h : Acts q a.work) :
    ofPoleIn (a :: l) q = (a.work, a.owner) :: ofPoleIn l q := by
  simp only [ofPoleIn, TimedList.ofPole, List.map_cons]
  exact List.filter_cons_of_pos (decide_eq_true h)

theorem ofPoleIn_cons_of_not {a : TimedAction} {q : Pole} (l : List TimedAction) (h : ¬ Acts q a.work) :
    ofPoleIn (a :: l) q = ofPoleIn l q := by
  simp only [ofPoleIn, TimedList.ofPole, List.map_cons]
  exact List.filter_cons_of_neg (by simpa [Acts] using h)

/-- Every work either is an action of a given pole or is none. -/
theorem acts_em (q : Pole) (w : Work) : Acts q w ∨ ¬ Acts q w := Classical.em _

theorem mem_ofPoleIn {a : TimedAction} {l : List TimedAction} {q : Pole} (mem : a ∈ l) (h : Acts q a.work) :
    (a.work, a.owner) ∈ ofPoleIn l q :=
  List.mem_filter.2 ⟨List.mem_map.2 ⟨a, mem, rfl⟩, decide_eq_true h⟩

/-- A test that every action of the pole passes keeps them all. -/
theorem ofPoleIn_filter {l : List TimedAction} {q : Pole} (f : TimedAction → Bool)
    (h : ∀ a ∈ l, Acts q a.work → f a = true) : ofPoleIn (l.filter f) q = ofPoleIn l q := by
  induction l with
  | nil => rfl
  | cons a rest ih =>
    have later := ih fun b mem => h b (List.mem_cons_of_mem a mem)
    rcases acts_em q a.work with acts | not
    · rw [List.filter_cons_of_pos (h a List.mem_cons_self acts), ofPoleIn_cons_of_acts _ acts,
        ofPoleIn_cons_of_acts _ acts, later]
    · rewrite [ofPoleIn_cons_of_not _ not, ← later]
      by_cases keep : f a = true
      · rw [List.filter_cons_of_pos keep, ofPoleIn_cons_of_not _ not]
      · rw [List.filter_cons_of_neg keep]

/-- A test that every action of the pole fails leaves none. -/
theorem ofPoleIn_filter_none {l : List TimedAction} {q : Pole} (f : TimedAction → Bool)
    (h : ∀ a ∈ l, Acts q a.work → f a = false) : ofPoleIn (l.filter f) q = [] := by
  induction l with
  | nil => rfl
  | cons a rest ih =>
    have later := ih fun b mem => h b (List.mem_cons_of_mem a mem)
    by_cases keep : f a = true
    · have not : ¬ Acts q a.work := fun acts => by simp [h a List.mem_cons_self acts] at keep
      rw [List.filter_cons_of_pos keep, ofPoleIn_cons_of_not _ not, later]
    · rw [List.filter_cons_of_neg keep, later]

theorem ofPoleIn_insert_of_not {a : TimedAction} {q : Pole} (l : List TimedAction) (h : ¬ Acts q a.work) :
    ofPoleIn (insertAction a l) q = ofPoleIn l q := by
  induction l with
  | nil => exact ofPoleIn_cons_of_not [] h
  | cons b rest ih =>
    unfold insertAction
    split
    · rcases acts_em q b.work with acts | not
      · rw [ofPoleIn_cons_of_acts _ acts, ofPoleIn_cons_of_acts _ acts, ih]
      · rw [ofPoleIn_cons_of_not _ not, ofPoleIn_cons_of_not _ not, ih]
    · exact ofPoleIn_cons_of_not _ h

theorem ofPoleIn_insert_of_acts {a : TimedAction} {q : Pole} {l : List TimedAction} (h : Acts q a.work)
    (none : ofPoleIn l q = []) : ofPoleIn (insertAction a l) q = [(a.work, a.owner)] := by
  induction l with
  | nil => exact ofPoleIn_cons_of_acts [] h
  | cons b rest ih =>
    unfold insertAction
    split
    · rcases acts_em q b.work with acts | not
      · rewrite [ofPoleIn_cons_of_acts _ acts] at none
        cases none
      · rewrite [ofPoleIn_cons_of_not _ not] at none ⊢
        exact ih none
    · rw [ofPoleIn_cons_of_acts _ h, none]

/-- The entries of the poles' group are those of the three poles. -/
theorem held_pole (l : TimedList) :
    l.held .pole = (l.ofPole .a).length + (l.ofPole .b).length + (l.ofPole .c).length := by
  obtain ⟨entries, next⟩ := l
  simp only [TimedList.held, ofPole_eq]
  induction entries with
  | nil => rfl
  | cons x rest ih =>
    rcases work : x.work with ⟨q, op⟩ | i | ⟨n, v⟩ | v
    · have acts : ∀ p, Acts p x.work ↔ q = p := fun p => by simp [acts_iff, work]
      have group : x.work.group = .pole := by rw [work]; rfl
      rewrite [List.filter_cons_of_pos (by simp [group]), List.length_cons, ih]
      cases q
      · rewrite [ofPoleIn_cons_of_acts _ ((acts .a).2 rfl), ofPoleIn_cons_of_not _ (mt (acts .b).1 nofun),
          ofPoleIn_cons_of_not _ (mt (acts .c).1 nofun), List.length_cons]
        omega
      · rewrite [ofPoleIn_cons_of_acts _ ((acts .b).2 rfl), ofPoleIn_cons_of_not _ (mt (acts .a).1 nofun),
          ofPoleIn_cons_of_not _ (mt (acts .c).1 nofun), List.length_cons]
        omega
      · rewrite [ofPoleIn_cons_of_acts _ ((acts .c).2 rfl), ofPoleIn_cons_of_not _ (mt (acts .a).1 nofun),
          ofPoleIn_cons_of_not _ (mt (acts .b).1 nofun), List.length_cons]
        omega
    all_goals
      have group : x.work.group ≠ .pole := by rw [work]; nofun
      rw [List.filter_cons_of_neg (by simpa using group), ofPoleIn_cons_of_not _ (not_acts_of_group group),
        ofPoleIn_cons_of_not _ (not_acts_of_group group), ofPoleIn_cons_of_not _ (not_acts_of_group group), ih]

theorem ofPole_keep {l : TimedList} {q : Pole} (f : TimedAction → Bool)
    (h : ∀ a ∈ l.entries, Acts q a.work → f a = true) : (l.keep f).ofPole q = l.ofPole q := ofPoleIn_filter f h

theorem ofPole_place_of_not {w : Work} {q : Pole} (l : TimedList) (due : Nat) (owner : Option Nat) (h : ¬ Acts q w) :
    (l.place due w owner).ofPole q = l.ofPole q := by
  unfold TimedList.place
  split
  · exact ofPoleIn_insert_of_not _ h
  · rfl

theorem ofPole_place_of_acts {w : Work} {q : Pole} {l : TimedList} {due : Nat} {owner : Option Nat} (h : Acts q w)
    (free : l.hasFree w.group = true) (none : l.ofPole q = []) : (l.place due w owner).ofPole q = [(w, owner)] := by
  unfold TimedList.place
  rewrite [if_pos free]
  exact ofPoleIn_insert_of_acts h none

/-- The removal of the first action that passes a test, where it is none of the pole. -/
theorem ofPoleIn_eraseP_of_not {l : List TimedAction} {q : Pole} (f : TimedAction → Bool)
    (h : ∀ a, l.find? f = some a → ¬ Acts q a.work) : ofPoleIn (l.eraseP f) q = ofPoleIn l q := by
  induction l with
  | nil => rfl
  | cons b rest ih =>
    by_cases first : f b = true
    · rw [List.eraseP_cons_of_pos first, ofPoleIn_cons_of_not _ (h b (List.find?_cons_of_pos first))]
    · have later := ih fun a found => h a (by rw [List.find?_cons_of_neg first, found])
      rewrite [List.eraseP_cons_of_neg first]
      rcases acts_em q b.work with acts | not
      · rw [ofPoleIn_cons_of_acts _ acts, ofPoleIn_cons_of_acts _ acts, later]
      · rw [ofPoleIn_cons_of_not _ not, ofPoleIn_cons_of_not _ not, later]

/-- The removal of the first action that passes a test, where it is the pole's only one. -/
theorem ofPoleIn_eraseP_of_acts {l : List TimedAction} {q : Pole} (f : TimedAction → Bool) {a : TimedAction}
    (found : l.find? f = some a) (acts : Acts q a.work) (only : (ofPoleIn l q).length ≤ 1) :
    ofPoleIn (l.eraseP f) q = [] := by
  induction l with
  | nil => cases found
  | cons b rest ih =>
    by_cases first : f b = true
    · rewrite [List.find?_cons_of_pos first] at found
      obtain rfl := Option.some.inj found
      rewrite [List.eraseP_cons_of_pos first]
      rewrite [ofPoleIn_cons_of_acts _ acts, List.length_cons] at only
      exact List.eq_nil_of_length_eq_zero (by omega)
    · rewrite [List.find?_cons_of_neg first] at found
      rewrite [List.eraseP_cons_of_neg first]
      rcases acts_em q b.work with own | not
      · rewrite [ofPoleIn_cons_of_acts _ own, List.length_cons] at only
        have mem := mem_ofPoleIn (List.mem_of_find?_eq_some found) acts
        rewrite [List.eq_nil_of_length_eq_zero (l := ofPoleIn rest q) (by omega)] at mem
        cases mem
      · rewrite [ofPoleIn_cons_of_not _ not] at only ⊢
        exact ih found only

/-! ### What leaves the poles -/

/-- The pole has just the action that its position waits for, and an interruption in progress only while the channels
inject. -/
def PoleOk (s : State) (q : Pole) : Prop :=
  s.actions.ofPole q = (s.breaker.poles.get q).position.awaits q
    ∧ ((s.breaker.poles.get q).interruption = .inProgress → s.injecting = true)

theorem polesConsistent_iff (s : State) : s.PolesConsistent ↔ ∀ q, PoleOk s q := Iff.rfl

/-- The poles keep their positions and actions, and no interruption begins. -/
structure Leaves (s t : State) : Prop where
  actions : ∀ q, t.actions.ofPole q = s.actions.ofPole q
  position : ∀ q, (t.breaker.poles.get q).position = (s.breaker.poles.get q).position
  progress : ∀ q, (t.breaker.poles.get q).interruption = .inProgress → (s.breaker.poles.get q).interruption = .inProgress
  injecting : s.injecting = true → t.injecting = true

theorem Leaves.refl (s : State) : Leaves s s := ⟨fun _ => rfl, fun _ => rfl, fun _ => id, id⟩

theorem Leaves.trans {s t u : State} (h : Leaves s t) (k : Leaves t u) : Leaves s u where
  actions := fun q => (k.actions q).trans (h.actions q)
  position := fun q => (k.position q).trans (h.position q)
  progress := fun q => h.progress q ∘ k.progress q
  injecting := k.injecting ∘ h.injecting

theorem Leaves.ite {s t : State} (c : Prop) [Decidable c] (h : Leaves s t) : Leaves s (if c then t else s) := by
  split
  · exact h
  · exact .refl s

theorem Leaves.poleOk {s t : State} (h : Leaves s t) {q : Pole} (k : PoleOk s q) : PoleOk t q := by
  obtain ⟨awaits, injects⟩ := k
  exact ⟨by rw [h.actions, h.position, awaits], fun p => h.injecting (injects (h.progress q p))⟩

theorem Leaves.consistent {s t : State} (h : Leaves s t) (k : s.PolesConsistent) : t.PolesConsistent :=
  fun q => h.poleOk (k q)

theorem Leaves.foldl {α : Type} (f : State → α → State) (h : ∀ s a, Leaves s (f s a)) (l : List α) (s : State) :
    Leaves s (l.foldl f s) := by
  induction l generalizing s with
  | nil => exact .refl s
  | cons a rest ih => exact (h s a).trans (ih _)

/-- A change of the phase from or to one in which the channels inject, or of none of these. -/
theorem Leaves.same {s t : State} (actions : t.actions = s.actions) (poles : t.breaker.poles = s.breaker.poles)
    (injecting : s.injecting = true → t.injecting = true) : Leaves s t :=
  ⟨fun _ => by rw [actions], fun _ => by rw [poles], fun _ => by rw [poles]; exact id, injecting⟩

theorem injecting_congr {s t : State} (h : t.seq.phase = s.seq.phase) : t.injecting = s.injecting := by
  rw [State.injecting, State.injecting, h]

/-- A change of neither the list, the poles nor the sequencer. -/
theorem Leaves.apart {s t : State} (actions : t.actions = s.actions) (breaker : t.breaker = s.breaker)
    (seq : t.seq = s.seq) : Leaves s t :=
  .same actions (by rw [breaker]) (by rw [injecting_congr (by rw [seq])]; exact id)

theorem Leaves.ofLogs {s t : State} (h : s.Logs t) : Leaves s t := by
  obtain ⟨-, -, -, seq, -, -, -, -, breaker, -, -, actions, -⟩ := h.keeps
  exact .apart actions breaker seq

/-- What hears of a change leaves the poles, if the list keeps their actions. -/
theorem Leaves.ofHears {s t : State} (h : s.Hears t) (actions : ∀ q, t.actions.ofPole q = s.actions.ofPole q) :
    Leaves s t :=
  ⟨actions, fun q => by rw [h.poles], fun q => by rw [h.poles]; exact id, fun i => by
    rw [injecting_congr (s := s) (by rw [h.seq])]; exact i⟩

theorem ofPole_evaluate (c : CondState) (i : Fin 4) (signals : Mask) (t now b : Nat) (deferring : Bool) (owner : Nat)
    (l : TimedList) (q : Pole) : (c.evaluate i signals t now b deferring owner l).2.ofPole q = l.ofPole q := by
  unfold CondState.evaluate
  dsimp only
  split
  · split
    · rfl
    · exact ofPole_place_of_not _ _ _ (not_acts_of_group nofun)
  split
  · refine ofPole_keep _ fun a _ acts => ?_
    obtain ⟨op, work⟩ := acts_iff.1 acts
    simp [work]
  · rfl

theorem ofPole_evaluateAll (signals : Mask) (t now b : Nat) (deferring : Bool) (owner i : Nat) (cs : List CondState)
    (l : TimedList) (q : Pole) : (evaluateAll signals t now b deferring owner i cs l).2.ofPole q = l.ofPole q := by
  induction cs generalizing i l with
  | nil => rfl
  | cons c rest ih => exact (ih _ _).trans (ofPole_evaluate c _ _ _ _ _ _ _ _ _)

theorem Leaves.evaluateConditions (s : State) (t : Nat) : Leaves s (s.evaluateConditions t) := by
  refine .ofHears (Hears.evaluateConditions s t) fun q => ?_
  unfold State.evaluateConditions
  split
  · rfl
  · exact ofPole_evaluateAll _ _ _ _ _ _ _ _ _ _

theorem matchStart_actions (s : State) (n : Nat) : (s.matchStart n).actions = s.actions := by
  unfold State.matchStart
  split
  · split <;> rfl
  · rfl

theorem freezeRamp_actions (s : State) (n t : Nat) : (s.freezeRamp n t).actions = s.actions := by
  unfold State.freezeRamp
  split
  · dsimp only
    split
    · exact (offer_keeps _ _ _).2.2.2.2.2.2.2.2.2.2.2.1
    · rfl
  · rfl

theorem Leaves.deliver (s : State) (n : Nat) (active : Bool) (t : Nat) : Leaves s (s.deliver n active t) := by
  unfold State.deliver
  dsimp only
  have heard : Leaves s ((s.evaluateConditions t).matchStart n) :=
    (Leaves.evaluateConditions s t).trans (.ofHears (Hears.matchStart _ n) fun q => by rw [matchStart_actions])
  split
  · refine heard.trans (.trans (.ofHears (Hears.freezeRamp _ n t) fun q => by rw [freezeRamp_actions]) ?_)
    exact .ofHears (Hears.capture _ n t) fun _ => rfl
  · exact heard

theorem Leaves.setOutput (s : State) (n : Fin 4) (level : Bool) (src : OutputSource) :
    Leaves s (s.setOutput n level src) := .ofHears (Hears.setOutput s n level src) fun q => by simp

theorem Leaves.refreshOutputs (s : State) (src : OutputSource) (rule : OutputRole → Option Bool) :
    Leaves s (s.refreshOutputs src rule) := .ofHears (Hears.refreshOutputs s src rule) fun q => by simp

theorem Leaves.refreshAux (s : State) : Leaves s s.refreshAux := .refreshOutputs _ _ _

theorem Leaves.setTp (s : State) (tp : Teleprotection) : Leaves s { s with tp := tp } := .apart rfl rfl rfl

theorem Leaves.refreshReceive (s : State) (t : Nat) : Leaves s (s.refreshReceive t) := by
  unfold State.refreshReceive
  split
  · exact .refl s
  · exact ((Leaves.setTp s _).trans (.deliver _ _ _ _)).trans (.refreshOutputs _ _ _)

theorem Leaves.applyEdge (s : State) (level : Bool) (t : Nat) : Leaves s (s.applyEdge level t) :=
  (Leaves.setTp s _).trans (.refreshReceive _ t)

theorem Leaves.takeEdge (s : State) (level : Bool) (eventTime : AbsTime) : Leaves s (s.takeEdge level eventTime) := by
  unfold State.takeEdge
  dsimp only
  split
  · exact ((Leaves.setTp s _).trans (.applyEdge _ _ _)).trans (.ofLogs (Logs.offerTpEvent _ _))
  split
  · refine (Leaves.setTp s { s.tp with lastReceived := level }).trans ⟨fun q => ?_, fun _ => rfl, fun _ => id, id⟩
    exact ofPole_place_of_not _ _ _ (not_acts_of_group nofun)
  · exact (Leaves.setTp s _).trans (.ofLogs (Logs.offerTpEvent _ _))

theorem Leaves.resyncCheck (s : State) : Leaves s s.resyncCheck := by
  unfold State.resyncCheck
  split
  · dsimp only
    split
    · exact .setTp s _
    · exact ((Leaves.setTp s _).trans (.applyEdge _ _ _)).trans (.ofLogs (Logs.offerTpEvent _ _))
  · exact .refl s

theorem Leaves.send (s : State) (f : PeerFrame) : Leaves s (s.send f) := .apart (by simp) (by simp) (by simp)

theorem Leaves.deliverPoles (s : State) (before : PerPole PoleState) : Leaves s (s.deliverPoles before) := by
  refine .foldl _ (fun s p => ?_) allPoles s
  split
  · exact .refl s
  · exact .deliver _ _ _ _

theorem Leaves.settleInterruptions (s : State) : Leaves s s.settleInterruptions := by
  refine ⟨fun _ => rfl, fun q => ?_, fun q => ?_, id⟩
  · simp only [State.settleInterruptions, PerPole.get_mapWith]
    split <;> rfl
  · simp only [State.settleInterruptions, PerPole.get_mapWith]
    split
    · nofun
    · exact id

theorem Leaves.onLinked (s : State) (p : Pole) (f : SynthChannel → SynthChannel) : Leaves s (s.onLinked p f) :=
  .apart rfl rfl rfl

/-! ### The work of the poles -/

/-- A pole takes a new state: the others stay as they are. -/
theorem poleOk_setPole {s : State} {p : Pole} {x : PoleState} (others : ∀ q, q ≠ p → PoleOk s q)
    (awaits : s.actions.ofPole p = x.position.awaits p) (injects : x.interruption = .inProgress → s.injecting = true) :
    (s.setPole p x).PolesConsistent := by
  intro q
  by_cases same : q = p
  · subst same
    have placed : (s.setPole q x).breaker.poles.get q = x := by simp
    rewrite [placed]
    exact ⟨awaits, injects⟩
  · have kept : (s.setPole p x).breaker.poles.get q = s.breaker.poles.get q := by simp [PerPole.get_set, same]
    rewrite [kept]
    exact others q same

/-- The pole takes a state with the same position, and no interruption begins. -/
theorem Leaves.setPole (s : State) (p : Pole) (x : PoleState) (position : x.position = (s.breaker.poles.get p).position)
    (progress : x.interruption = .inProgress → (s.breaker.poles.get p).interruption = .inProgress) :
    Leaves s (s.setPole p x) := by
  refine ⟨fun _ => rfl, fun q => ?_, fun q => ?_, id⟩
  · by_cases same : q = p
    · subst same
      simpa using position
    · simp [PerPole.get_set, same]
  · by_cases same : q = p
    · subst same
      simpa using progress
    · simp [PerPole.get_set, same]

theorem allSilenced_poleOpened (s : State) (p : Pole) (muted : s.injecting = false) :
    (s.onLinked p fun c => c.poleOpened s.injecting).allSilenced p = true := by
  refine List.all_eq_true.2 fun ch _ => ?_
  simp only [onLinked_synth, PerChannel.get_mapWith, muted]
  split
  · simp [SynthChannel.poleOpened]
  next unlinked => simp [unlinked]

theorem beginInterruption_consistent {s : State} (p : Pole) (t : Nat) (h : s.PolesConsistent) :
    (s.beginInterruption p t).PolesConsistent := by
  intro q
  obtain ⟨awaits, injects⟩ := h q
  unfold State.beginInterruption
  dsimp only
  generalize linked : s.onLinked p (fun c => c.poleOpened s.injecting) = u
  have poles : u.breaker.poles = s.breaker.poles := by rw [← linked]; rfl
  have actions : u.actions = s.actions := by rw [← linked]; rfl
  have injecting : u.injecting = s.injecting := by rw [← linked]; rfl
  refine ⟨?_, fun progress => ?_⟩
  · rewrite [(Leaves.settleInterruptions _).actions, (Leaves.settleInterruptions _).position]
    by_cases same : q = p
    · subst same
      simpa [actions, poles] using awaits
    · simpa [PerPole.get_set, same, actions, poles] using awaits
  · show u.injecting = true
    rewrite [injecting]
    by_cases same : q = p
    · subst same
      by_contra muted
      simp only [Bool.not_eq_true] at muted
      have silenced := allSilenced_poleOpened s q muted
      rewrite [linked] at silenced
      have settled : (u.setPole q { u.breaker.poles.get q with interruption := .inProgress, start := some t }).allSilenced q
          = true := silenced
      simp [State.settleInterruptions, settled] at progress
    · have before := (Leaves.settleInterruptions _).progress q progress
      exact injects (by simpa [PerPole.get_set, same, poles] using before)

/-- A pole that has no action pending opens, whatever its position before. -/
theorem completeOpening_consistent {s : State} {p : Pole} (t : Nat) (others : ∀ q, q ≠ p → PoleOk s q)
    (own : s.actions.ofPole p = []) (injects : (s.breaker.poles.get p).interruption = .inProgress → s.injecting = true) :
    (s.completeOpening p t).PolesConsistent := by
  unfold State.completeOpening
  dsimp only
  refine (Leaves.refreshAux _).consistent ?_
  have recorded : Leaves s (s.offerBreakerOp p .opened false t) := .ofLogs (Logs.offerBreakerOp _ _ _ _ _)
  generalize s.offerBreakerOp p .opened false t = u at recorded
  have opened : (u.setPole p { u.breaker.poles.get p with position := .opened }).PolesConsistent := by
    refine poleOk_setPole (fun q ne => recorded.poleOk (others q ne)) ?_ fun progress => ?_
    · rewrite [recorded.actions, own]
      rfl
    · exact recorded.injecting (injects (recorded.progress p progress))
  generalize u.setPole p { u.breaker.poles.get p with position := .opened } = v at opened
  have begun : (if (v.breaker.poles.get p).interruption = .none then v.beginInterruption p t else v).PolesConsistent := by
    split
    · exact beginInterruption_consistent p t opened
    · exact opened
  generalize (if (v.breaker.poles.get p).interruption = .none then v.beginInterruption p t else v) = w at begun
  split
  · exact begun
  · exact ((Leaves.setPole w p { w.breaker.poles.get p with openSignal := true } rfl id).trans
      (.deliver _ _ _ _)).consistent begun

/-- A pole that has no action pending closes, whatever its position before. -/
theorem completeClosing_consistent {s : State} {p : Pole} (t : Nat) (others : ∀ q, q ≠ p → PoleOk s q)
    (own : s.actions.ofPole p = []) : (s.completeClosing p t).PolesConsistent := by
  unfold State.completeClosing
  dsimp only
  refine (Leaves.refreshAux _).consistent ?_
  have recorded : Leaves s (s.offerBreakerOp p .closed false t) := .ofLogs (Logs.offerBreakerOp _ _ _ _ _)
  generalize s.offerBreakerOp p .closed false t = u at recorded
  have closed : (u.setPole p { u.breaker.poles.get p with
      position := .closed, interruption := .none, start := none }).PolesConsistent := by
    refine poleOk_setPole (fun q ne => recorded.poleOk (others q ne)) ?_ nofun
    rewrite [recorded.actions, own]
    rfl
  have linked := (Leaves.onLinked _ p (·.poleClosed)).consistent closed
  generalize State.onLinked _ p (·.poleClosed) = w at linked
  split
  · exact ((Leaves.setPole w p { w.breaker.poles.get p with openSignal := false } rfl id).trans
      (.deliver _ _ _ _)).consistent linked
  · exact linked

/-- The position of a pole that moves. -/
def moving : PoleOp → Position
  | .opening => .opening
  | .closing => .closing

theorem moving_awaits (p : Pole) (op : PoleOp) : (moving op).awaits p = [(.pole p op, none)] := by cases op <;> rfl

theorem awaits_length (p : Pole) (x : Position) : (x.awaits p).length ≤ 1 := by cases x <;> simp [Position.awaits]

theorem hasFree_of_none {s : State} {p : Pole} (others : ∀ q, q ≠ p → PoleOk s q) (own : s.actions.ofPole p = []) :
    s.actions.hasFree .pole = true := by
  have one : ∀ q, q ≠ p → (s.actions.ofPole q).length ≤ 1 := fun q ne => by
    rewrite [(others q ne).1]
    exact awaits_length _ _
  have room : s.actions.held .pole < 3 := by
    rewrite [held_pole]
    cases p
    · have b := one .b nofun
      have c := one .c nofun
      rewrite [own, List.length_nil]
      omega
    · have a := one .a nofun
      have c := one .c nofun
      rewrite [own, List.length_nil]
      omega
    · have a := one .a nofun
      have b := one .b nofun
      rewrite [own, List.length_nil]
      omega
  exact decide_eq_true room

/-- A pole that has begun to move gets its action, or completes at once (R91, R140). -/
theorem placePole_consistent {s : State} {p : Pole} (op : PoleOp) (due : Nat) (others : ∀ q, q ≠ p → PoleOk s q)
    (own : s.actions.ofPole p = []) (position : (s.breaker.poles.get p).position = moving op)
    (injects : (s.breaker.poles.get p).interruption = .inProgress → s.injecting = true) :
    (s.placePole p op due).PolesConsistent := by
  unfold State.placePole
  split
  · cases op
    · exact completeOpening_consistent due others own injects
    · exact completeClosing_consistent due others own
  · intro q
    dsimp only
    by_cases same : q = p
    · subst same
      refine ⟨?_, injects⟩
      rw [ofPole_place_of_acts (acts_iff.2 ⟨op, rfl⟩) (hasFree_of_none others own) own, position, moving_awaits]
    · obtain ⟨awaits, injects'⟩ := others q same
      refine ⟨?_, injects'⟩
      rw [ofPole_place_of_not, awaits]
      rintro acts
      obtain ⟨op', work⟩ := acts_iff.1 acts
      simp only [Work.pole.injEq] at work
      exact same work.1.symm

theorem ofPole_dropPole_same (s : State) (p : Pole) : (s.dropPole p).actions.ofPole p = [] := by
  refine ofPoleIn_filter_none _ fun a _ acts => ?_
  obtain ⟨op, work⟩ := acts_iff.1 acts
  simp [work]

theorem ofPole_dropPole_other (s : State) {p q : Pole} (ne : q ≠ p) :
    (s.dropPole p).actions.ofPole q = s.actions.ofPole q := by
  refine ofPole_keep _ fun a _ acts => ?_
  obtain ⟨op, work⟩ := acts_iff.1 acts
  simp [work, ne]

/-- A pole begins to move, with none of its actions pending: it gets the one of its new position. -/
theorem move_consistent {s : State} {p : Pole} (op : PoleOp) (due : Nat) (others : ∀ q, q ≠ p → PoleOk s q)
    (own : s.actions.ofPole p = []) (injects : (s.breaker.poles.get p).interruption = .inProgress → s.injecting = true) :
    (((s.setPole p { s.breaker.poles.get p with position := moving op }).refreshAux).placePole p op due).PolesConsistent := by
  have aux := Leaves.refreshAux (s.setPole p { s.breaker.poles.get p with position := moving op })
  refine placePole_consistent op due (fun q ne => aux.poleOk ?_) ?_ ?_ fun progress => aux.injecting (injects ?_)
  · have kept : (s.setPole p { s.breaker.poles.get p with position := moving op }).breaker.poles.get q
        = s.breaker.poles.get q := by simp [PerPole.get_set, ne]
    exact ⟨by rw [kept]; exact (others q ne).1, by rw [kept]; exact (others q ne).2⟩
  · rewrite [aux.actions]
    exact own
  · rewrite [aux.position]
    simp
  · simpa using aux.progress p progress

theorem awaits_nil_of {q : Pole} {x : Position} (h : x = .closed ∨ x = .opened) : x.awaits q = [] := by
  rcases h with rfl | rfl <;> rfl

theorem tripPole_consistent {s : State} (t : Nat) (p : Pole) (h : s.PolesConsistent) :
    (s.tripPole t p).PolesConsistent := by
  obtain ⟨awaits, injects⟩ := h p
  unfold State.tripPole
  dsimp only
  split
  next closed => exact move_consistent .opening _ (fun q _ => h q) (by rw [awaits, closed]; rfl) injects
  next closing =>
    refine move_consistent (s := s.dropPole p) .opening _ (fun q ne => ?_) (ofPole_dropPole_same s p) injects
    exact ⟨by rw [ofPole_dropPole_other s ne]; exact (h q).1, (h q).2⟩
  · exact h
  · exact h

theorem closePole_consistent {s : State} (t : Nat) (p : Pole) (h : s.PolesConsistent) :
    (s.closePole t p).PolesConsistent := by
  obtain ⟨awaits, injects⟩ := h p
  unfold State.closePole
  split
  next opened =>
    split
    · exact (Leaves.ofLogs (Logs.offerBreakerOp _ _ _ _ _)).consistent h
    · exact move_consistent .closing _ (fun q _ => h q) (by rw [awaits, opened]; rfl) injects
  · exact (Leaves.ofLogs (Logs.offerBreakerOp _ _ _ _ _)).consistent h
  · exact h
  · exact h

theorem consistent_foldl {α : Type} (f : State → α → State)
    (one : ∀ s a, s.PolesConsistent → (f s a).PolesConsistent) (l : List α) {s : State} (h : s.PolesConsistent) :
    (l.foldl f s).PolesConsistent := by
  induction l generalizing s with
  | nil => exact h
  | cons a rest ih => exact ih (one s a h)

theorem roleActivates_consistent (old : State) {s : State} (r : InputRole) (t : Nat) (h : s.PolesConsistent) :
    (State.roleActivates old s r t).PolesConsistent := by
  unfold State.roleActivates
  split
  · split
    · exact consistent_foldl _ (fun s p k => closePole_consistent t p k) _ h
    · refine consistent_foldl _ (fun s p k => ?_) _ h
      split
      · exact k
      · exact tripPole_consistent t p k
  · exact h

theorem handOverRoles_consistent (old : State) {s : State} (t : Nat) (eventTime : AbsTime) (h : s.PolesConsistent) :
    (State.handOverRoles old s t eventTime).PolesConsistent := by
  unfold State.handOverRoles
  extract_lets handed
  have roles : handed.PolesConsistent := by
    refine consistent_foldl _ (fun s r k => ?_) _ h
    split
    · exact roleActivates_consistent old r t k
    · exact k
  split
  · exact roles
  · unfold State.carrierChanges
    split
    · exact (Leaves.takeEdge _ _ _).consistent roles
    · exact roles

theorem Leaves.sendEvent (old s : State) (n : Fin 12) (accepted : Bool) (eventTime : AbsTime) :
    Leaves s (State.sendEvent old s n accepted eventTime) := by
  unfold State.sendEvent
  dsimp only
  split
  · exact .send _ _
  split
  · exact .send _ _
  · exact .refl s

theorem inputChanged_consistent (old : State) {s : State} (n : Fin 12) (accepted : Bool) (t : Nat) (eventTime : AbsTime)
    (h : s.PolesConsistent) : (State.inputChanged old s n accepted t eventTime).PolesConsistent := by
  unfold State.inputChanged
  dsimp only
  refine (Leaves.sendEvent _ _ _ _ _).consistent (handOverRoles_consistent _ _ _ ?_)
  split
  · exact ((Leaves.deliver _ _ _ _).trans (.ofLogs (Logs.raiseBoth _ _))).consistent h
  · exact h

/-! ### Poles placed, and the simulation disabled (R100, R102) -/

theorem ofPole_dropPoles (s : State) (q : Pole) : (allPoles.foldl (fun s p => s.dropPole p) s).actions.ofPole q = [] := by
  rewrite [foldl_allPoles]
  cases q
  · rw [ofPole_dropPole_other (p := .c) (q := .a) _ nofun, ofPole_dropPole_other (p := .b) (q := .a) _ nofun,
      ofPole_dropPole_same]
  · rw [ofPole_dropPole_other (p := .c) (q := .b) _ nofun, ofPole_dropPole_same]
  · exact ofPole_dropPole_same _ _

theorem setInitialPosition_consistent {s : State} (opened : Bool) (h : s.PolesConsistent) :
    (s.setInitialPosition opened).PolesConsistent := by
  unfold State.setInitialPosition
  split
  · refine ((Leaves.deliverPoles _ _).trans (.refreshAux _)).consistent fun q => ?_
    have none : (s.placeInitial opened).actions.ofPole q = [] := ofPole_dropPoles s q
    have placed : (s.placeInitial opened).breaker.poles.get q = .initial opened := by cases q <;> rfl
    rewrite [none, placed]
    cases opened
    · exact ⟨rfl, nofun⟩
    · exact ⟨rfl, nofun⟩
  · exact h

theorem disableBreaker_consistent (s : State) : s.disableBreaker.PolesConsistent := by
  unfold State.disableBreaker
  extract_lets before dropped placed
  refine ((Leaves.deliverPoles _ _).trans (.refreshAux _)).consistent fun q => ?_
  have none : placed.actions.ofPole q = [] := ofPole_dropPoles s q
  have closed : placed.breaker.poles.get q = PoleState.powerOn := by cases q <;> rfl
  rewrite [none, closed]
  exact ⟨rfl, nofun⟩

/-! ### Ends of visits and of shots -/

theorem endVisit_consistent {s : State} (byAbort : Bool) (h : s.PolesConsistent) : (s.endVisit byAbort).PolesConsistent := by
  cases visit : s.seq.visit with
  | none =>
    rewrite [endVisit_none s byAbort visit]
    exact h
  | some v =>
    obtain ⟨seq, -, actions⟩ := endVisit_seq s byAbort v visit
    obtain ⟨-, -, -, -, -, -, -, breaker, -, -, -, -, -, phase, -⟩ := endVisit_fields s byAbort
    refine Leaves.consistent ⟨fun q => ?_, fun q => by rw [breaker], fun q => by rw [breaker]; exact id, fun i => ?_⟩ h
    · rewrite [actions]
      refine ofPole_keep _ fun a mem acts => ?_
      have listed := mem_ofPoleIn mem acts
      rewrite [← ofPole_eq, (h q).1] at listed
      have unowned : ∀ x ∈ (s.breaker.poles.get q).position.awaits q, x.2 = none := by
        cases (s.breaker.poles.get q).position <;> simp [Position.awaits]
      simpa using unowned _ listed
    · rewrite [injecting_congr phase]
      exact i

theorem enterClosing_consistent {s : State} (h : s.PolesConsistent) : s.enterClosing.PolesConsistent := by
  rewrite [enterClosing_eq]
  refine (Leaves.refreshOutputs _ _ _).consistent ?_
  have muted : s.closingMuted.PolesConsistent := fun q => by
    obtain ⟨awaits, -⟩ := h q
    simp only [State.closingMuted, PerPole.get_mapWith, PoleState.settle]
    split
    · exact ⟨awaits, nofun⟩
    next other => exact ⟨awaits, fun progress => absurd progress other⟩
  have heard := (Leaves.refreshReceive s.closingMuted s.now).consistent muted
  generalize s.closingMuted.refreshReceive s.now = u at heard
  refine Leaves.consistent (s := u) ⟨fun q => ?_, fun _ => rfl, fun _ => id, id⟩ heard
  refine ofPole_keep (l := u.actions) _ fun a _ acts => ?_
  obtain ⟨op, work⟩ := acts_iff.1 acts
  simp [work, Work.isPole]

theorem startRampDown_consistent {s : State} (h : s.PolesConsistent) : s.startRampDown.PolesConsistent := by
  rewrite [startRampDown_eq]
  have started : Leaves (s.endVisit true) (s.endVisit true).rampingStarted :=
    .same rfl rfl fun _ => by simp [State.injecting, State.rampingStarted]
  have passed : ∀ u : State, Leaves u u.passBoundary := fun u => .apart rfl rfl rfl
  exact ((started.trans (.refreshReceive _ _)).trans (passed _)).consistent (endVisit_consistent true h)

theorem Leaves.sendAbort (s : State) (c : AbortCause) : Leaves s (s.sendAbort c) := .ite _ (.send _ _)

theorem Leaves.takeEndCause (s : State) (c : AbortCause) : Leaves s (s.takeEndCause c) := by
  refine .trans ?_ ((Leaves.ofLogs (Logs.offer _ _ _)).trans (.sendAbort _ c))
  exact .same rfl rfl fun i => i

theorem Leaves.takeSecondary (s : State) (c : AbortCause) : Leaves s (s.takeSecondary c) := by
  have stored : Leaves s { s with seq := { s.seq with
      secondary := some (s.seq.secondary.getD c), endAtExit := false } } := .same rfl rfl fun i => i
  unfold State.takeSecondary
  dsimp only
  split
  · exact stored
  · exact stored.trans (.ofLogs (Logs.offer _ _ _))

theorem Leaves.takeRunningCause (s : State) (c : AbortCause) : Leaves s (s.takeRunningCause c) := by
  unfold State.takeRunningCause
  split
  · exact .takeEndCause s c
  · exact .takeSecondary s c

theorem abortArmed_consistent {s : State} (c : AbortCause) (h : s.PolesConsistent) : (s.abortArmed c).PolesConsistent := by
  refine enterClosing_consistent ?_
  exact Leaves.consistent (.apart rfl rfl rfl) ((Leaves.takeEndCause s c).consistent h)

theorem softAbort_consistent {s : State} (c : AbortCause) (h : s.PolesConsistent) : (s.softAbort c).PolesConsistent := by
  unfold State.softAbort
  split
  · exact abortArmed_consistent c h
  · exact ((Leaves.takeRunningCause s c).trans (.same rfl rfl fun i => i)).consistent h
  · exact (Leaves.takeSecondary s c).consistent h
  · exact h
  · exact h

theorem hardAbort_consistent {s : State} (c : AbortCause) (h : s.PolesConsistent) : (s.hardAbort c).PolesConsistent := by
  unfold State.hardAbort
  split
  · exact abortArmed_consistent c h
  · exact enterClosing_consistent (endVisit_consistent true ((Leaves.takeRunningCause s c).consistent h))
  · exact enterClosing_consistent ((Leaves.takeSecondary s c).consistent h)
  · exact h
  · exact h

theorem guardCause_consistent {s : State} (c : AbortCause) (h : s.PolesConsistent) : (s.guardCause c).PolesConsistent := by
  have body : ((s.raiseBoth .guardAbort).abortWith c).PolesConsistent := by
    have raised := (Leaves.ofLogs (Logs.raiseBoth s .guardAbort)).consistent h
    unfold State.abortWith
    split
    · exact hardAbort_consistent c raised
    · exact softAbort_consistent c raised
  unfold State.guardCause
  split
  · exact body
  · exact body
  · exact body
  · exact h
  · exact h

/-! ### Entries -/

theorem Leaves.beginVisit (s : State) (i : Fin 32) (r : StateRecord) (first : Bool) : Leaves s (s.beginVisit i r first) :=
  .same rfl rfl fun _ => by simp [State.injecting, State.beginVisit]

theorem Leaves.loadSynth (s : State) (r : StateRecord) (first : Bool) : Leaves s (s.loadSynth r first) := by
  refine Leaves.trans ?_ (Leaves.settleInterruptions _)
  exact .apart rfl rfl rfl

theorem Leaves.scheduleAction (s : State) (firstVisit : Bool) (a : OutputAction) :
    Leaves s (s.scheduleAction firstVisit a) := by
  unfold State.scheduleAction
  split
  · exact .refl s
  split
  · exact .trans (t := { s with actions := s.actions.placeAndTake })
      ⟨fun _ => rfl, fun _ => rfl, fun _ => id, id⟩ (.setOutput _ _ _ _)
  · refine ⟨fun q => ?_, fun _ => rfl, fun _ => id, id⟩
    exact ofPole_place_of_not _ _ _ (not_acts_of_group nofun)

/-! ### Actions that fall due -/

theorem Leaves.dropDue {s : State} {a : TimedAction} (due : s.dueAction = some a) (other : a.work.group ≠ .pole) :
    Leaves s s.dropDue := by
  refine ⟨fun q => ?_, fun _ => rfl, fun _ => id, id⟩
  refine ofPoleIn_eraseP_of_not _ fun b found => ?_
  obtain rfl := Option.some.inj (due.symm.trans found)
  exact not_acts_of_group other

set_option Elab.async false in
/-- The one action of a pole falls due: the pole has none pending, and the others keep theirs. -/
theorem dropDue_pole {s : State} {a : TimedAction} {p : Pole} {op : PoleOp} (h : s.PolesConsistent)
    (due : s.dueAction = some a) (work : a.work = .pole p op) :
    s.dropDue.actions.ofPole p = [] ∧ ∀ q, q ≠ p → PoleOk s.dropDue q := by
  have acts : ∀ q, Acts q a.work → p = q := fun q acts => by
    obtain ⟨op', same⟩ := acts_iff.1 acts
    simp only [work, Work.pole.injEq] at same
    exact same.1
  refine ⟨ofPoleIn_eraseP_of_acts _ due (acts_iff.2 ⟨op, work⟩) ?_, fun q ne => ⟨?_, (h q).2⟩⟩
  · rewrite [← ofPole_eq, (h p).1]
    exact awaits_length _ _
  · refine (ofPoleIn_eraseP_of_not _ fun b found own => ?_).trans (h q).1
    obtain rfl := Option.some.inj (due.symm.trans found)
    exact ne (acts q own).symm

end Sys2Proof.Proofs.Poles
end

section
/-! PROOF. The invariants of the blocks (O5 to O13): the relation `Keeps` holds between two states where every
invariant that holds of the first holds of the second. It is closed under composition, it is had from what the
laws say of each shared operation, and every command and event keeps it. -/

namespace Sys2Proof.Proofs.Invariants

open Sys2Proof Sys2Proof.Machine Sys2Proof.Proofs.Poles

/-! ### The relation -/

/-- The invariants of the single blocks hold of `t` if they hold of `s`. -/
structure KeepsBlocks (s t : State) : Prop where
  time : s.time.InRange → t.time.InRange
  groups : s.actions.WithinGroups → t.actions.WithinGroups
  order : s.actions.Ordered → t.actions.Ordered
  owners : s.actions.OwnedByKind → t.actions.OwnedByKind
  reserved : s.LogReserved → t.LogReserved
  codes : s.CodesInRange → t.CodesInRange
  ranges : s.store.WithinRanges → t.store.WithinRanges
  counts : s.store.WithinCounts → t.store.WithinCounts
  drains : s.DrainsConsistent → t.DrainsConsistent
  poles : s.PolesConsistent → t.PolesConsistent

/-- Each invariant but that of IDLE holds of `t` if it holds of `s`. -/
structure KeepsMost (s t : State) : Prop extends KeepsBlocks s t where
  shot : s.ShotConsistent → t.ShotConsistent
  ahead : s.AheadDefined → t.AheadDefined

/-- Each invariant holds of `t` if it holds of `s`. -/
structure Keeps (s t : State) : Prop extends KeepsMost s t where
  forgotten : s.NothingForgotten → t.NothingForgotten

theorem KeepsBlocks.refl (s : State) : KeepsBlocks s s := ⟨id, id, id, id, id, id, id, id, id, id⟩

theorem KeepsBlocks.trans {s t u : State} (h : KeepsBlocks s t) (k : KeepsBlocks t u) : KeepsBlocks s u where
  time := k.time ∘ h.time
  groups := k.groups ∘ h.groups
  order := k.order ∘ h.order
  owners := k.owners ∘ h.owners
  reserved := k.reserved ∘ h.reserved
  codes := k.codes ∘ h.codes
  ranges := k.ranges ∘ h.ranges
  counts := k.counts ∘ h.counts
  drains := k.drains ∘ h.drains
  poles := k.poles ∘ h.poles

theorem KeepsMost.refl (s : State) : KeepsMost s s := { KeepsBlocks.refl s with shot := id, ahead := id }

theorem KeepsMost.trans {s t u : State} (h : KeepsMost s t) (k : KeepsMost t u) : KeepsMost s u :=
  { h.toKeepsBlocks.trans k.toKeepsBlocks with shot := k.shot ∘ h.shot, ahead := k.ahead ∘ h.ahead }

theorem Keeps.refl (s : State) : Keeps s s := { KeepsMost.refl s with forgotten := id }

theorem Keeps.trans {s t u : State} (h : Keeps s t) (k : Keeps t u) : Keeps s u :=
  { h.toKeepsMost.trans k.toKeepsMost with forgotten := k.forgotten ∘ h.forgotten }

theorem Keeps.ite {s t : State} (c : Prop) [Decidable c] (h : c → Keeps s t) : Keeps s (if c then t else s) := by
  split
  next holds => exact h holds
  next => exact .refl s

theorem Keeps.foldl {α : Type} (f : State → α → State) (h : ∀ s a, Keeps s (f s a)) (l : List α) (s : State) :
    Keeps s (l.foldl f s) := by
  induction l generalizing s with
  | nil => exact .refl s
  | cons a rest ih => exact (h s a).trans (ih _)

theorem shotActive_congr {s t : State} (h : t.seq.phase = .idle ↔ s.seq.phase = .idle) :
    t.shotActive = s.shotActive := by
  rw [State.shotActive, State.shotActive, decide_eq_decide, ne_eq, ne_eq, h]

/-- What the invariants read of a state. -/
def kept (s : State) :=
  (s.time, s.actions, s.seq, s.store, s.edit, s.synth.channels, s.amp.frame, s.log, s.drains, s.assess,
    s.breaker.poles)

/-- A change of what no invariant reads. -/
theorem Keeps.same {s t : State} (h : kept t = kept s) : Keeps s t := by
  simp only [kept, Prod.mk.injEq] at h
  obtain ⟨time, actions, seq, store, edit, channels, frame, log, drains, assess, poles⟩ := h
  have active : t.shotActive = s.shotActive := shotActive_congr (by rw [seq])
  refine ⟨⟨?_, ?_, ?_⟩, ?_⟩
  · constructor <;>
      simp only [State.LogReserved, State.CodesInRange, State.DrainsConsistent, State.PolesConsistent, State.injecting,
        active, time, actions, seq, store, channels, frame, log, drains, poles, imp_self]
  · simp only [State.ShotConsistent, actions, seq, assess, imp_self]
  · simp only [State.AheadDefined, State.MayEnter, seq, store, imp_self]
  · simp only [State.NothingForgotten, State.noHold, seq, store, edit, imp_self]

/-- The ways ahead are read of the sequencer alone. -/
theorem mayEnter_congr {s t : State} (h : t.seq = s.seq) {i : Fin 32} : t.MayEnter i ↔ s.MayEnter i := by
  unfold State.MayEnter
  rw [h]

/-- A change of the Time Base alone. -/
theorem Keeps.setTime (s : State) (x : TimeBase) (h : s.time.InRange → x.InRange) :
    Keeps s { s with time := x } :=
  { Keeps.refl s with time := h }

/-- A change of the Program Store alone. -/
theorem KeepsMost.setStore (s : State) (x : ProgramStore)
    (ranges : s.store.WithinRanges → x.WithinRanges) (counts : s.store.WithinCounts → x.WithinCounts)
    (ahead : s.AheadDefined → ∀ i j, s.MayEnter i → Leads x.slots i j → (x.slots[j]'j.isLt).active.isSome = true) :
    KeepsMost s { s with store := x } :=
  { KeepsMost.refl s with
    ranges := ranges, counts := counts
    ahead := fun h i j may => ahead h i j ((mayEnter_congr (t := { s with store := x }) rfl).1 may) }

theorem Keeps.setStore (s : State) (x : ProgramStore)
    (forgotten : s.NothingForgotten → State.NothingForgotten { s with store := x })
    (ranges : s.store.WithinRanges → x.WithinRanges) (counts : s.store.WithinCounts → x.WithinCounts)
    (ahead : s.AheadDefined → ∀ i j, s.MayEnter i → Leads x.slots i j → (x.slots[j]'j.isLt).active.isSome = true) :
    Keeps s { s with store := x } :=
  { KeepsMost.setStore s x ranges counts ahead with forgotten := forgotten }

/-- A change of Edit Control alone. -/
theorem Keeps.setEdit (s : State) (x : EditControl)
    (forgotten : s.NothingForgotten → State.NothingForgotten { s with edit := x }) :
    Keeps s { s with edit := x } :=
  { Keeps.refl s with forgotten := forgotten }

/-- A change of the samples alone. -/
theorem Keeps.setSamples (s : State) (x : Synthesizer) (a : AmplifierLink)
    (codes : s.CodesInRange → State.CodesInRange { s with synth := x, amp := a }) :
    Keeps s { s with synth := x, amp := a } :=
  { Keeps.refl s with codes := codes }

/-- A change of the synthesizer that leaves the last samples. -/
theorem Keeps.setSynth (s : State) (x : Synthesizer)
    (last : ∀ c, (x.channels.get c).last = (s.synth.channels.get c).last) : Keeps s { s with synth := x } :=
  { Keeps.refl s with codes := fun h c => ⟨(last c) ▸ (h c).1, (h c).2⟩ }

/-- A change of the log and the drain channels that leaves the reservation. -/
theorem Keeps.setDrains (s : State) (l : ReportLog) (d : PerPort Drain)
    (reserved : s.LogReserved → State.LogReserved { s with log := l, drains := d })
    (drains : s.DrainsConsistent → State.DrainsConsistent { s with log := l, drains := d }) :
    Keeps s { s with log := l, drains := d } :=
  { Keeps.refl s with reserved := reserved, drains := drains }

/-- A change of the Timed Action List by placements and removals of other actions than those of poles. -/
theorem Keeps.setActions (s : State) (l : TimedList) (h : s.actions.Moves (s.seq.visit.map (·.entry)) l)
    (ofPole : ∀ q, l.ofPole q = s.actions.ofPole q) : Keeps s { s with actions := l } :=
  { Keeps.refl s with
    groups := h.groups, order := h.ordered, owners := h.kinds
    poles := Leaves.consistent ⟨ofPole, fun _ => rfl, fun _ => id, id⟩
    shot := (Reacts.setActions s l h).shot }

/-- A change of the sequencer within a phase. -/
theorem Keeps.setSeq (s : State) (q : Sequencer) (phase : q.phase = s.seq.phase)
    (shot : s.ShotConsistent → State.ShotConsistent { s with seq := q })
    (ahead : ∀ i, State.MayEnter { s with seq := q } i → s.MayEnter i) : Keeps s { s with seq := q } :=
  { Keeps.refl s with
    reserved := fun h => ⟨h.1, by simpa [State.shotActive, phase] using h.2⟩
    poles := Leaves.consistent (.same rfl rfl fun i => by rw [injecting_congr (s := s) phase]; exact i)
    forgotten := fun h idle => h (phase ▸ idle)
    shot := shot
    ahead := fun h i j may => h i j (ahead i may) }

theorem KeepsBlocks.ofWinds {s t : State} (w : s.Winds t) (poles : s.PolesConsistent → t.PolesConsistent) :
    KeepsBlocks s t := by
  obtain ⟨-, store, -, amp, -⟩ := w.keeps
  exact {
    time := fun h => by rw [w.time]; exact h
    groups := w.actions.groups
    order := w.actions.ordered
    owners := w.actions.kinds
    reserved := fun h => ⟨w.room h.1, by
      rewrite [w.log.2, shotActive_congr w.active]
      exact h.2⟩
    codes := fun h c => by
      rewrite [amp]
      refine ⟨?_, (h c).2⟩
      rcases w.codes c with same | zero
      · exact same ▸ (h c).1
      · exact zero ▸ ⟨by decide, by decide⟩
    ranges := fun h => store ▸ h
    counts := fun h => store ▸ h
    drains := w.drains
    poles := poles }

/-- What ends of visits and of shots do keeps every invariant, given what it does to the shot. -/
theorem Keeps.ofWinds {s t : State} (w : s.Winds t) (poles : s.PolesConsistent → t.PolesConsistent) (shot : s.ShotConsistent → t.ShotConsistent)
    (ahead : ∀ i, t.MayEnter i → s.MayEnter i) : Keeps s t := by
  obtain ⟨-, store, edit, -, -⟩ := w.keeps
  exact { KeepsBlocks.ofWinds w poles with
    forgotten := fun h idle hold i => by
      rewrite [store]
      exact h (w.active.1 idle) (by simpa [State.noHold, edit] using hold) i
    shot := shot
    ahead := fun h i j may => by
      rewrite [store]
      exact h i j (ahead i may) }

theorem Keeps.ofEnds {s t : State} (h : s.Ends t) (poles : s.PolesConsistent → t.PolesConsistent) : Keeps s t :=
  .ofWinds h.toWinds poles h.shot h.ahead

theorem Keeps.ofReacts {s t : State} (h : s.Reacts t) (poles : s.PolesConsistent → t.PolesConsistent) : Keeps s t :=
  .ofEnds h.ends poles

theorem Keeps.ofLogs {s t : State} (h : s.Logs t) : Keeps s t := .ofEnds h.ends (Leaves.ofLogs h).consistent

theorem Keeps.setOutput (s : State) (n : Fin 4) (level : Bool) (src : OutputSource) :
    Keeps s (s.setOutput n level src) := .ofReacts (Reacts.setOutput s n level src) (Leaves.setOutput s n level src).consistent

theorem Keeps.send (s : State) (f : PeerFrame) : Keeps s (s.send f) := .ofReacts (Reacts.send s f) (Leaves.send s f).consistent

theorem Keeps.passBoundary (s : State) : Keeps s s.passBoundary :=
  .ofEnds (Ends.passBoundary s) (Leaves.apart (t := s.passBoundary) rfl rfl rfl).consistent

/-! ### Answers -/

theorem Keeps.respond (s : State) (p : Port) (st : Status) (d : RespData) : Keeps s (s.respond p st d) := .same rfl

theorem Keeps.takeFrame (s : State) (p : Port) : Keeps s (s.takeFrame p) := .same rfl

/-- A command or event answers, if a next state, one that keeps every invariant, and it does answer one where the
states ahead are all defined. -/
structure Answers (s : State) (r : Result) : Prop where
  keeps : ∀ t, r = .next t → Keeps s t
  goes : s.AheadDefined → ∃ t, r = .next t

theorem Answers.next {s t : State} (h : Keeps s t) : Answers s (.next t) where
  keeps := fun u e => by cases e; exact h
  goes := fun _ => ⟨t, rfl⟩

/-- A command that no authority gates keeps what it keeps of a state whose frame has been taken. -/
theorem Answers.open_ (s : State) (p : Port) (f : State → State) (h : ∀ s, Keeps s (f s)) :
    Answers s (s.open_ p f) :=
  .next ((Keeps.takeFrame s p).trans (h _))

/-- So does a gated one. -/
theorem Answers.gated (s : State) (p : Port) (f : State → State) (h : ∀ s, Keeps s (f s)) :
    Answers s (s.gated p f) := by
  refine .next ((Keeps.takeFrame s p).trans ?_)
  split
  · exact .respond _ _ _ _
  · exact h _

/-! ### Ways ahead -/

theorem not_mayEnter {t : State} (h : t.seq.phase ≠ .armed) (k : t.seq.phase ≠ .running) (i : Fin 32) :
    ¬ t.MayEnter i := by
  unfold State.MayEnter
  split
  next armed => exact absurd armed h
  next running => exact absurd running k
  · exact id

theorem aheadDefined_of_idle {t : State} (h : t.seq.phase = .idle) : t.AheadDefined :=
  fun i _ may => absurd may (not_mayEnter (by simp [h]) (by simp [h]) i)

theorem phase_of_shotActive_false {s : State} (h : ¬ s.shotActive = true) : s.seq.phase = .idle := by
  simpa [State.shotActive] using h

/-! ### Aborts -/

theorem reacts_phase {s t : State} (h : s.Reacts t) : t.seq.phase = s.seq.phase := by rw [h.seq]

theorem enterClosing_phase (s : State) : s.enterClosing.seq.phase = .closing := by
  rewrite [enterClosing_eq]
  simp only [refreshOutputs_keeps]
  exact reacts_phase (Reacts.refreshReceive s.closingMuted s.now)

/-- A shot that comes to CLOSING has no way ahead. -/
theorem Keeps.ofClosing {s t : State} (w : s.Winds t) (poles : s.PolesConsistent → t.PolesConsistent)
    (active : t.seq.phase ≠ .idle)
    (shot : s.ShotConsistent → t.enterClosing.ShotConsistent) : Keeps s t.enterClosing :=
  .ofWinds (w.trans (Winds.enterClosing t active)) (fun h => enterClosing_consistent (poles h)) shot fun i may =>
    absurd may (not_mayEnter (by simp [enterClosing_phase]) (by simp [enterClosing_phase]) i)

theorem Keeps.abortArmed (s : State) (c : AbortCause) (p : s.seq.phase = .armed) :
    Keeps s (s.abortArmed c) := by
  refine Keeps.ofClosing (t := { s.takeEndCause c with peer := { (s.takeEndCause c).peer with agreement := .none } })
    ((Ends.takeEndCause s c).toWinds.trans ?_)
    ((Leaves.takeEndCause s c).trans (.apart rfl rfl rfl)).consistent (by simp [takeEndCause_fields, p])
    fun k => (Ends.abortArmed s c p (k.noVisit (.inl p))).shot k
  exact State.Winds.of _ _ (by simp) (by simp) rfl rfl rfl rfl rfl Iff.rfl (fun _ => .inl rfl) (.refl _ _) (.inl rfl)

theorem Keeps.softAbort (s : State) (c : AbortCause) : Keeps s (s.softAbort c) := by
  by_cases armed : s.seq.phase = .armed
  · rewrite [State.softAbort, armed]
    exact Keeps.abortArmed s c armed
  · exact .ofEnds (Ends.softAbort s c fun h => absurd h armed) (softAbort_consistent c)

theorem Keeps.hardAbort (s : State) (c : AbortCause) : Keeps s (s.hardAbort c) := by
  by_cases armed : s.seq.phase = .armed
  · rewrite [State.hardAbort, armed]
    exact Keeps.abortArmed s c armed
  by_cases ramping : s.seq.phase = .rampingDown
  · have shot := fun k : s.ShotConsistent => (Ends.hardAbort s c fun _ => k.noVisit (.inr ramping)).shot k
    have closing : s.hardAbort c = (s.takeSecondary c).enterClosing := by simp [State.hardAbort, ramping]
    rewrite [closing] at shot ⊢
    exact Keeps.ofClosing (Ends.takeSecondary s c).toWinds (Leaves.takeSecondary s c).consistent (by simp [takeSecondary_fields, ramping]) shot
  · exact .ofEnds (Ends.hardAbort s c fun h => h.elim (absurd · armed) (absurd · ramping)) (hardAbort_consistent c)

theorem Keeps.guardCause (s : State) (c : AbortCause) : Keeps s (s.guardCause c) := by
  have body : Keeps s ((s.raiseBoth .guardAbort).abortWith c) := by
    refine (Keeps.ofLogs (Logs.raiseBoth s .guardAbort)).trans ?_
    unfold State.abortWith
    split
    · exact .hardAbort _ _
    · exact .softAbort _ _
  unfold State.guardCause
  split
  · exact body
  · exact body
  · exact body
  · exact .refl s
  · exact .refl s

/-! ### Applies -/

theorem mapSlots_fin (f : Slot → Slot) (v : Vector Slot 32) (i : Fin 32) : (mapSlots f v)[i]'i.isLt = f (v[i]'i.isLt) := by
  simp only [Fin.getElem_fin, mapSlots_get]

theorem applyStaged_staged (sl : Slot) : sl.applyStaged.staged = none := by
  unfold Slot.applyStaged
  split
  · rfl
  next none => exact none

/-- After an apply the active copy is the pending copy or, without one, the active copy as it was. -/
theorem applyStaged_active {sl : Slot} {r : StateRecord} (h : sl.applyStaged.active = some r) :
    sl.active = some r ∨ ∃ p, sl.staged = some (p, r) := by
  unfold Slot.applyStaged at h
  split at h
  next p q staged =>
    obtain rfl : q = r := by simpa [Slot.applyRecord] using h
    exact .inr ⟨p, staged⟩
  · exact .inl h

theorem applyStaged_isSome {sl : Slot} (h : sl.active.isSome = true) : sl.applyStaged.active.isSome = true := by
  unfold Slot.applyStaged
  split
  · rfl
  · exact h

/-- A state leads to no new targets once the pending copies are applied. -/
theorem targetsOf_applied {slots : Vector Slot 32} {i j : Fin 32}
    (h : j ∈ targetsOf (mapSlots Slot.applyStaged slots) i) : j ∈ targetsOf slots i := by
  unfold targetsOf at h ⊢
  simp only [mapSlots_fin, applyStaged_staged, List.append_nil] at h
  split at h
  next r active =>
    rewrite [List.mem_append]
    rcases applyStaged_active active with same | ⟨p, staged⟩
    · exact .inl (by simpa only [same] using h)
    · exact .inr (by simpa only [staged] using h)
  · cases h

theorem leads_mono {slots new : Vector Slot 32} (h : ∀ i j, j ∈ targetsOf new i → j ∈ targetsOf slots i)
    {i j : Fin 32} (leads : Leads new i j) : Leads slots i j := by
  induction leads with
  | here i => exact .here i
  | step i j k target _ ih => exact .step i j k (h i j target) ih

/-- An apply point leaves nothing that IDLE could forget. -/
theorem applyPoint_forgotten (s : State) : s.applyPoint.NothingForgotten := fun _ hold i => by
  have free : s.noHold = true := by simpa [State.noHold] using hold
  rewrite [applyPoint_slot s free i]
  exact applyStaged_staged _

theorem KeepsMost.applyPoint (s : State) : KeepsMost s s.applyPoint := by
  unfold State.applyPoint
  split
  next applies =>
    refine .trans (.setStore s { s.store with slots := mapSlots Slot.applyStaged s.store.slots } ?_ ?_ ?_)
      (Keeps.ofLogs (Logs.raiseBoth _ .editsApplied)).toKeepsMost
    · intro within i
      simp only [mapSlots_fin, applyStaged_staged]
      refine ⟨fun r active => ?_, by simp⟩
      rcases applyStaged_active active with same | ⟨p, staged⟩
      · exact (within i).1 r same
      · exact (within i).2 p r staged
    · intro within i
      simp only [mapSlots_fin, applyStaged_staged]
      refine ⟨fun r active => ?_, by simp⟩
      rcases applyStaged_active active with same | ⟨p, staged⟩
      · exact (within i).1 r same
      · exact (within i).2 p r staged
    · intro ahead i j may leads
      rewrite [mapSlots_fin]
      exact applyStaged_isSome (ahead i j may (leads_mono (fun _ _ => targetsOf_applied) leads))
  · exact .refl s

/-- Before an apply point nothing need be said of what IDLE could forget. -/
theorem KeepsMost.apply {s t : State} (h : KeepsMost s t) : Keeps s t.applyPoint :=
  { h.trans (.applyPoint t) with forgotten := fun _ => applyPoint_forgotten t }

theorem Keeps.applyPoint (s : State) : Keeps s s.applyPoint := (KeepsMost.refl s).apply

set_option Elab.async false in
theorem KeepsMost.setEdit (s : State) (x : EditControl) : KeepsMost s { s with edit := x } :=
  { KeepsMost.refl s with }

end Sys2Proof.Proofs.Invariants
end

section
/-! PROOF. What each command and event does to the invariants (O5 to O13): one lemma for each meaning, from
what the laws say of the operations it is made of. -/

namespace Sys2Proof.Proofs.Invariants

open Sys2Proof Sys2Proof.Machine Sys2Proof.Proofs.Poles

/-! ### Answers that change nothing kept -/

theorem answers_badFrame (p : Port) (s : State) : Answers s (execBadFrame p s) := .next (.respond _ _ _ _)

theorem answers_unknown (p : Port) (s : State) : Answers s (execUnknown p s) :=
  .next ((Keeps.takeFrame s p).trans (.respond _ _ _ _))

theorem answers_getStatus (p : Port) (sect : Nat) (s : State) : Answers s (execGetStatus p sect s) :=
  .open_ s p _ fun s => by
    split
    · exact .respond _ _ _ _
    · exact .respond _ _ _ _

theorem answers_readState (p : Port) (index selector : Nat) (s : State) :
    Answers s (execReadState p index selector s) :=
  .open_ s p _ fun s => by
    split
    · exact .respond _ _ _ _
    · exact .respond _ _ _ _
    · exact .respond _ _ _ _

theorem answers_readPage (p : Port) (page first : Nat) (s : State) : Answers s (execReadPage p page first s) :=
  .open_ s p _ fun s => by
    split
    · exact .respond _ _ _ _
    · split
      · exact .respond _ _ _ _
      · dsimp only
        split
        · exact .respond _ _ _ _
        · exact .respond _ _ _ _

theorem answers_notifyEnable (p : Port) (selector : Nat) (causes : Mask) (s : State) :
    Answers s (execNotifyEnable p selector causes s) :=
  .open_ s p _ fun s => by
    split
    · exact .respond _ _ _ _
    · split
      · exact .respond _ _ _ _
      · exact .same rfl

theorem answers_notifyAck (p : Port) (causes : Mask) (s : State) : Answers s (execNotifyAck p causes s) :=
  .open_ s p _ fun s => by
    split
    · exact .respond _ _ _ _
    · exact .same rfl

/-! ### Configuration and outputs -/

theorem Keeps.setInputs (s : State) (x : InputTimer) : Keeps s { s with inputs := x } := .same rfl

theorem Keeps.setTimes (s : State) (enabled : Bool) (trip close : Nat) :
    Keeps s { s with breaker := { s.breaker with enabled := enabled, tripTime := trip, closeTime := close } } :=
  .same rfl

/-- The values by which a record exceeds a range only fall when the range is raised. -/
theorem exceeds_mono {r : StateRecord} {c : Channel} {low high : Nat} (le : low ≤ high)
    (h : r.exceeds c low = false) : r.exceeds c high = false := by
  unfold StateRecord.exceeds at *
  rewrite [Bool.or_eq_false_iff, decide_eq_false_iff_not] at *
  refine ⟨by omega, ?_⟩
  cases ramp : r.ramp with
  | none => rfl
  | some w =>
    have values := h.2
    simp only [ramp, Bool.and_eq_false_imp, Bool.and_eq_true, decide_eq_true_eq, decide_eq_false_iff_not] at values ⊢
    intro covered
    have := values covered
    omega

/-- No copy of any slot of the list exceeds the range. -/
theorem firstExceeding_none {slots : Vector Slot 32} {c : Channel} {range : Nat} {l : List (Fin 32)}
    (h : firstExceeding slots c range l = none) : ∀ i ∈ l, (slots[i]'i.isLt).exceeds c range = (false, false) := by
  induction l with
  | nil => simp
  | cons i rest ih =>
    rewrite [firstExceeding] at h
    split at h
    next none => exact List.forall_mem_cons.2 ⟨none, ih h⟩
    · cases h

theorem Keeps.setChannelConfig (s : State) (c : Channel) (cfg : ChannelConfig)
    (fits : cfg.range < (s.store.config.get c).range →
      firstExceeding s.store.slots c cfg.range (List.finRange 32) = none) :
    Keeps s { s with store := { s.store with config := s.store.config.set c cfg } } := by
  have keeps : ∀ (i : Fin 32) (r : StateRecord), r.WithinRanges s.store.config →
      (firstExceeding s.store.slots c cfg.range (List.finRange 32) = none → r.exceeds c cfg.range = false) →
      r.WithinRanges (s.store.config.set c cfg) := by
    intro i r within lowered d
    rewrite [PerChannel.get_set]
    split
    next same =>
      subst same
      by_cases lower : cfg.range < (s.store.config.get d).range
      · exact lowered (fits lower)
      · exact exceeds_mono (by omega) (within d)
    next => exact within d
  refine .setStore s _ id (fun within i => ⟨fun r active => ?_, fun p r staged => ?_⟩) id id
  · refine keeps i r ((within i).1 r active) fun none => ?_
    have := congrArg Prod.fst (firstExceeding_none none i (List.mem_finRange i))
    simpa only [Slot.exceeds, active, Option.map_some, Option.getD_some] using this
  · refine keeps i r ((within i).2 p r staged) fun none => ?_
    have := congrArg Prod.snd (firstExceeding_none none i (List.mem_finRange i))
    simpa only [Slot.exceeds, staged, Option.map_some, Option.getD_some] using this

theorem answers_configChannel (p : Port) (channel range trim link : Nat) (s : State) :
    Answers s (execConfigChannel p channel range trim link s) :=
  .gated s p _ fun s => by
    split
    · exact .respond _ _ _ _
    split
    · exact .respond _ _ _ _
    split
    · exact .respond _ _ _ _
    split
    · exact .respond _ _ _ _
    split
    · exact .respond _ _ _ _
    dsimp only
    split
    · exact .respond _ _ _ _
    next none =>
      refine .trans (.setChannelConfig s _ _ fun lower => ?_) (.respond _ _ _ _)
      rwa [if_pos lower] at none

theorem answers_configInput (p : Port) (input polarity debounce role : Nat) (s : State) :
    Answers s (execConfigInput p input polarity debounce role s) :=
  .gated s p _ fun s => by
    split
    · exact .respond _ _ _ _
    split
    · exact .respond _ _ _ _
    · exact .respond _ _ _ _
    · exact .respond _ _ _ _
    · exact .trans (.trans (.setInputs s _)
        (.ofReacts (Reacts.inputChanged _ _ _ _ _ _) (inputChanged_consistent _ _ _ _ _))) (.respond _ _ _ _)

theorem answers_configOutput (p : Port) (output role : Nat) (s : State) :
    Answers s (execConfigOutput p output role s) :=
  .gated s p _ fun s => by
    split
    · exact .respond _ _ _ _
    split
    · exact .respond _ _ _ _
    · exact .respond _ _ _ _
    · exact .same rfl

theorem reacts_disableBreaker (s : State) : s.Reacts s.disableBreaker := by
  unfold State.disableBreaker
  refine ((Reacts.foldl _ (fun s p => Reacts.dropPole s p) allPoles s).trans ?_).trans
    ((Reacts.deliverPoles _ _).trans (Reacts.refreshAux _))
  exact Reacts.foldl _ (fun s p => (Reacts.setPole s p _).trans (Reacts.onLinked _ _ _ (by simp))) _ _

theorem answers_configBreaker (p : Port) (setting tripTime closeTime : Nat) (s : State) :
    Answers s (execConfigBreaker p setting tripTime closeTime s) :=
  .gated s p _ fun s => by
    split
    · exact .respond _ _ _ _
    split
    · exact .respond _ _ _ _
    split
    · exact .respond _ _ _ _
    split
    · exact .respond _ _ _ _
    exact .trans (.trans (.setTimes s _ _ _) (.ite _ fun _ => .ofReacts (reacts_disableBreaker _)
      fun _ => disableBreaker_consistent _)) (.respond _ _ _ _)

theorem Keeps.changeSource (s : State) (src : TpSource) : Keeps s (s.changeSource src) :=
  .trans (.setActions s (s.actions.keep fun a => decide (a.work.group ≠ .tpEdge)) (.keep _ _ _) fun q =>
    ofPole_keep _ fun a _ acts => decide_eq_true fun edge => not_acts_of_group (q := q) (by simp [edge]) acts) (.same rfl)

theorem answers_configTeleprotection (p : Port) (source delay : Nat) (s : State) :
    Answers s (execConfigTeleprotection p source delay s) :=
  .gated s p _ fun s => by
    split
    · exact .respond _ _ _ _
    split
    · exact .respond _ _ _ _
    next src _ =>
      refine .trans (t := if src = s.tp.source then s else s.changeSource src) ?_ (.same rfl)
      split
      · exact .refl s
      · exact .changeSource s src

theorem answers_setOutput (p : Port) (setMask clearMask : Nat) (s : State) :
    Answers s (execSetOutput p setMask clearMask s) :=
  .gated s p _ fun s => by
    split
    · exact .respond _ _ _ _
    split
    · exact .respond _ _ _ _
    refine .trans (.foldl _ (fun s n => ?_) _ _) (.respond _ _ _ _)
    split
    · exact .setOutput _ _ _ _
    split
    · exact .setOutput _ _ _ _
    · exact .refl _

theorem answers_setTime (p : Port) (seconds : Nat) (s : State) : Answers s (execSetTime p seconds s) :=
  .gated s p _ fun s => by
    refine .trans (.setTime s { s.time with loaded := some (seconds % 4294967296) } fun h => ?_) (.respond _ _ _ _)
    obtain ⟨counter, secs, localTime, good, -, next, error⟩ := h
    refine ⟨counter, secs, localTime, good, fun n e => ?_, next, error⟩
    obtain rfl := Option.some.inj e
    exact Nat.mod_lt _ (by decide)

/-! ### Edit control -/

theorem answers_hold (p : Port) (s : State) : Answers s (execHold p s) :=
  .gated s p _ fun s => by
    refine .trans (.setEdit s { s.edit with hold := s.edit.hold.set p true } fun _ _ hold => ?_) (.respond _ _ _ _)
    cases p <;> simp [State.noHold, PerPort.set] at hold

theorem Keeps.setHoldApply (s : State) (p : Port) (held : Bool) : Keeps s (s.setHold p held).applyInIdle := by
  unfold State.applyInIdle
  split
  next active =>
    refine .setEdit s { s.edit with hold := s.edit.hold.set p held } fun _ idle => ?_
    exact absurd active (by simpa [State.shotActive] using idle)
  next => exact (KeepsMost.setEdit s { s.edit with hold := s.edit.hold.set p held }).apply

theorem answers_release (p : Port) (s : State) : Answers s (execRelease p s) :=
  .gated s p _ fun s => .trans (.ite _ fun _ => .setHoldApply s p false) (.respond _ _ _ _)

theorem discardOf_active (p : Port) (sl : Slot) : (Slot.discardOf p sl).active = sl.active := by
  unfold Slot.discardOf
  split
  · split <;> rfl
  · rfl

theorem discardOf_staged {p q : Port} {sl : Slot} {r : StateRecord}
    (h : (Slot.discardOf p sl).staged = some (q, r)) : sl.staged = some (q, r) := by
  unfold Slot.discardOf at h
  split at h
  · split at h
    · cases h
    · exact h
  · exact h

/-- An excluded port's hold and pending copies go. -/
theorem KeepsMost.exclude (s : State) (p : Port) (idle : s.seq.phase = .idle) : KeepsMost s (s.exclude p) := by
  refine (KeepsMost.setEdit s { s.edit with hold := s.edit.hold.set p false }).trans
    (.setStore _ { s.store with slots := mapSlots (Slot.discardOf p) s.store.slots } (fun within i => ?_)
      (fun within i => ?_) fun _ i _ may => absurd may (not_mayEnter (by simp [idle]) (by simp [idle]) i))
  all_goals
    simp only [mapSlots_fin, discardOf_active]
    exact ⟨(within i).1, fun q r staged => (within i).2 q r (discardOf_staged staged)⟩

theorem Keeps.changeAuthority (s : State) (a : Authority) (idle : s.seq.phase = .idle) :
    Keeps s (s.changeAuthority a) := by
  have set : Keeps s (State.raiseBoth { s with edit := { s.edit with authority := a } } .authorityChanged) :=
    .trans (.setEdit s { s.edit with authority := a } id) (.ofLogs (Logs.raiseBoth _ _))
  unfold State.changeAuthority
  dsimp only
  split
  · exact set.trans (KeepsMost.exclude _ _ (by simpa using idle)).apply
  · exact set

set_option Elab.async false in
theorem answers_setAuthority (p : Port) (value : Nat) (s : State) : Answers s (execSetAuthority p value s) :=
  .open_ s p _ fun s => by
    split
    · exact .respond _ _ _ _
    next a _ =>
      split
      · exact .respond _ _ _ _
      split
      · exact .respond _ _ _ _
      next quiet =>
        refine .trans (t := if a = s.edit.authority then s else s.changeAuthority a) ?_ (.respond _ _ _ _)
        split
        · exact .refl s
        · exact .changeAuthority s a (phase_of_shotActive_false quiet)

end Sys2Proof.Proofs.Invariants
end

section
/-! PROOF. What the program commands do to the invariants (O5 to O13). -/

namespace Sys2Proof.Proofs.Invariants

open Sys2Proof Sys2Proof.Machine Sys2Proof.Proofs.Poles Sys2Proof.Proofs.Walk

/-! ### The checks of a record -/

theorem firstFailure_none {l : List FieldCheck} : firstFailure l = none ↔ ∀ c ∈ l, c.passes = true := by
  induction l with
  | nil => simp [firstFailure]
  | cons c rest ih =>
    rewrite [firstFailure, List.forall_mem_cons]
    split
    next passes => rw [ih, and_iff_right passes]
    next fails => exact iff_of_false (by simp) fun h => fails h.1

/-- The smallest range of a target bounds the range of each channel of it. -/
theorem targetRange_le (cfg : PerChannel ChannelConfig) (t : Target) (c : Channel) (h : t.covers c = true) :
    targetRange cfg t ≤ (cfg.get c).range := by
  have le : ∀ (l : List Channel) (m : Nat), l.foldl (fun m c => min m (cfg.get c).range) m ≤ m
      ∧ ∀ c ∈ l, l.foldl (fun m c => min m (cfg.get c).range) m ≤ (cfg.get c).range := by
    intro l
    induction l with
    | nil => simp
    | cons d rest ih =>
      intro m
      obtain ⟨first, others⟩ := ih (min m (cfg.get d).range)
      rewrite [List.foldl_cons, List.forall_mem_cons]
      exact ⟨by omega, by omega, others⟩
  exact (le _ _).2 c (by simpa [Target.covers] using h)

/-- A check of a record is one of those on its parts. -/
theorem mem_recordChecks_channel (cfg : PerChannel ChannelConfig) (index : Nat) (r : RawRecord) (c : Channel) :
    ∀ x ∈ channelChecks cfg c (r.channels.get c), x ∈ recordChecks cfg index r := by
  intro x h
  unfold recordChecks
  cases c <;> simp only [List.mem_append] <;> simp only [PerChannel.get] at h <;> simp only [h, true_or, or_true]

theorem mem_recordChecks_ramp (cfg : PerChannel ChannelConfig) (index : Nat) (r : RawRecord)
    (present : r.rampPresent = true) : ∀ x ∈ rampChecks cfg r.ramp, x ∈ recordChecks cfg index r := by
  intro x h
  simp only [recordChecks, List.mem_append, present, if_true, h, true_or, or_true]

theorem amplitude_of_checked {cfg : PerChannel ChannelConfig} {index : Nat} {r : RawRecord}
    (h : firstFailure (recordChecks cfg index r) = none) (c : Channel) :
    (r.channels.get c).amplitude ≤ (cfg.get c).range := by
  have passes := firstFailure_none.1 h _ (mem_recordChecks_channel cfg index r c _ (List.mem_cons_self ..))
  simpa using passes

theorem ramp_of_checked {cfg : PerChannel ChannelConfig} {index : Nat} {r : RawRecord}
    (h : firstFailure (recordChecks cfg index r) = none) (present : r.rampPresent = true) :
    ∃ t q, Target.ofCode r.ramp.target = some t ∧ Quantity.ofCode r.ramp.quantity = some q
      ∧ rampValueInRange cfg t q r.ramp.start = true ∧ rampValueInRange cfg t q r.ramp.limit = true
      ∧ r.ramp.step.natAbs ≤ rampStepLimit cfg t q := by
  have passes := fun x m => firstFailure_none.1 h x (mem_recordChecks_ramp cfg index r present x m)
  unfold rampChecks at passes
  split at passes
  · simp at passes
  · simp at passes
  next t q target quantity =>
    simp only [List.forall_mem_cons, Bool.and_eq_true, decide_eq_true_eq] at passes
    obtain ⟨start, ⟨-, step⟩, ⟨limit, -⟩, -⟩ := passes
    exact ⟨t, q, target, quantity, start, limit, step⟩

theorem stored_withinRanges {cfg : PerChannel ChannelConfig} {index : Nat} {r : RawRecord}
    (h : firstFailure (recordChecks cfg index r) = none) : (RawRecord.stored r).WithinRanges cfg := by
  intro c
  have amplitude := amplitude_of_checked h c
  unfold StateRecord.exceeds
  rewrite [Bool.or_eq_false_iff, decide_eq_false_iff_not]
  refine ⟨by simpa [RawRecord.stored, RawChannel.stored] using amplitude, ?_⟩
  by_cases present : r.rampPresent = true
  · obtain ⟨t, q, target, quantity, start, limit, step⟩ := ramp_of_checked h present
    simp only [RawRecord.stored, present, if_true, RawRamp.stored, target, quantity, Option.getD_some,
      Bool.and_eq_false_imp, Bool.and_eq_true, decide_eq_true_eq, decide_eq_false_iff_not]
    rintro ⟨rfl, covered⟩
    have le := targetRange_le cfg t c covered
    simp only [rampValueInRange, rampStepLimit, decide_eq_true_eq] at start limit step
    omega
  · simp [RawRecord.stored, present]

theorem stored_withinCounts {cfg : PerChannel ChannelConfig} {index : Nat} {r : RawRecord}
    (h : firstFailure (recordChecks cfg index r) = none) : (RawRecord.stored r).WithinCounts := by
  have count : ∀ x ∈ recordChecks cfg index r, x.passes = true := firstFailure_none.1 h
  have conditions := count ⟨11, 0, decide (r.conditionCount ≤ 4)⟩ (by simp [recordChecks])
  have assessments := count ⟨21, 0, decide (r.assessmentCount ≤ 4)⟩ (by simp [recordChecks])
  have actions := count ⟨27, 0, decide (r.actionCount ≤ 4)⟩ (by simp [recordChecks])
  simp only [decide_eq_true_eq] at conditions assessments actions
  simp only [StateRecord.WithinCounts, RawRecord.stored, List.length_map, List.length_take]
  omega

/-! ### Writes -/

theorem set_fin (v : Vector Slot 32) (i j : Fin 32) (sl : Slot) :
    (v.set i sl i.isLt)[j]'j.isLt = if i = j then sl else v[j]'j.isLt := by
  simp only [Fin.getElem_fin, Vector.getElem_set, Fin.val_inj]

/-- A slot written keeps the bounds of records where the record it takes is within them. -/
theorem setSlot_within {st : ProgramStore} {i : Fin 32} {sl : Slot} {P : StateRecord → Prop}
    (within : ∀ i : Fin 32, (∀ r, (st.slots[i]'i.isLt).active = some r → P r) ∧ (∀ p r, (st.slots[i]'i.isLt).staged = some (p, r) → P r))
    (new : (∀ r, sl.active = some r → P r) ∧ (∀ p r, sl.staged = some (p, r) → P r)) :
    ∀ j : Fin 32, (∀ r, ((st.slots.set i sl i.isLt)[j]'j.isLt).active = some r → P r)
      ∧ (∀ p r, ((st.slots.set i sl i.isLt)[j]'j.isLt).staged = some (p, r) → P r) := by
  intro j
  rewrite [set_fin]
  split
  · exact new
  · exact within j

theorem Keeps.stage (s : State) (p : Port) (i : Fin 32) (r : StateRecord)
    (ranges : s.store.WithinRanges → r.WithinRanges s.store.config) (counts : s.store.WithinCounts → r.WithinCounts)
    (stages : s.stages p i = true) (walks : s.shotActive = true → s.stagedWalk p i r = none) :
    Keeps s (s.setSlot i { s.store.slots[i]'i.isLt with staged := some (p, r) }) := by
  refine .setStore s _ (fun kept idle hold j => ?_)
    (fun within => setSlot_within within ⟨(within i).1, fun q x e => ?_⟩)
    (fun within => setSlot_within within ⟨(within i).1, fun q x e => ?_⟩) fun ahead j k may leads => ?_
  · have free := kept idle hold i
    simp only [State.noHold, Bool.and_eq_true, Bool.not_eq_true'] at hold
    have own : s.edit.hold.get p = false := by cases p <;> simp [PerPort.get, hold.1, hold.2]
    simp only [State.stages, State.shotActive, Slot.ownStaged, free, own] at stages
    simp only at idle
    simp [idle] at stages
  · cases e; exact ranges within
  · cases e; exact counts within
  · have active : s.shotActive = true := by
      rewrite [State.shotActive, decide_eq_true_eq]
      exact fun idle => not_mayEnter (by simp [idle]) (by simp [idle]) j may
    have walk := walks active
    have sound : badActionIndex s.outputs 1 r.actions = none := by
      cases bad : badActionIndex s.outputs 1 r.actions with
      | none => rfl
      | some n => simp [State.stagedWalk, bad] at walk
    rewrite [stagedWalk_eq s p i r sound] at walk
    have defined := fun a b => active_of_walk_none (i := a) (j := b) walk
    have same : ∀ j : Fin 32, ((s.store.slots.set i { s.store.slots[i]'i.isLt with staged := some (p, r) } i.isLt)[j]'j.isLt).active
        = (s.store.slots[j]'j.isLt).active := fun j => by
      rewrite [set_fin]
      split
      next e => rw [← e]
      next => rfl
    have cases_ : Leads s.store.slots j k ∨ ∃ a ∈ r.targets,
        Leads (s.store.slots.set i { s.store.slots[i]'i.isLt with staged := some (p, r) } i.isLt) a k := by
      clear may
      induction leads with
      | here a => exact .inl (.here a)
      | step a b c target path ih =>
        rcases ih with old | new
        · by_cases at_ : i = a
          · unfold targetsOf at target
            rewrite [same, set_fin, if_pos at_, List.mem_append] at target
            rcases target with active | staged
            · exact .inl (.step a b c (by rw [targetsOf, List.mem_append]; exact .inl active) old)
            · exact .inr ⟨b, staged, path⟩
          · unfold targetsOf at target
            rewrite [set_fin, if_neg at_] at target
            exact .inl (.step a b c target old)
        · exact .inr new
    rewrite [same]
    rcases cases_ with old | ⟨a, target, path⟩
    · exact ahead j k may old
    · exact same k ▸ defined a k target path

theorem Keeps.write (s : State) (i : Fin 32) (r : StateRecord)
    (ranges : s.store.WithinRanges → r.WithinRanges s.store.config) (counts : s.store.WithinCounts → r.WithinCounts)
    (idle : s.seq.phase = .idle) : Keeps s (s.setSlot i ((s.store.slots[i]'i.isLt).applyRecord r)) := by
  refine .setStore s _ (fun kept _ hold j => ?_)
    (fun within => setSlot_within within ⟨fun x e => ?_, (within i).2⟩)
    (fun within => setSlot_within within ⟨fun x e => ?_, (within i).2⟩)
    fun _ j _ may => absurd may (not_mayEnter (by simp [idle]) (by simp [idle]) j)
  · rewrite [set_fin]
    split
    · exact kept idle hold i
    · exact kept idle hold j
  · cases e; exact ranges within
  · cases e; exact counts within

theorem Keeps.finishWrite (s : State) (p : Port) (i : Fin 32) (expected : Nat) (r : StateRecord)
    (ranges : s.store.WithinRanges → r.WithinRanges s.store.config) (counts : s.store.WithinCounts → r.WithinCounts) :
    Keeps s (s.finishWrite p i expected r) := by
  unfold State.finishWrite
  dsimp only
  split
  · exact .respond _ _ _ _
  split
  · exact .respond _ _ _ _
  split
  next stages =>
    split
    · exact .respond _ _ _ _
    next walks =>
      refine .trans (.stage s p i r ranges counts stages fun active => ?_) (.respond _ _ _ _)
      rwa [if_pos active] at walks
  next stages =>
    refine .trans (.write s i r ranges counts ?_) (.respond _ _ _ _)
    simp only [State.stages, Bool.or_eq_true, not_or] at stages
    exact phase_of_shotActive_false stages.1.1

theorem answers_writeState (p : Port) (index expected : Nat) (record : RawRecord) (s : State) :
    Answers s (execWriteState p index expected record s) :=
  .gated s p _ fun s => by
    split
    · exact .respond _ _ _ _
    · exact .respond _ _ _ _
    next checked _ =>
      exact .finishWrite s p _ expected _ (fun _ => stored_withinRanges checked) fun _ => stored_withinCounts checked

theorem withBalanced_keeps (r : StateRecord) (g : PhaseGroup) (amplitude frequency : Nat) (angle : Int) (acb : Bool) :
    (r.withBalanced g amplitude frequency angle acb).ramp = r.ramp
      ∧ (r.withBalanced g amplitude frequency angle acb).conditions = r.conditions
      ∧ (r.withBalanced g amplitude frequency angle acb).assessments = r.assessments
      ∧ (r.withBalanced g amplitude frequency angle acb).actions = r.actions
      ∧ ∀ c, ((r.withBalanced g amplitude frequency angle acb).channels.get c).amplitude
          = if c ∈ g.channels then amplitude else (r.channels.get c).amplitude := by
  cases g <;> refine ⟨rfl, rfl, rfl, rfl, fun c => ?_⟩ <;> cases c <;> rfl

/-- The record that a balanced write starts from is a copy of the slot, or the default record. -/
theorem balancedBase_cases (sl : Slot) (p : Port) :
    (∃ q, sl.staged = some (q, sl.balancedBase p)) ∨ sl.active = some (sl.balancedBase p)
      ∨ sl.balancedBase p = StateRecord.default := by
  unfold Slot.balancedBase
  split
  next r own =>
    unfold Slot.ownStaged at own
    split at own
    next q x staged =>
      split at own
      next => exact .inl ⟨q, by rw [staged, Option.some.inj own]⟩
      · cases own
    · cases own
  · cases active : sl.active with
    | some r => exact .inr (.inl rfl)
    | none => exact .inr (.inr rfl)

theorem default_withinRanges (cfg : PerChannel ChannelConfig) : StateRecord.default.WithinRanges cfg := by
  intro c
  cases c <;> simp [StateRecord.exceeds, StateRecord.default, ChannelEntry.default, PerChannel.get]

theorem answers_writeBalanced (p : Port) (index expected group amplitude frequency : Nat) (angle : Int)
    (order : Nat) (s : State) :
    Answers s (execWriteBalanced p index expected group amplitude frequency angle order s) :=
  .gated s p _ fun s => by
    split
    · exact .respond _ _ _ _
    · exact .respond _ _ _ _
    next i g _ _ =>
      split
      · exact .respond _ _ _ _
      · exact .respond _ _ _ _
      next acb checked _ =>
        obtain ⟨ramp, conditions, assessments, actions, amplitudes⟩ :=
          withBalanced_keeps ((s.store.slots[i]'i.isLt).balancedBase p) g amplitude frequency angle acb
        refine .finishWrite s p i expected _ (fun within c => ?_) fun within => ?_
        · have base : ((s.store.slots[i]'i.isLt).balancedBase p).WithinRanges s.store.config := by
            rcases balancedBase_cases (s.store.slots[i]'i.isLt) p with ⟨q, staged⟩ | active | default
            · exact (within i).2 q _ staged
            · exact (within i).1 _ active
            · exact default ▸ default_withinRanges _
          have bound := base c
          unfold StateRecord.exceeds at bound ⊢
          rewrite [Bool.or_eq_false_iff, decide_eq_false_iff_not] at bound ⊢
          rewrite [ramp, amplitudes]
          refine ⟨?_, bound.2⟩
          split
          next covered =>
            have passes := firstFailure_none.1 checked ⟨4, c.position, decide (amplitude ≤ (s.store.config.get c).range)⟩
              (by simp only [balancedChecks, List.mem_append, List.mem_cons, List.mem_map]
                  exact .inl (.inr ⟨c, covered, rfl⟩))
            simpa using passes
          · exact bound.1
        · unfold StateRecord.WithinCounts
          rewrite [conditions, assessments, actions]
          rcases balancedBase_cases (s.store.slots[i]'i.isLt) p with ⟨q, staged⟩ | active | default
          · exact (within i).2 q _ staged
          · exact (within i).1 _ active
          · rewrite [default]
            exact ⟨by decide, by decide, by decide⟩

set_option Elab.async false in
theorem answers_eraseState (p : Port) (index : Nat) (s : State) : Answers s (execEraseState p index s) :=
  .gated s p _ fun s => by
    split
    · exact .respond _ _ _ _
    next quiet =>
      have idle := phase_of_shotActive_false quiet
      split
      · exact .respond _ _ _ _
      next i _ =>
        refine .trans (.setStore s { s.store with slots := s.store.slots.set i (s.store.slots[i]'i.isLt).erase i.isLt }
          (fun kept idle hold j => ?_) (fun within => setSlot_within within ?_)
          (fun within => setSlot_within within ?_)
          fun _ j _ may => absurd may (not_mayEnter (by simp [idle]) (by simp [idle]) j)) (.respond _ _ _ _)
        · rewrite [set_fin]
          split
          · unfold Slot.erase
            split
            · exact kept idle hold i
            · rfl
          · exact kept idle hold j
        all_goals
          unfold Slot.erase
          split
          · exact within i
          · exact ⟨by simp, by simp⟩

end Sys2Proof.Proofs.Invariants
end

section
/-! PROOF. What power-on, a soft reset, the drain channels and the shot commands do to the invariants (O5 to O13). -/

namespace Sys2Proof.Proofs.Invariants

open Sys2Proof Sys2Proof.Machine Sys2Proof.Proofs.Poles Sys2Proof.Proofs.Walk

/-! ### Power-on and soft reset -/

theorem shotConsistent_powerOn (s : State) (n : Nat) (assess : s.assess = none) (entries : s.actions.entries = [])
    (h : s.seq = { Sequencer.powerOn with shotNumber := n }) : s.ShotConsistent := by
  unfold State.ShotConsistent
  rewrite [h, assess, entries]
  simp [Sequencer.powerOn]

theorem noSlot_withinRanges (cfg : PerChannel ChannelConfig) :
    ProgramStore.WithinRanges { slots := Vector.replicate 32 .empty, config := cfg } := fun i => by
  simp [Slot.empty]

/-- A channel just powered on holds nothing of an empty log. -/
theorem powerOn_consistent : Drain.powerOn.Consistent ReportLog.empty :=
  ⟨Drain.enableAt_holds Drain.powerOn ReportLog.empty, by simp [Drain.WaitsOnlyForThePort, ReportLog.awaiting,
    ReportLog.empty, Drain.powerOn]⟩

theorem last_powerOn (cfg : PerChannel ChannelConfig) (c : Channel) :
    ((Synthesizer.powerOn cfg).channels.get c).last = 0 := by cases c <;> rfl

theorem codeInRange_zero : CodeInRange 0 := ⟨by decide, by decide⟩

/-- Every invariant, of a state with the reset state's items. -/
theorem holds_at_reset (s : State) (h : kept s = kept State.reset) :
    s.time.InRange ∧ s.actions.WithinGroups ∧ s.actions.Ordered ∧ s.actions.OwnedByKind ∧ s.LogReserved
      ∧ s.NothingForgotten ∧ s.CodesInRange ∧ s.store.WithinRanges ∧ s.store.WithinCounts ∧ s.DrainsConsistent
      ∧ s.ShotConsistent ∧ s.AheadDefined ∧ s.PolesConsistent := by
  have same : Keeps State.reset s := .same h
  refine ⟨same.time ⟨by decide, by decide, by decide, by decide, nofun, nofun, by decide, by decide⟩,
    same.groups fun g => Nat.zero_le _, same.order ⟨List.Pairwise.nil, nofun⟩, same.owners nofun,
    same.reserved ⟨by decide, by decide⟩, same.forgotten fun _ _ i => ?_,
    same.codes fun c => ⟨last_powerOn _ c ▸ codeInRange_zero, ?_⟩, same.ranges (noSlot_withinRanges _),
    same.counts fun i => ?_, same.drains ⟨powerOn_consistent, powerOn_consistent⟩,
    same.shot (shotConsistent_powerOn _ 0 rfl rfl rfl), same.ahead (aheadDefined_of_idle rfl),
    same.poles fun q => ?_⟩
  · simp [State.reset, Slot.empty]
  · cases c <;> exact codeInRange_zero
  · simp [State.reset, Slot.empty]
  · cases q <;> exact ⟨rfl, nofun⟩

theorem answers_powerOn (level : EStopLevel) (s : State) : Answers s (execPowerOn level s) := by
  refine .next ?_
  obtain ⟨time, groups, order, owners, reserved, forgotten, codes, ranges, counts, drains, shot, ahead, poles⟩ :=
    holds_at_reset _ (rfl : kept { State.reset with
      pending := s.pending
      inputs := { State.reset.inputs with pins := s.inputs.pins }
      guard := { State.reset.guard with eStop := level }
      freeUsed := s.freeUsed } = kept State.reset)
  exact ⟨⟨⟨fun _ => time, fun _ => groups, fun _ => order, fun _ => owners, fun _ => reserved, fun _ => codes,
    fun _ => ranges, fun _ => counts, fun _ => drains, fun _ => poles⟩, fun _ => shot, fun _ => ahead⟩, fun _ => forgotten⟩

theorem softReset_drain_consistent (d : Drain) : d.softReset.Consistent ReportLog.empty := by
  unfold Drain.softReset
  split
  · exact powerOn_consistent
  · exact Drain.disable_consistent { d with count := 0 } ReportLog.empty

theorem softReset_slot (s : State) (i : Fin 32) :
    s.softReset.store.slots[i]'i.isLt = { s.store.slots[i]'i.isLt with staged := none } := by
  simp only [State.softReset, mapSlots_fin]

theorem softReset_frame (s : State) : s.softReset.amp.frame = s.amp.frame := rfl

theorem softReset_config (s : State) : s.softReset.store.config = s.store.config := by
  simp only [State.softReset]

theorem softReset_inRange {t : TimeBase} (h : t.InRange) : t.softReset.InRange := h

theorem Keeps.softReset (s : State) : Keeps s s.softReset where
  time := fun h => by rw [softReset_time]; exact softReset_inRange h
  groups := (TimedList.Moves.clear none s.actions).groups
  order := (TimedList.Moves.clear none s.actions).ordered
  owners := (TimedList.Moves.clear none s.actions).kinds
  reserved := fun _ => ⟨by simp [ReportLog.empty], by simp [ReportLog.empty, State.shotActive, Sequencer.powerOn]⟩
  forgotten := fun _ _ _ i => by rw [softReset_slot]
  codes := fun h c => ⟨by rw [softReset_synth, last_powerOn]; exact codeInRange_zero, (h c).2⟩
  ranges := fun h i => by
    rewrite [softReset_slot, softReset_config]
    exact ⟨(h i).1, by simp⟩
  counts := fun h i => by
    rewrite [softReset_slot]
    exact ⟨(h i).1, by simp⟩
  drains := fun _ => by
    unfold State.DrainsConsistent
    rewrite [softReset_log, softReset_drains]
    exact ⟨softReset_drain_consistent _, softReset_drain_consistent _⟩
  poles := fun _ q => by
    rewrite [softReset_actions]
    cases q <;> exact ⟨rfl, nofun⟩
  shot := fun _ => shotConsistent_powerOn _ s.seq.shotNumber (softReset_assess s) (by rw [softReset_actions]) (softReset_seq s)
  ahead := fun _ => aheadDefined_of_idle (by rw [softReset_seq]; rfl)

theorem answers_softReset (p : Port) (s : State) : Answers s (execSoftReset p s) :=
  .gated s p _ fun s => by
    refine .trans (t := if s.peerShot then s.send (.abort .aborted) else s) ?_ (.trans (.softReset _) (.respond _ _ _ _))
    exact .ite _ fun _ => .send _ _

/-! ### Drain channels -/

theorem drainsConsistent_iff (s : State) (p : Port) :
    s.DrainsConsistent ↔ (s.drains.get p).Consistent s.log ∧ (s.drains.get p.other).Consistent s.log := by
  cases p
  · exact Iff.rfl
  · exact And.comm

/-- A channel that holds its records, and copies what waits, beside one that is consistent. -/
theorem copyFor_consistent (s : State) (p : Port) (own : (s.drains.get p).HoldsItsRecords s.log)
    (other : (s.drains.get p.other).Consistent s.log) : (s.copyFor p).DrainsConsistent := by
  have drains : (s.copyFor p).drains
      = s.drains.set p ((s.drains.get p).fill s.now (s.log.awaiting (s.drains.get p))).1 := rfl
  rewrite [drainsConsistent_iff _ p, drains, PerPort.get_set_same, PerPort.get_set_other]
  simp only [copyFor_keeps]
  exact ⟨Drain.fill_consistent _ _ _ _ own rfl, other⟩

/-- What the log frees lies below what each channel has consumed (R125). -/
theorem consumedBy_le (s : State) (p : Port) (c : Nat) (h : (s.drains.get p).consumedPos = some c) :
    s.consumedBy ≤ c := by
  unfold State.consumedBy
  cases p <;> simp only [PerPort.get] at h <;> rw [h] <;> split <;> simp_all

theorem freeLog_holds (s : State) (p : Port) (h : (s.drains.get p).HoldsItsRecords s.log) :
    (s.freeLog.drains.get p).HoldsItsRecords s.freeLog.log
      ∧ s.freeLog.log.awaiting (s.freeLog.drains.get p) = s.log.awaiting (s.drains.get p) := by
  simp only [freeLog_keeps, freeLog_log]
  exact h.freeTo _ fun c consumed => consumedBy_le s p c consumed

theorem freeLog_consistent (s : State) (p : Port) (h : (s.drains.get p).Consistent s.log) :
    (s.freeLog.drains.get p).Consistent s.freeLog.log := by
  obtain ⟨holds, same⟩ := freeLog_holds s p h.1
  refine ⟨holds, ?_⟩
  unfold Drain.WaitsOnlyForThePort
  rewrite [same]
  exact h.2

theorem LogReserved.freeLog {s : State} (h : s.LogReserved) : s.freeLog.LogReserved := by
  have active : s.freeLog.shotActive = s.shotActive := shotActive_congr (by simp)
  unfold State.LogReserved
  rewrite [active, freeLog_log]
  refine ⟨?_, h.2⟩
  have := h.1
  simp only [ReportLog.freeTo, List.length_drop]
  omega

/-- A change of the drain channels and the log alone. -/
theorem Keeps.ofDrains {s t : State} (same : t = { s with log := t.log, drains := t.drains, ports := t.ports })
    (reserved : s.LogReserved → t.LogReserved) (drains : s.DrainsConsistent → t.DrainsConsistent) : Keeps s t := by
  have changed : Keeps s { s with log := t.log, drains := t.drains } :=
    .setDrains s t.log t.drains (fun h => by have := reserved h; rw [same] at this; exact this)
      (fun h => by have := drains h; rw [same] at this; exact this)
  refine changed.trans (.same ?_)
  rewrite [same]
  rfl

theorem LogReserved.copyFor {s : State} (h : s.LogReserved) (p : Port) : (s.copyFor p).LogReserved :=
  (Keeps.ofLogs (Logs.copyFor s p)).reserved h

theorem answers_drainEnable (p : Port) (selector : Nat) (s : State) : Answers s (execDrainEnable p selector s) :=
  .open_ s p _ fun s => by
    split
    · exact .respond _ _ _ _
    dsimp only
    split
    · split
      · exact .respond _ _ _ _
      split
      · exact .respond _ _ _ _
      refine .trans (.ofDrains rfl (fun h => LogReserved.freeLog (s := s.setDrain p (s.drains.get p).disable) h)
        fun h => ?_) (.respond _ _ _ _)
      obtain ⟨-, other⟩ := (drainsConsistent_iff s p).1 h
      refine (drainsConsistent_iff _ p).2 ⟨freeLog_consistent _ p ?_, freeLog_consistent _ p.other ?_⟩
      · simpa using Drain.disable_consistent _ _
      · simpa using other
    · split
      · exact .respond _ _ _ _
      refine .trans (.ofDrains rfl
        (fun h => LogReserved.copyFor (s := s.setDrain p ((s.drains.get p).enableAt s.log.freed)) h p)
        fun h => ?_) (.respond _ _ _ _)
      obtain ⟨-, other⟩ := (drainsConsistent_iff s p).1 h
      refine copyFor_consistent _ p ?_ ?_
      · simpa using Drain.enableAt_holds _ _
      · simpa using other

theorem handed_iff (d : Drain) (n : PageName) :
    d.handed n = true ↔ d.enabled = true ∧ (d.page n).owner = .port := by
  simp [Drain.handed]

/-- A page that the port may release is the older one. -/
theorem older_of_released {d : Drain} {n : PageName} (handed : d.handed n = true)
    (older : ¬ (d.bothHanded && decide (n ≠ d.toggle)) = true) : n = d.toggle ∨ (d.page n.other).owner = .part := by
  obtain ⟨enabled, own⟩ := (handed_iff d n).1 handed
  by_cases top : n = d.toggle
  · exact .inl top
  · refine .inr ?_
    cases other : (d.page n.other).owner with
    | part => rfl
    | port =>
      refine absurd ?_ older
      have both : d.bothHanded = true := by
        cases n <;> simp_all [Drain.bothHanded, handed_iff, PageName.other]
      simp [both, top]

theorem answers_releasePage (p : Port) (page : Nat) (s : State) : Answers s (execReleasePage p page s) :=
  .open_ s p _ fun s => by
    split
    · exact .respond _ _ _ _
    next n _ =>
      dsimp only
      split
      · exact .respond _ _ _ _
      next handed =>
        split
        · exact .respond _ _ _ _
        next older =>
          simp only [Bool.not_eq_true, Bool.not_eq_false'] at handed
          refine .trans (.ofDrains rfl
            (fun h => LogReserved.copyFor (LogReserved.freeLog (s := s.setDrain p ((s.drains.get p).release n)) h) p)
            fun h => ?_) (.respond _ _ _ _)
          obtain ⟨own, other⟩ := (drainsConsistent_iff s p).1 h
          refine copyFor_consistent _ p (freeLog_holds _ p ?_).1 (freeLog_consistent _ p.other ?_)
          · obtain ⟨enabled, owner⟩ := (handed_iff _ _).1 handed
            simpa using Drain.release_holds own.1 n enabled owner (older_of_released handed older)
          · simpa using other

/-- A channel whose flush timer runs is filling a page of its own. -/
theorem filling_of_flush {d : Drain} {l : ReportLog} (h : d.HoldsItsRecords l) (flush : d.flush.isSome = true) :
    d.Filling l := by
  have enabled : d.enabled = true := by
    unfold Drain.HoldsItsRecords at h
    split at h
    · assumption
    · simp [h.2.2.2.2] at flush
    · exact h.elim
  obtain ⟨consumed, copy, hc, hk, h1, h2, h3, held, top, bottom, port, part, other⟩ := h.enabled enabled
  have own : (d.page d.toggle).owner = .part := by
    cases owner : (d.page d.toggle).owner with
    | part => rfl
    | port => simp [(port owner).2] at flush
  exact ⟨enabled, consumed, copy, hc, hk, h1, h2, h3, d.held_part own ▸ held, own, top, bottom, (part own).2, other⟩

theorem answers_flushTimerExpiry (p : Port) (s : State) : Answers s (execFlushTimerExpiry p s) := by
  refine .next ?_
  split
  next due =>
    refine .ofDrains rfl
      (fun h => LogReserved.copyFor (s := (s.setDrain p ((s.drains.get p).handOver .flush)).raiseFor p .pageReady) h p)
      fun h => ?_
    obtain ⟨own, other⟩ := (drainsConsistent_iff s p).1 h
    have running : (s.drains.get p).flush.isSome = true := by
      unfold State.flushDue at due
      split at due
      next e flush => rw [flush]; rfl
      · cases due
    refine copyFor_consistent _ p ?_ ?_
    · simpa using (filling_of_flush own.1 running).handOver_holds .flush
    · simpa using other
  · exact .refl s

/-! ### START, ABORT and ADJUST -/

theorem answers_start (p : Port) (s : State) : Answers s (execStart p s) :=
  .gated s p _ fun s => by
    split
    · refine .trans (.setSeq s { s.seq with startBoundary := some s.nextBoundary } rfl id fun _ may => ?_)
        (.respond _ _ _ _)
      exact may
    · exact .respond _ _ _ _

theorem Keeps.endAtStateExit (s : State) : Keeps s s.endAtStateExit := by
  unfold State.endAtStateExit
  split
  · exact .refl s
  · refine .trans (.setSeq s { s.seq with
      endAtExit := true, chosen := s.seq.chosen.map fun c => c.toEnd s.nextBoundary, deferring := false } rfl id
      fun i may => ?_) (.ofLogs (Logs.offer _ _ _))
    unfold State.MayEnter at may ⊢
    dsimp only at may
    split at may
    · assumption
    · rcases may with ⟨c, chosen, target⟩ | visit
      · obtain ⟨c', -, rfl⟩ := Option.map_eq_some_iff.1 chosen
        cases target
      · exact .inr visit
    · exact may

theorem answers_abort (p : Port) (option : Nat) (s : State) : Answers s (execAbort p option s) :=
  .open_ s p _ fun s => by
    split
    · exact .respond _ _ _ _
    split
    · exact .respond _ _ _ _
    · exact .trans (.softAbort _ _) (.respond _ _ _ _)
    · refine .trans ?_ (.respond _ _ _ _)
      split
      · exact .endAtStateExit s
      · exact .softAbort _ _
    · exact .trans (.softAbort _ _) (.respond _ _ _ _)
    · exact .respond _ _ _ _

theorem setQuantity_last (c : SynthChannel) (cfg : ChannelConfig) (q : Quantity) (v : Int) :
    (c.setQuantity cfg q v).last = c.last := by cases q <;> rfl

theorem Keeps.adjust (s : State) (p : Port) (t : Target) (q : Quantity) (delta : Bool) (v : Int) :
    Keeps s (s.adjust p t q delta v) := by
  refine .trans (.setSynth s (s.adjustChannels t q delta v).synth fun c => ?_) (.ofLogs (Logs.offer _ _ _))
  simp only [State.adjustChannels, PerChannel.get_mapWith]
  split
  · exact setQuantity_last _ _ _ _
  · rfl

theorem answers_adjust (p : Port) (target quantity mode : Nat) (value : Int) (s : State) :
    Answers s (execAdjust p target quantity mode value s) :=
  .gated s p _ fun s => by
    split
    · exact .respond _ _ _ _
    split
    · exact .respond _ _ _ _
    · exact .respond _ _ _ _
    · exact .respond _ _ _ _
    split
    · exact .respond _ _ _ _
    · exact .trans (.adjust s p _ _ _ _) (.respond _ _ _ _)

/-! ### ARM -/

/-- The sequencer, the Time Base, the log's counts, the guard and the peer link at ARM, before SHOT_START (R24). -/
def armedState (s : State) (p : Port) (a : ArmPlan) : State :=
  { s with
    seq := s.seq.armed p a
    time := s.time.armed
    log := s.log.armed
    guard := { s.guard with period := a.period, expiry := none, latches := FaultLatches.allClear }
    peer := s.peer.armed a }

theorem armShot_eq (s : State) (p : Port) (a : ArmPlan) (r : StateRecord) :
    s.armShot p a r
      = (((((((armedState s p a).writeShotStart p a).setInitialPosition a.opened).armSynth r).clearAmpCounts).fixStart
          a.mode).propose) := rfl

/-- SHOT_START and the reservation make the log of a shot (R114). -/
theorem writeShotStart_reserved (s : State) (p : Port) (a : ArmPlan) (idle : s.seq.phase = .idle)
    (room : ¬ s.log.free < 2) (h : s.LogReserved) : ((armedState s p a).writeShotStart p a).LogReserved := by
  have unreserved : s.log.reservation = 0 := by simpa [State.shotActive, idle] using h.2
  have size : s.log.records.length ≤ 1022 := by
    simp only [ReportLog.free] at room
    omega
  have active : ((armedState s p a).writeShotStart p a).shotActive = true := by
    simp [State.shotActive, State.writeShotStart, armedState, Sequencer.armed]
  refine ⟨?_, by rw [active]; rfl⟩
  simp only [State.writeShotStart, offer_log]
  rcases ReportLog.offered_records (armedState s p a).log ((armedState s p a).makeRecord 0
    (.shotStart p a.mode (armedState s p a).time.lock a.mode.startTime)) with same | more
  · rewrite [same]
    show s.log.records.length + 1 ≤ 1024
    omega
  · rewrite [more]
    simp only [armedState, ReportLog.armed, List.length_append, List.length_singleton]
    omega

/-- The walk of ARM has found every state that the first one leads to. -/
theorem ahead_of_armWalk {s t : State} {first : Fin 32} (walk : s.armWalk first = none) (store : t.store = s.store)
    (phase : t.seq.phase = .armed) (start : t.seq.firstState = some first) : t.AheadDefined := by
  intro i j may leads
  unfold State.MayEnter at may
  rewrite [phase, start] at may
  obtain rfl := Option.some.inj may
  rewrite [armWalk_eq] at walk
  rewrite [store] at leads ⊢
  exact active_of_walk_none walk (List.mem_singleton.2 rfl) leads

theorem shotConsistent_armed (s : State) (p : Port) (a : ArmPlan) (idle : s.seq.phase = .idle) (h : s.ShotConsistent) :
    ((armedState s p a).writeShotStart p a).ShotConsistent := by
  obtain ⟨running, context, -, -, -, owned⟩ := h
  have noVisit : s.seq.visit = none := by simpa [idle] using running
  have noContext : s.assess = none := by simpa [noVisit] using context
  refine ⟨?_, ?_, ?_, ?_, ?_, fun x m b owner => ?_⟩
  · simp [State.writeShotStart, armedState, Sequencer.armed, Sequencer.powerOn]
  · simp [State.writeShotStart, armedState, Sequencer.armed, Sequencer.powerOn, noContext]
  · simp [State.writeShotStart, armedState, Sequencer.armed, Sequencer.powerOn]
  · simp [State.writeShotStart, armedState, Sequencer.armed, Sequencer.powerOn]
  · simp [State.writeShotStart, armedState, Sequencer.armed, Sequencer.powerOn]
  · simp only [State.writeShotStart, offer_keeps] at m
    obtain ⟨v, visit, -⟩ := owned x m b owner
    rewrite [noVisit] at visit
    cases visit

theorem Keeps.writeShotStart (s : State) (p : Port) (a : ArmPlan) (idle : s.seq.phase = .idle)
    (room : ¬ s.log.free < 2) (walk : s.armWalk a.first = none) :
    Keeps s ((armedState s p a).writeShotStart p a) := by
  have logs := Logs.offer (armedState s p a) 0 (.shotStart p a.mode (armedState s p a).time.lock a.mode.startTime)
  have moved := (Keeps.ofLogs logs)
  have muted : s.injecting = true → (armedState s p a).injecting = true := by simp [State.injecting, idle]
  refine ⟨⟨⟨fun h => moved.time h, moved.groups, moved.order, moved.owners,
    writeShotStart_reserved s p a idle room, moved.codes, moved.ranges, moved.counts, fun h => ?_,
    fun h => moved.poles (Leaves.consistent (s := s) (.same rfl rfl muted) h)⟩,
    shotConsistent_armed s p a idle, fun _ => ?_⟩, fun _ armed => ?_⟩
  · have before : (armedState s p a).DrainsConsistent :=
      DrainsConsistent.sameRecords s s.log.armed rfl rfl h
    have after := logs.drains before
    exact ⟨after.1.sameRecords rfl rfl, after.2.sameRecords rfl rfl⟩
  · refine ahead_of_armWalk walk ?_ ?_ ?_ <;> simp [State.writeShotStart, armedState, Sequencer.armed]
  · simp [State.writeShotStart, armedState, Sequencer.armed] at armed

theorem reacts_setInitialPosition (s : State) (opened : Bool) : s.Reacts (s.setInitialPosition opened) := by
  unfold State.setInitialPosition
  split
  · have poles : (allPoles.foldl (fun s p => s.dropPole p) s).Reacts (s.placeInitial opened) :=
      State.Reacts.of _ _ (by simp [State.placeInitial]) (by simp [State.placeInitial]) rfl rfl rfl rfl
        (by simp [State.placeInitial]) (by simp [State.placeInitial]) rfl (by simp [State.placeInitial]) (.refl _ _)
    exact ((Reacts.foldl _ (fun s p => Reacts.dropPole s p) allPoles s).trans poles).trans
      ((Reacts.deliverPoles _ _).trans (Reacts.refreshAux _))
  · exact .refl s

theorem Keeps.armSynth (s : State) (r : StateRecord) : Keeps s (s.armSynth r) :=
  .setSamples s (s.armSynth r).synth s.amp fun h c => ⟨by
    simp only [armSynth_synth, PerChannel.get_mapWith]
    exact codeInRange_zero, (h c).2⟩

theorem Keeps.setStart (s : State) (b : Option Nat) :
    Keeps s { s with seq := { s.seq with startBoundary := b } } :=
  .setSeq s { s.seq with startBoundary := b } rfl id fun _ may => may

theorem Keeps.clearAmpCounts (s : State) : Keeps s s.clearAmpCounts := .same rfl

theorem Keeps.fixStart (s : State) (m : StartMode) : Keeps s (s.fixStart m) :=
  .ite _ fun _ => .setStart _ _

theorem Keeps.propose (s : State) : Keeps s s.propose := by
  unfold State.propose
  split
  · exact .send _ _
  · exact .refl s

theorem Keeps.armShot (s : State) (p : Port) (a : ArmPlan) (r : StateRecord) (idle : s.seq.phase = .idle)
    (room : ¬ s.log.free < 2) (walk : s.armWalk a.first = none) : Keeps s (s.armShot p a r) := by
  rewrite [armShot_eq]
  refine (Keeps.writeShotStart s p a idle room walk).trans ?_
  refine (Keeps.ofReacts (reacts_setInitialPosition _ a.opened) (setInitialPosition_consistent a.opened)).trans ?_
  refine (Keeps.armSynth _ r).trans ?_
  refine (Keeps.clearAmpCounts _).trans ?_
  exact (Keeps.fixStart _ _).trans (.propose _)

theorem room_of_armRefusal {s : State} {a : ArmPlan} (h : s.armRefusal a = none) : ¬ s.log.free < 2 := by
  unfold State.armRefusal at h
  split at h
  · cases h
  split at h
  · cases h
  split at h
  · cases h
  · assumption

set_option Elab.async false in
theorem answers_arm (p : Port) (first mode : Nat) (mask value : Mask) (startTime : AbsTime)
    (peer period initial : Nat) (s : State) :
    Answers s (execArm p first mode mask value startTime peer period initial s) :=
  .gated s p _ fun s => by
    split
    · exact .respond _ _ _ _
    next quiet =>
      split
      · exact .respond _ _ _ _
      next a _ =>
        split
        · exact .respond _ _ _ _
        · exact .respond _ _ _ _
        · exact .respond _ _ _ _
        next r accepted walk _ =>
          exact .trans (.armShot s p a r (phase_of_shotActive_false quiet) (room_of_armRefusal accepted) walk)
            (.respond _ _ _ _)

end Sys2Proof.Proofs.Invariants
end

section
/-! PROOF. What the guard, the inputs, the samples, the clock and the peer's frames do to the invariants (O5 to O13). -/

namespace Sys2Proof.Proofs.Invariants

open Sys2Proof Sys2Proof.Machine Sys2Proof.Proofs.Poles

/-! ### The guard -/

theorem Keeps.setGuard (s : State) (x : Guard) : Keeps s { s with guard := x } := .same rfl

theorem answers_eStopAsserted (s : State) : Answers s (execEStopAsserted s) := by
  refine .next ?_
  split
  · exact .refl s
  · exact (Keeps.setGuard s _).trans (.guardCause _ _)

theorem answers_eStopReleased (s : State) : Answers s (execEStopReleased s) := .next (.setGuard s _)

theorem answers_keepaliveExpiry (s : State) : Answers s (execKeepaliveExpiry s) :=
  .next (.ite _ fun _ => (Keeps.setGuard s { s.guard with expiry := none }).trans (.guardCause _ _))

/-! ### Inputs -/

theorem Keeps.sampleInputs (s : State) :
    Keeps s { s with inputs := s.inputs.sample s.moment, time := { s.time with inputsDone := true } } :=
  (Keeps.setInputs s (s.inputs.sample s.moment)).trans (.setTime _ { s.time with inputsDone := true } id)

theorem answers_inputSample (pins : BitVec 12) (s : State) : Answers s (execInputSample pins s) := by
  refine .next ((Keeps.setInputs s { s.inputs with pins := pins }).trans (.ite _ fun _ => ?_))
  exact .sampleInputs _

theorem answers_acceptedChange (n : Fin 12) (s : State) : Answers s (execAcceptedChange n s) := by
  refine .next ?_
  split
  next t _ _ =>
    unfold State.acceptChange
    dsimp only
    refine .trans ?_ (.trans (.setInputs _ _) (.ofReacts (Reacts.inputChanged _ _ n true t.at_ t.abs) ?_))
    · exact .ite _ fun _ => .ofLogs (Logs.offer _ _ _)
    · exact inputChanged_consistent _ _ _ _ _
  · exact .refl s

/-! ### Samples -/

theorem Keeps.setAmp (s : State) (c : Channel) (a : AmpChannel) : Keeps s (s.setAmp c a) := .same rfl

theorem Keeps.raiseFault (s : State) (c : Channel) (cause : AbortCause) : Keeps s (s.raiseFault c cause) :=
  .ite _ fun _ => (Keeps.setGuard s
    { s.guard with latches := s.guard.latches.set c ((s.guard.latches.get c).set cause) }).trans (.guardCause _ _)

theorem Keeps.takeCount (s : State) (c : Channel) (counted : AmpChannel × Option AbortCause) :
    Keeps s (s.takeCount c counted) := by
  unfold State.takeCount
  split
  · exact (Keeps.setAmp s _ _).trans (.raiseFault _ _ _)
  · exact .setAmp s _ _

theorem answers_amplifierReturn (c : Channel) (status : AmpStatus) (s : State) :
    Answers s (execAmplifierReturn c status s) := by
  refine .next ?_
  split
  · exact .takeCount s c _
  · exact .setAmp s c _

theorem Keeps.takeMissing (s : State) (c : Channel) : Keeps s (s.takeMissing c) :=
  .ite _ fun _ => .takeCount s c _

theorem clampCode_inRange (v : Int) : CodeInRange (clampCode v) := by
  unfold CodeInRange clampCode
  split
  · decide
  split
  · decide
  · omega

/-- A channel's sample and its subframe, both with codes in range. -/
theorem Keeps.setSample (s : State) (c : Channel) (ch : SynthChannel) (f : Subframe) (last : CodeInRange ch.last)
    (code : CodeInRange f.code) : Keeps s ((s.setSynth c ch).setSubframe c f) := by
  refine .setSamples s ((s.setSynth c ch).setSubframe c f).synth ((s.setSynth c ch).setSubframe c f).amp fun h d => ?_
  simp only [State.setSubframe, State.setSynth, PerChannel.get_set]
  split
  · exact ⟨last, code⟩
  · exact h d

theorem Keeps.offerClip (s : State) (c : Channel) (recorded : Bool) : Keeps s (s.offerClip c recorded) := by
  unfold State.offerClip
  split
  · split
    · exact .refl s
    · exact .ofLogs (Logs.offer _ _ _)
  · exact .refl s

theorem Keeps.sampleInjecting (s : State) (c : Channel) : Keeps s (s.sampleInjecting c) := by
  unfold State.sampleInjecting
  dsimp only
  split
  · exact .setSample s c _ _ codeInRange_zero codeInRange_zero
  split
  · exact .setSample s c _ _ codeInRange_zero codeInRange_zero
  · exact .trans (.ite _ fun _ => .offerClip s c _) (.setSample _ c _ _ (clampCode_inRange _) (clampCode_inRange _))

theorem Keeps.sampleMuted (s : State) (c : Channel) : Keeps s (s.sampleMuted c) := by
  unfold State.sampleMuted
  dsimp only
  refine .setSample s c _ _ ?_ codeInRange_zero
  split <;> exact codeInRange_zero

theorem Keeps.sampleChannel (s : State) (c : Channel) : Keeps s (s.sampleChannel c) := by
  unfold State.sampleChannel
  split
  · exact .sampleInjecting s c
  · exact .sampleMuted s c

theorem Keeps.awaitReturns (s : State) : Keeps s s.awaitReturns := .same rfl

theorem Keeps.markSampled (s : State) :
    Keeps s { s with time := { s.time with boundaryPassed := true, sampleDone := true } } := .setTime s _ id

theorem Keeps.sampleBoundary (s : State) : Keeps s s.sampleBoundary := by
  unfold State.sampleBoundary
  extract_lets missed sampled settled
  have keepsMissed : Keeps s missed := .foldl _ .takeMissing allChannels s
  have keepsSampled : Keeps missed sampled := .foldl _ .sampleChannel allChannels missed
  have keepsSettled : Keeps sampled settled :=
    (Keeps.awaitReturns sampled).trans
      (.ofReacts (Reacts.settleInterruptions _) (Leaves.settleInterruptions _).consistent)
  exact ((keepsMissed.trans keepsSampled).trans keepsSettled).trans (.markSampled settled)

theorem answers_sampleBoundary (s : State) : Answers s (execSampleBoundary s) := by
  refine .next ?_
  split
  · exact .sampleBoundary s
  · exact .refl s

@[simp] theorem force_last (c : SynthChannel) : c.force.last = if c.silencing = .interrupting then 0 else c.last := by
  unfold SynthChannel.force
  split <;> simp_all [SynthChannel.silence]

theorem Keeps.forceLimit (s : State) (p : Pole) : Keeps s (s.forceLimit p) := by
  have cut : Keeps s (s.onLinked p (·.force)) := by
    refine .setSamples s (s.onLinked p (·.force)).synth s.amp fun h c => ⟨?_, (h c).2⟩
    simp only [onLinked_synth, PerChannel.get_mapWith]
    split
    · rewrite [force_last]
      split
      · exact codeInRange_zero
      · exact (h c).1
    · exact (h c).1
  refine cut.trans (.trans (.ofReacts (Reacts.setPole _ p _) ?_) (.ofLogs (Logs.offerBreakerOp _ p .opened true s.now)))
  exact (Leaves.setPole _ p { (s.onLinked p (·.force)).breaker.poles.get p with interruption := .complete } rfl
    nofun).consistent

theorem answers_forcedLimit (p : Pole) (s : State) : Answers s (execForcedLimit p s) :=
  .next (.ite _ fun _ => .forceLimit s p)

/-! ### Timed actions -/

/-- An action that is no pole's falls due. -/
theorem Keeps.dropDue {s : State} {a : TimedAction} (due : s.dueAction = some a) (other : a.work.group ≠ .pole) :
    Keeps s s.dropDue := .setActions s _ (.eraseP _ _ _) (Leaves.dropDue due other).actions

theorem reacts_dropDue (s : State) : s.Reacts s.dropDue := Reacts.setActions s _ (.eraseP _ _ _)

theorem answers_openingActionDue (p : Pole) (s : State) : Answers s (execOpeningActionDue p s) := by
  refine .next ?_
  split
  next at_ insertion q owner due =>
    refine .ite _ fun _ => .ofReacts ((reacts_dropDue s).trans (Reacts.completeOpening _ q at_)) fun h => ?_
    obtain ⟨own, others⟩ := dropDue_pole h due rfl
    exact completeOpening_consistent at_ others own (h q).2
  · exact .refl s

theorem answers_closeActionDue (p : Pole) (s : State) : Answers s (execCloseActionDue p s) := by
  refine .next ?_
  split
  next at_ insertion q owner due =>
    refine .ite _ fun _ => .ofReacts ((reacts_dropDue s).trans (Reacts.completeClosing _ q at_)) fun h => ?_
    obtain ⟨own, others⟩ := dropDue_pole h due rfl
    exact completeClosing_consistent at_ others own
  · exact .refl s

theorem answers_stateOutputDue (s : State) : Answers s (execStateOutputDue s) := by
  refine .next ?_
  split
  next due => exact (Keeps.dropDue due nofun).trans (.setOutput _ _ _ _)
  · exact .refl s

theorem answers_tpEdgeDue (s : State) : Answers s (execTpEdgeDue s) := by
  refine .next ?_
  split
  next due =>
    refine (Keeps.dropDue due nofun).trans ?_
    exact .ofReacts ((Hears.applyEdge _ _ _).trans (Hears.resyncCheck _)).toReacts
      ((Leaves.applyEdge _ _ _).trans (.resyncCheck _)).consistent
  · exact .refl s

theorem updateCondition_conditions (f : CondState → CondState) (h : ∀ c, (f c).condition = c.condition) (n : Nat)
    (l : List CondState) :
    (updateCondition f n l).map (fun c => c.condition.unevaluated) = l.map fun c => c.condition.unevaluated := by
  induction l generalizing n with
  | nil => cases n <;> rfl
  | cons c rest ih => cases n <;> simp [updateCondition, h, ih]

theorem reacts_conditionFalls (s : State) (i : Fin 4) : s.Reacts (s.conditionFalls i) := by
  refine State.Reacts.of _ _ (by simp [State.conditionFalls]) (by simp [State.conditionFalls]) rfl rfl ?_ rfl
    (by simp [State.conditionFalls]) (by simp [State.conditionFalls]) rfl (by simp [State.conditionFalls]) (.refl _ _)
  cases visit : s.seq.visit with
  | none => simp [State.conditionFalls, visit]
  | some v => simp [State.conditionFalls, visit, Visit.bare, updateCondition_conditions]

set_option Elab.async false in
theorem answers_conditionActionDue (i : Fin 4) (s : State) : Answers s (execConditionActionDue i s) := by
  refine .next ?_
  split
  next due =>
    refine .ite _ fun _ => (Keeps.dropDue due nofun).trans (.ofReacts (reacts_conditionFalls _ _) ?_)
    exact Leaves.consistent (.same rfl rfl fun i => i)
  · exact .refl s

end Sys2Proof.Proofs.Invariants
end

section
/-! PROOF. What the clock and the peer's frames do to the invariants (O5 to O13). -/

namespace Sys2Proof.Proofs.Invariants

open Sys2Proof Sys2Proof.Machine Sys2Proof.Proofs.Poles

/-! ### The clock -/

theorem judge_inRange {t : TimeBase} (active : Bool) (h : t.InRange) : (t.judge active).InRange := by
  unfold TimeBase.judge
  split
  · split <;> exact h
  · exact h

theorem Keeps.setLock (s : State) (l : LockState) : Keeps s (s.setLock l) := by
  unfold State.setLock
  split
  · exact .refl s
  · refine .trans ?_ (.ite _ fun _ => .softAbort _ .timeLost)
    refine .trans ?_ (.ofLogs (Logs.raiseBoth _ .timeQuality))
    exact .setTime s (TimeBase.judge { s.time with lock := l } s.shotActive)
      (judge_inRange (t := { s.time with lock := l }) _)

theorem phaseError_inRange {c : Nat} (h : c < 1000000) : -500000 ≤ phaseError c ∧ phaseError c ≤ 499999 := by
  unfold phaseError
  split <;> omega

theorem nextSecondOf_lt (n : Nat) : nextSecondOf n < 4294967296 := Nat.mod_lt _ (by decide)

theorem advanceLocal_lt (t n : Nat) : advanceLocal t n < 18446744073709551616 := Nat.mod_lt _ (by decide)

theorem setGood_inRange {t : TimeBase} (n : Nat) (slew : Slew) (h : t.InRange) (le : n ≤ 3) :
    TimeBase.InRange { t with good := n, slew := slew } := by
  obtain ⟨counter, seconds, localTime, -, rest⟩ := h
  exact ⟨counter, seconds, localTime, le, rest⟩

theorem countGood_inRange {t : TimeBase} (h : t.InRange) : t.countGood.InRange := by
  refine setGood_inRange _ _ h ?_
  split
  · exact Nat.min_le_left _ _
  · exact Nat.zero_le _

theorem rephase_inRange {t : TimeBase} (h : t.InRange) : t.rephase.InRange := by
  obtain ⟨-, seconds, localTime, good, loaded, -, error⟩ := h
  refine ⟨by simp [TimeBase.rephase], ?_, localTime, good, nofun, nofun, error⟩
  unfold TimeBase.rephase
  dsimp only
  split
  next n number => exact loaded n number
  · split
    · exact nextSecondOf_lt _
    · exact seconds

theorem takeLoaded_inRange {t : TimeBase} (e : Int) (h : t.InRange) : (t.takeLoaded e).InRange := by
  unfold TimeBase.takeLoaded
  split
  · exact h
  next n number =>
    obtain ⟨counter, seconds, localTime, good, loaded, next, error⟩ := h
    have lt := loaded n number
    split
    · exact ⟨counter, lt, localTime, good, nofun, next, error⟩
    · exact ⟨counter, seconds, localTime, good, nofun, fun m e => by cases e; exact lt, error⟩

theorem slewFor_inRange {t : TimeBase} (e : Int) (h : t.InRange) : (t.slewFor e).InRange := by
  unfold TimeBase.slewFor
  split
  · exact h
  split
  · exact h
  · exact h

theorem ite_inRange {t u : TimeBase} (c : Prop) [Decidable c] (h : t.InRange) (k : u.InRange) :
    (if c then t else u).InRange := by
  split
  · exact h
  · exact k

theorem edge_inRange {t : TimeBase} (active : Bool) (h : t.InRange) : (t.edge active).1.InRange := by
  have cleared : ∀ slew, TimeBase.InRange { t with good := 0, slew := slew } := fun slew =>
    setGood_inRange 0 slew h (Nat.zero_le 3)
  have slewed := slewFor_inRange (phaseError t.counter) h
  unfold TimeBase.edge
  dsimp only
  split
  case h_1 => exact ite_inRange _ (cleared t.slew) (rephase_inRange (cleared t.slew))
  case h_2 => exact ite_inRange _ (countGood_inRange h) (rephase_inRange (countGood_inRange h))
  case h_3 =>
    split
    · exact ite_inRange _ slewed (takeLoaded_inRange _ slewed)
    · exact ite_inRange _ (cleared .none) (rephase_inRange (cleared .none))
  case h_4 =>
    split
    · exact ite_inRange _ slewed (takeLoaded_inRange _ slewed)
    · exact ite_inRange _ (cleared t.slew) (rephase_inRange (cleared t.slew))

theorem store_inRange {t : TimeBase} {e : Int} (h : t.InRange) (k : -500000 ≤ e ∧ e ≤ 499999) :
    (t.store e).InRange := by
  obtain ⟨counter, seconds, localTime, good, loaded, next, -⟩ := h
  exact ⟨counter, seconds, localTime, good, loaded, next, k⟩

theorem answers_ppsEdge (s : State) : Answers s (execPpsEdge s) := by
  refine .next ((Keeps.setTime s ((s.time.edge s.shotActive).1.store (phaseError s.time.counter)) fun h => ?_).trans
    (.setLock _ _))
  exact store_inRange (edge_inRange _ h) (phaseError_inRange h.1)

theorem fresh_inRange {t : TimeBase} (h : t.InRange) : t.fresh.InRange := h

theorem slewed_inRange {t : TimeBase} (room : t.counter = 500004) (h : t.InRange) : t.slewed.InRange := by
  unfold TimeBase.slewed
  split
  · exact h
  · exact h
  · obtain ⟨-, seconds, -, rest⟩ := h
    exact ⟨by simp [TimeBase.fresh, room], seconds, advanceLocal_lt _ _, rest⟩

theorem advance_inRange {t : TimeBase} (h : t.InRange) : t.advance.InRange := by
  obtain ⟨counter, seconds, localTime, good, loaded, next, error⟩ := h
  unfold TimeBase.advance
  dsimp only
  split
  · refine ⟨Nat.zero_lt_succ _, ?_, advanceLocal_lt _ _, good, loaded, nofun, error⟩
    show t.nextSecond.getD (nextSecondOf t.seconds) < 4294967296
    cases number : t.nextSecond with
    | none => exact nextSecondOf_lt _
    | some n => exact next n number
  next other =>
    have below : t.counter + 1 < 1000000 := by
      simp only [TimeBase.fresh] at other
      omega
    exact ⟨below, seconds, advanceLocal_lt _ _, good, loaded, next, error⟩

theorem answers_slewPoint (s : State) : Answers s (execSlewPoint s) := by
  refine .next (.ite _ fun due => .setTime s s.time.slewed (slewed_inRange ?_))
  simp only [TimeBase.slewDue, Bool.and_eq_true, decide_eq_true_eq] at due
  exact due.1.1

theorem Keeps.advanceClock (s : State) : Keeps s s.advanceClock :=
  (Keeps.setTime s s.time.advance advance_inRange).trans (.setTime _ { s.time.advance with endFixed := _ } id)

theorem answers_ppsTimeout (s : State) : Answers s (execPpsTimeout s) := by
  refine .next ?_
  split
  · split
    · exact .setLock s _
    · exact (Keeps.setTime s { s.time with good := 0 } fun h => setGood_inRange 0 _ h (Nat.zero_le 3)).trans
        (.setLock _ _)
  · exact .refl s

theorem answers_holdoverTimeout (s : State) : Answers s (execHoldoverTimeout s) :=
  .next (.ite _ fun _ => .setLock s _)

/-! ### The peer link -/

theorem Keeps.setPeer (s : State) (x : PeerLink) : Keeps s { s with peer := x } := .same rfl

theorem Keeps.restartLoss (s : State) : Keeps s s.restartLoss := .setPeer s _

theorem Keeps.discard (s : State) : Keeps s s.discard := .setPeer s _

theorem Keeps.setLink (s : State) (l : LinkState) : Keeps s (s.setLink l) := by
  unfold State.setLink
  split
  · exact .refl s
  · refine .trans ?_ (.ite _ fun _ => .softAbort _ .peerLost)
    exact (Keeps.setPeer s { s.peer with link := l }).trans (.ofLogs (Logs.raiseBoth _ .peerLink))

theorem Answers.receive (s : State) (take : State → State) (h : ∀ t, Keeps t (take t)) :
    Answers s (s.receive take) := by
  refine .next ?_
  split
  · exact .restartLoss s
  · exact ((Keeps.restartLoss s).trans (.setLink _ .up)).trans (h _)
  · exact (Keeps.restartLoss s).trans (h _)

theorem answers_invalidPeerFrame (s : State) : Answers s (execInvalidPeerFrame s) := .next (.discard s)

theorem Keeps.hello (s : State) (tag : BitVec 64) (heard : Bool) :
    Keeps s (State.setLink { s.restartLoss with peer := { s.restartLoss.peer with farTag := some tag } }
      (s.peer.link.afterHello heard)) :=
  ((Keeps.restartLoss s).trans (.setPeer s.restartLoss { s.restartLoss.peer with farTag := some tag })).trans
    (.setLink _ _)

theorem answers_hello (version : Byte) (tag : BitVec 64) (heard : Bool) (s : State) :
    Answers s (execHello version tag heard s) := by
  refine .next ?_
  split
  · exact .hello s tag heard
  · exact .discard s

theorem answers_keepalive (s : State) : Answers s (execKeepalive s) := .receive s _ .refl

theorem answers_sendTimerExpiry (s : State) : Answers s (execSendTimerExpiry s) := by
  refine .next ?_
  split
  · exact (Keeps.setPeer s { s.peer with sendAt := s.peer.sendAt + 10000, sent := s.peer.sent ++ [s.timerFrame] }).trans
      (.propose _)
  · exact .refl s

theorem answers_lossTimerExpiry (s : State) : Answers s (execLossTimerExpiry s) := by
  refine .next ?_
  split
  · exact (Keeps.setPeer s { s.peer with lossAt := none }).trans (.setLink _ _)
  · exact .refl s

/-- A start time agreed. -/
theorem Keeps.agree (s : State) (t : AbsTime) : Keeps s (s.agree t) :=
  (Keeps.setSeq s { s.seq with startTime := some t } rfl id fun _ may => may).trans (.same rfl)

theorem answers_startPropose (t : AbsTime) (s : State) : Answers s (execStartPropose t s) :=
  .receive s _ fun s => by
    split
    · exact .send s _
    · exact (Keeps.agree s t).trans (.send _ _)
    · exact .send s _

theorem answers_startAccept (t : AbsTime) (s : State) : Answers s (execStartAccept t s) :=
  .receive s _ fun s => .ite _ fun _ => .setPeer s _

theorem answers_startReject (t : AbsTime) (reason : RejectReason) (s : State) :
    Answers s (execStartReject t reason s) :=
  .receive s _ fun s => by
    split
    · dsimp only
      split
      · exact .setPeer s _
      · exact (Keeps.setPeer s { s.peer with lastReject := some reason }).trans (.softAbort _ _)
    · exact .refl s

theorem answers_acceptDeadline (s : State) : Answers s (execAcceptDeadline s) :=
  .next (.ite _ fun _ => .softAbort s _)

theorem Keeps.logRemote (s : State) (input : Nat) (level : Bool) (t : AbsTime) :
    Keeps s (s.logRemote input level t) := by
  unfold State.logRemote
  split
  · exact Keeps.trans (t := s.useFree) (.same rfl) (.ofLogs (Logs.offer _ _ _))
  · exact .setPeer s _

theorem answers_eventFrame (input : Nat) (role : InputRole) (level : Bool) (t : AbsTime) (shot carrier : Bool)
    (s : State) : Answers s (execEventFrame input role level t shot carrier s) :=
  .receive s _ fun s => by
    refine Keeps.trans (t := if shot then s.logRemote input level t else s) (.ite _ fun _ => .logRemote s _ _ _) ?_
    exact .ite _ fun _ => .ofReacts (Reacts.takeEdge _ _ _) (Leaves.takeEdge _ _ _).consistent

theorem answers_stateFrame (state : Nat) (cause : EntryCause) (t : AbsTime) (s : State) :
    Answers s (execStateFrame state cause t s) :=
  .receive s _ fun _ => .ite _ fun _ => .same rfl

theorem answers_abortFrame (cause : AbortCause) (s : State) : Answers s (execAbortFrame cause s) :=
  .receive s _ fun s => by
    split
    · split
      · exact .softAbort s _
      · exact .softAbort s _
      · exact .softAbort s _
      · exact .refl s
      · exact .refl s
    · exact .refl s

set_option Elab.async false in
theorem answers_endFrame (cause : EndCause) (s : State) : Answers s (execEndFrame cause s) :=
  .receive s _ fun s => .ite _ fun _ => .setPeer s _

end Sys2Proof.Proofs.Invariants
end

section
/-! PROOF. What the sequencer's events do to the invariants (O5 to O13). -/

namespace Sys2Proof.Proofs.Invariants

open Sys2Proof Sys2Proof.Machine Sys2Proof.Proofs.Poles

/-! ### The choice -/

theorem firstCandidate_mem {now n i : Nat} {l : List CondState} {c : Condition}
    (h : firstCandidate now n l = some (i, c)) : ∃ x ∈ l, x.condition = c := by
  induction l generalizing n with
  | nil => cases h
  | cons x rest ih =>
    unfold firstCandidate at h
    have later : firstCandidate now (n + 1) rest = some (i, c) → ∃ y ∈ x :: rest, y.condition = c := fun k =>
      let ⟨y, mem, same⟩ := ih k
      ⟨y, List.mem_cons_of_mem x mem, same⟩
    split at h
    · split at h
      · cases h
        exact ⟨x, List.mem_cons_self, rfl⟩
      · exact later h
    · exact later h

theorem transitionTo_state {s : State} {target : Next} {cause : EntryCause} {i : Fin 32}
    (h : (s.transitionTo target cause).target = .state i) : target = .state i := by
  unfold State.transitionTo at h
  dsimp only at h
  split at h
  · cases h
  · exact h

/-- What the sequencer chooses lies ahead of it. -/
theorem mayEnter_of_transition {s : State} {c : Chosen} {i : Fin 32} (running : s.seq.phase = .running)
    (h : s.transition = some c) (target : c.target = .state i) : s.MayEnter i := by
  unfold State.MayEnter
  rewrite [running]
  unfold State.transition at h
  split at h
  next d chosen =>
    cases h
    exact .inl ⟨c, chosen, target⟩
  · split at h
    · cases h
    next v visit =>
      refine .inr ⟨v, visit, ?_⟩
      split at h
      next j d candidate =>
        cases h
        obtain ⟨x, mem, rfl⟩ := firstCandidate_mem candidate
        exact .inl ⟨x, mem, transitionTo_state target⟩
      · split at h
        next timeout =>
          cases h
          exact .inr ⟨by simp [timeout], transitionTo_state target⟩
        · cases h

theorem running_of_choiceOpen {s : State} (h : s.choiceOpen = true) : s.seq.phase = .running := by
  simp only [State.choiceOpen, Bool.and_eq_true, decide_eq_true_eq] at h
  exact h.1.1.1

theorem choiceOfState_some {s : State} {c : Chosen} {i : Fin 32} (h : s.choiceOfState = some (c, i)) :
    s.choiceOpen = true ∧ s.transition = some c ∧ c.target = .state i := by
  unfold State.choiceOfState at h
  split at h
  next open_ =>
    split at h
    next d transition =>
      split at h
      next j target =>
        cases h
        exact ⟨open_, transition, target⟩
      · cases h
    · cases h
  · cases h

/-- A choice taken leads nowhere that the sequencer could not come to. -/
theorem Keeps.setChosen (s : State) (c : Chosen) (d : Bool)
    (ahead : s.seq.phase = .running → ∀ i, c.target = .state i → s.MayEnter i) :
    Keeps s { s with seq := { s.seq with chosen := some c, deferring := d } } := by
  refine .setSeq s { s.seq with chosen := some c, deferring := d } rfl id fun i may => ?_
  have before := ahead
  unfold State.MayEnter at may before ⊢
  dsimp only at may
  split at may
  · exact may
  next running =>
    rcases may with ⟨x, chosen, target⟩ | visit
    · cases chosen
      have := before running i target
      rwa [running] at this
    · exact .inr visit
  · exact may

theorem Keeps.defer (s : State) (c : Chosen)
    (ahead : s.seq.phase = .running → ∀ i, c.target = .state i → s.MayEnter i) : Keeps s (s.defer c) :=
  (Keeps.setChosen s c true ahead).trans (.passBoundary _)

theorem Keeps.deferChoice (s : State) (c : Chosen) (i : Fin 32) (h : s.choiceOfState = some (c, i)) :
    Keeps s (s.defer c) := by
  obtain ⟨-, transition, -⟩ := choiceOfState_some h
  exact .defer s c fun running j target => mayEnter_of_transition running transition target

theorem answers_stateTimeout (s : State) : Answers s (execStateTimeout s) := by
  refine .next ?_
  split
  · split
    next c transition =>
      have ahead : s.seq.phase = .running → ∀ i, c.target = .state i → s.MayEnter i := fun running i target =>
        mayEnter_of_transition running transition target
      split
      · split
        · exact .setChosen s c s.seq.deferring ahead
        · exact .defer s c ahead
      · exact .setChosen s c s.seq.deferring ahead
    · exact .refl s
  · exact .refl s

/-! ### The ramp -/

theorem Keeps.rampStep (s : State) : Keeps s s.rampStep := by
  unfold State.rampStep
  split
  · refine .setSynth s { channels := _, ramp := _ } fun c => ?_
    simp only [setRampValue, PerChannel.get_mapWith]
    split
    · exact setQuantity_last _ _ _ _
    · rfl
  · exact .refl s

theorem Keeps.settleChoice (s : State) : Keeps s s.settleChoice := by
  unfold State.settleChoice
  split
  next c i choice =>
    split
    · exact .refl s
    · exact .deferChoice s c i choice
  · exact .refl s

theorem answers_rampStep (s : State) : Answers s (execRampStep s) := by
  refine .next ?_
  split
  · exact ((Keeps.settleChoice s).trans (.rampStep _)).trans (.passBoundary _)
  · exact .refl s

/-! ### Entries -/

/-- What an entry does up to its output actions (R30). -/
def entering (s : State) (i : Fin 32) (r : StateRecord) (cause : EntryCause) (deferred first : Bool) : State :=
  let s := s.beginVisit i r first
  let s := s.refreshReceive s.now
  let s := s.evaluateConditions s.now
  let s := s.offer (s.shotTime s.now) (.stateEntry i cause deferred)
  let s := if first then s.raiseBoth .shotStarted else s
  let s := s.raiseBoth .stateEntered
  let s := s.loadSynth r first
  r.actions.foldl (fun s a => s.scheduleAction (decide (s.seq.visitCounts[i]'i.isLt = 1)) a) s

theorem enterState_eq (s : State) (i : Fin 32) (r : StateRecord) (cause : EntryCause) (deferred first : Bool) :
    s.enterState i r cause deferred first
      = (let t := (entering s i r cause deferred first).openContext i r
         let t := if t.seq.peerLinked then t.send (.state i.val cause t.timeOfDay) else t
         if first then t.startKeepalive else t) := rfl

theorem loadEntry_last (c : SynthChannel) (cfg : ChannelConfig) (e : ChannelEntry) :
    (c.loadEntry cfg e).last = c.last := rfl

theorem reacts_loadSynth (s : State) (r : StateRecord) (first : Bool) : s.Reacts (s.loadSynth r first) := by
  refine State.Reacts.trans ?_ (Reacts.settleInterruptions _)
  refine State.Reacts.of _ _ (by simp) (by simp) rfl rfl rfl rfl (by simp) (by simp) rfl ?_ (.refl _ _)
  intro c
  simp only [PerChannel.get_mapWith]
  split
  · simp only [setRampValue, PerChannel.get_mapWith]
    split
    · exact setQuantity_last _ _ _ _
    · rfl
  · simp only [PerChannel.get_mapWith]
    rfl

theorem reacts_scheduleAction (s : State) (firstVisit : Bool) (a : OutputAction)
    (visit : s.seq.visit.map (·.entry) = some s.now) : s.Reacts (s.scheduleAction firstVisit a) := by
  unfold State.scheduleAction
  split
  · exact .refl s
  split
  · exact (Reacts.setActions s _ (.placeAndTake _ _)).trans (Reacts.setOutput _ _ _ _)
  · refine Reacts.setActions s _ (.place _ _ _ _ _ (.inr visit.symm) ?_)
    simp [Work.unowned, Work.group]

theorem now_of_reacts {s t : State} (h : s.Reacts t) : t.now = s.now := by
  obtain ⟨-, -, -, -, -, time, -⟩ := h.keeps
  rw [State.now, State.now, time]

theorem reacts_scheduleActions (i : Fin 32) (l : List OutputAction) (s : State)
    (visit : s.seq.visit.map (·.entry) = some s.now) :
    s.Reacts (l.foldl (fun s a => s.scheduleAction (decide (s.seq.visitCounts[i]'i.isLt = 1)) a) s) := by
  induction l generalizing s with
  | nil => exact .refl s
  | cons a rest ih =>
    have one := reacts_scheduleAction s (decide (s.seq.visitCounts[i]'i.isLt = 1)) a visit
    exact one.trans (ih _ (by rw [one.entry, now_of_reacts one, visit]))

theorem reacts_entering (s : State) (i : Fin 32) (r : StateRecord) (cause : EntryCause) (deferred first : Bool) :
    (s.beginVisit i r first).Reacts (entering s i r cause deferred first) := by
  unfold entering
  extract_lets begun received evaluated recorded started raised loaded
  have reacts : begun.Reacts loaded := by
    refine .trans (t := received) (Reacts.refreshReceive _ _) ?_
    refine .trans (t := evaluated) (Hears.evaluateConditions _ _).toReacts ?_
    refine .trans (t := recorded) (Logs.offer _ _ _).reacts ?_
    refine .trans (t := started) (.ite _ (Logs.raiseBoth _ _).reacts) ?_
    exact .trans (t := raised) (Logs.raiseBoth _ _).reacts (reacts_loadSynth _ _ _)
  refine reacts.trans (reacts_scheduleActions i r.actions loaded ?_)
  rewrite [reacts.entry, now_of_reacts reacts]
  rfl

theorem leaves_entering (s : State) (i : Fin 32) (r : StateRecord) (cause : EntryCause) (deferred first : Bool) :
    Leaves (s.beginVisit i r first) (entering s i r cause deferred first) := by
  unfold entering
  extract_lets begun received evaluated recorded started raised loaded
  refine .trans (t := received) (.refreshReceive _ _) ?_
  refine .trans (t := evaluated) (.evaluateConditions _ _) ?_
  refine .trans (t := recorded) (.ofLogs (Logs.offer _ _ _)) ?_
  refine .trans (t := started) (.ite _ (.ofLogs (Logs.raiseBoth _ _))) ?_
  refine .trans (t := raised) (.ofLogs (Logs.raiseBoth _ _)) ?_
  exact .trans (t := loaded) (.loadSynth _ _ _) (.foldl _ (fun s a => .scheduleAction _ _ _) _ _)

/-- Every state that one leads to is defined. -/
def DefinedFrom (st : ProgramStore) (i : Fin 32) : Prop := ∀ j, Leads st.slots i j → (st.slots[j]'j.isLt).active.isSome = true

theorem DefinedFrom.applyPoint {s : State} {i : Fin 32} (h : DefinedFrom s.store i) :
    DefinedFrom s.applyPoint.store i := by
  unfold State.applyPoint
  split
  · intro j leads
    simp only [raiseBoth_keeps] at leads ⊢
    rewrite [mapSlots_fin]
    exact applyStaged_isSome (h j (leads_mono (fun _ _ => targetsOf_applied) leads))
  · exact h

theorem mem_targetsOf {st : ProgramStore} {i j : Fin 32} {r : StateRecord} (active : (st.slots[i]'i.isLt).active = some r)
    (h : j ∈ r.targets) : j ∈ targetsOf st.slots i := by
  unfold targetsOf
  rewrite [active]
  exact List.mem_append_left _ h

theorem mem_targets {r : StateRecord} {j : Fin 32} :
    j ∈ r.targets ↔ (∃ c ∈ r.conditions, c.next = .state j) ∨ (r.duration ≠ 0 ∧ r.timeoutNext = .state j) := by
  simp only [StateRecord.targets, List.mem_filterMap, List.mem_append, List.mem_map]
  constructor
  · rintro ⟨n | _, way, same⟩
    · cases same
      refine way.imp_right fun mem => ?_
      split at mem
      next timed => exact ⟨timed, (List.mem_singleton.1 mem).symm⟩
      · cases mem
    · cases same
  · rintro (way | ⟨timed, next⟩)
    · exact ⟨.state j, .inl way, rfl⟩
    · exact ⟨.state j, .inr (by simp [timed, next]), rfl⟩

theorem beginVisit_aheadDefined {s : State} {i : Fin 32} {r : StateRecord} (first : Bool)
    (active : (s.store.slots[i]'i.isLt).active = some r) (defined : DefinedFrom s.store i) :
    (s.beginVisit i r first).AheadDefined := by
  intro k j may leads
  refine defined j (.step i k j (mem_targetsOf active (mem_targets.2 ?_)) leads)
  unfold State.MayEnter at may
  simp only [State.beginVisit] at may
  rcases may with ⟨c, chosen, -⟩ | ⟨v, visit, ways⟩
  · cases chosen
  · cases visit
    rcases ways with ⟨c, mem, next⟩ | ⟨timed, next⟩
    · obtain ⟨d, listed, rfl⟩ := List.mem_map.1 mem
      exact .inl ⟨d, listed, next⟩
    · refine .inr ⟨fun zero => ?_, next⟩
      simp [Visit.opened, zero] at timed

/-- The sequencer stands free for an entry: with no end of a shot behind it, and no action of a visit. -/
structure ReadyToEnter (s : State) : Prop where
  active : s.seq.phase ≠ .idle
  ramp : s.seq.rampDownAt = none
  closing : s.seq.closingAt = none
  soft : s.seq.softEnd.isSome = true → s.seq.endCause.isSome = true
  unowned : ∀ a ∈ s.actions.entries, a.owner = none

theorem openContext_shotConsistent {s x : State} {i : Fin 32} {r : StateRecord} {first : Bool}
    (h : (s.beginVisit i r first).Reacts x) (ready : ReadyToEnter s) : (x.openContext i r).ShotConsistent := by
  have phase : x.seq.phase = .running := by rw [h.seq]; rfl
  have visit : x.seq.visit.isSome = true := h.isSome
  have ramp : x.seq.rampDownAt = none := by rw [h.seq]; exact ready.ramp
  have closing : x.seq.closingAt = none := by rw [h.seq]; exact ready.closing
  have soft : x.seq.softEnd.isSome = true → x.seq.endCause.isSome = true := by rw [h.seq]; exact ready.soft
  refine ⟨?_, ?_, ?_, ?_, ?_, fun a mem b owner => ?_⟩
  · simp [State.openContext, phase, visit]
  · simp [State.openContext, visit]
  · simp [State.openContext, phase, ramp]
  · simp [State.openContext, phase, closing]
  · simpa [State.openContext, phase] using soft
  · have entry : x.seq.visit.map (·.entry) = some s.now := h.entry
    rcases h.actions.owned a mem with old | free | own
    · rewrite [ready.unowned a old] at owner
      cases owner
    · rewrite [free] at owner
      cases owner
    · obtain ⟨v, visit, at_⟩ := Option.map_eq_some_iff.1 entry
      refine ⟨v, visit, ?_⟩
      rewrite [at_]
      exact Option.some.inj (own.symm.trans owner)

theorem KeepsBlocks.beginVisit (s : State) (i : Fin 32) (r : StateRecord) (first : Bool) (active : s.seq.phase ≠ .idle) :
    KeepsBlocks s (s.beginVisit i r first) :=
  { KeepsBlocks.refl s with
    time := fun h => h
    poles := (Leaves.beginVisit s i r first).consistent
    reserved := fun h => ⟨h.1, by
      have same : (s.beginVisit i r first).shotActive = s.shotActive :=
        shotActive_congr (by simp [State.beginVisit, active])
      rewrite [same]
      exact h.2⟩ }

theorem Keeps.enterState {s t : State} (i : Fin 32) (r : StateRecord) (cause : EntryCause) (deferred first : Bool)
    (blocks : KeepsBlocks s t) (active : t.seq.phase ≠ .idle) (ready : s.ShotConsistent → ReadyToEnter t)
    (entered : (t.store.slots[i]'i.isLt).active = some r) (defined : s.AheadDefined → DefinedFrom t.store i) :
    Keeps s (t.enterState i r cause deferred first) := by
  have reacts := reacts_entering t i r cause deferred first
  have leaves := leaves_entering t i r cause deferred first
  rewrite [enterState_eq]
  refine Keeps.trans (t := (entering t i r cause deferred first).openContext i r) ?_ ?_
  · have begun := (blocks.trans (.beginVisit t i r first active)).trans (Keeps.ofReacts reacts leaves.consistent).toKeepsBlocks
    have running : (entering t i r cause deferred first).seq.phase = .running := by rw [reacts.seq]; rfl
    exact {
      time := begun.time, groups := begun.groups, order := begun.order, owners := begun.owners
      reserved := begun.reserved, codes := begun.codes, ranges := begun.ranges, counts := begun.counts
      drains := begun.drains, poles := begun.poles
      shot := fun h => openContext_shotConsistent reacts (ready h)
      ahead := fun h => (Keeps.ofReacts reacts leaves.consistent).ahead (beginVisit_aheadDefined first entered (defined h))
      forgotten := fun _ idle => by
        have : (entering t i r cause deferred first).seq.phase = .idle := idle
        rewrite [running] at this
        cases this }
  · dsimp only
    refine .trans (.ite _ fun _ => .send _ _) (.ite _ fun _ => .setGuard _ _)

theorem readyToEnter_applyPoint {s : State} (h : ReadyToEnter s) : ReadyToEnter s.applyPoint := by
  constructor
  · simpa using h.active
  · simpa using h.ramp
  · simpa using h.closing
  · simpa using h.soft
  · simpa using h.unowned

theorem Answers.enter {s t : State} (i : Fin 32) (cause : EntryCause) (deferred first : Bool)
    (blocks : KeepsBlocks s t) (active : t.seq.phase ≠ .idle) (ready : s.ShotConsistent → ReadyToEnter t)
    (defined : s.AheadDefined → DefinedFrom t.store i) : Answers s (t.enter i cause deferred first) := by
  unfold State.enter
  dsimp only
  split
  next r entered =>
    exact .next (.enterState i r cause deferred first (blocks.trans (KeepsMost.applyPoint t).toKeepsBlocks)
      (by simpa using active) (fun h => readyToEnter_applyPoint (ready h)) entered fun h => (defined h).applyPoint)
  next none =>
    refine ⟨fun _ h => (nomatch h), fun h => ?_⟩
    have := (defined h).applyPoint i (.here i)
    rewrite [none] at this
    cases this

theorem startStep_armed {s : State} (h : s.startStep ≠ .nothing) :
    s.seq.phase = .armed := by
  unfold State.startStep at h
  split at h
  · assumption
  · exact absurd rfl h

theorem startStep_enter {s : State} {i : Fin 32} {deferred : Bool} (h : s.startStep = .enter i deferred) :
    s.seq.firstState = some i := by
  unfold State.startStep at h
  split at h
  next j _ first =>
    have same : i = j := by
      split at h
      · cases h
      split at h
      · split at h
        · cases h
          rfl
        · cases h
      split at h
      · dsimp only at h
        split at h
        · cases h
          rfl
        split at h
        · cases h
        · cases h
      · cases h
    rw [same, first]
  · cases h

theorem ready_of_armed {s : State} (armed : s.seq.phase = .armed) (h : s.ShotConsistent) : ReadyToEnter s := by
  have noVisit := h.noVisit (.inl armed)
  obtain ⟨-, -, ramp, closing, soft, owned⟩ := h
  refine ⟨by simp [armed], by simpa [armed] using ramp, by simpa [armed] using closing, fun k => soft (.inl k), ?_⟩
  intro a mem
  cases owner : a.owner with
  | none => rfl
  | some b =>
    obtain ⟨v, visit, -⟩ := owned a mem b owner
    rewrite [noVisit] at visit
    cases visit

theorem answers_firstEntry (s : State) : Answers s (execFirstEntry s) := by
  unfold execFirstEntry
  split
  · exact .next (.refl s)
  next c step =>
    have armed : s.seq.phase = .armed := startStep_armed (by rw [step]; nofun)
    exact .next (.defer s c fun running => absurd running (by simp [armed]))
  next i deferred step =>
    have armed : s.seq.phase = .armed := startStep_armed (by rw [step]; nofun)
    refine .enter i .start deferred true (.refl s) (by simp [armed]) (ready_of_armed armed) fun h j => h i j ?_
    unfold State.MayEnter
    rewrite [armed]
    exact startStep_enter step

theorem visit_of_running {s : State} (running : s.seq.phase = .running) (h : s.ShotConsistent) :
    ∃ v, s.seq.visit = some v :=
  Option.isSome_iff_exists.1 (h.1.1 running)

theorem ready_of_endVisit {s : State} (running : s.seq.phase = .running) (h : s.ShotConsistent) :
    ReadyToEnter (s.endVisit false) := by
  obtain ⟨v, visit⟩ := visit_of_running running h
  obtain ⟨seq, -, actions⟩ := endVisit_seq s false v visit
  obtain ⟨-, -, ramp, closing, -⟩ := h
  constructor
  · simp [seq, running]
  · simpa [seq, running] using ramp
  · simpa [seq, running] using closing
  · simp [seq]
  · rewrite [actions]
    exact keep_unowned _

theorem answers_stateEntry (s : State) : Answers s (execStateEntry s) := by
  unfold execStateEntry
  split
  · exact .next (.refl s)
  next c i choice =>
    obtain ⟨open_, transition, target⟩ := choiceOfState_some choice
    have running := running_of_choiceOpen open_
    split
    · obtain ⟨-, store, -, -, -, -, -, -, -, -, -, -, -, phase, -⟩ := endVisit_fields s false
      refine .enter i c.cause s.seq.deferring false (.ofWinds (Winds.endVisit s false) (endVisit_consistent false))
        (by rw [phase, running]; nofun)
        (ready_of_endVisit running) fun h j => ?_
      rewrite [store]
      exact h i j (mayEnter_of_transition running transition target)
    split
    · exact .next (.refl s)
    · exact .next (.deferChoice s c i choice)

/-! ### The end of a shot -/

theorem exitDue_running {s : State} (h : s.exitDue = true) : s.seq.phase = .running := by
  simp only [State.exitDue, Bool.and_eq_true] at h
  exact running_of_choiceOpen h.1

/-- The state in which the visit of an exit has ended and its cause is stored, before CLOSING. -/
def exiting (s : State) : State :=
  { s.endVisit false with seq := { (s.endVisit false).seq with endCause := some s.exitCause } }

theorem exitToEnd_eq (s : State) :
    s.exitToEnd = (let t := (exiting s).enterClosing.passBoundary
                   if t.seq.peerLinked then t.send (.finish s.exitCause) else t) := rfl

theorem winds_exiting (s : State) : s.Winds (exiting s) := by
  refine (Winds.endVisit s false).trans ?_
  exact State.Winds.of _ _ (by simp [exiting]) (by simp [exiting]) rfl rfl rfl rfl rfl Iff.rfl (fun _ => .inl rfl)
    (.refl _ _) (.inl rfl)

theorem exiting_consistent (s : State) (h : s.PolesConsistent) : (exiting s).PolesConsistent :=
  Leaves.consistent (s := s.endVisit false) (.same rfl rfl fun i => i) (endVisit_consistent false h)

theorem Keeps.exitToEnd (s : State) (running : s.seq.phase = .running) : Keeps s s.exitToEnd := by
  obtain ⟨-, -, -, -, -, -, -, -, -, -, -, -, noVisit, phase, -⟩ := endVisit_fields s false
  have active : (exiting s).seq.phase ≠ .idle := by
    show (s.endVisit false).seq.phase ≠ .idle
    rewrite [phase, running]
    nofun
  have closing : Keeps s (exiting s).enterClosing := .ofClosing (winds_exiting s) (exiting_consistent s) active fun h => by
    obtain ⟨v, visit⟩ := visit_of_running running h
    obtain ⟨-, context, actions⟩ := endVisit_seq s false v visit
    exact (Ends.enterClosing s (exiting s) (winds_exiting s) active noVisit (fun _ => context) rfl fun _ => by
      show ∀ x ∈ (s.endVisit false).actions.entries, x.owner = none
      rewrite [actions]
      exact keep_unowned _).shot h
  rewrite [exitToEnd_eq]
  exact (closing.trans (.passBoundary _)).trans (.ite _ fun _ => .send _ _)

theorem answers_exitToEnd (s : State) : Answers s (execExitToEnd s) :=
  .next (.ite _ fun due => .exitToEnd s (exitDue_running due))

theorem startRampDown_phase (s : State) : s.startRampDown.seq.phase = .rampingDown := by
  rewrite [startRampDown_eq]
  simp only [passBoundary_keeps]
  rewrite [reacts_phase (Reacts.refreshReceive _ _)]
  rfl

theorem Keeps.startRampDown (s : State) (running : s.seq.phase = .running)
    (ended : s.ShotConsistent → s.seq.endCause.isSome = true) : Keeps s s.startRampDown := by
  refine .ofWinds (Winds.startRampDown s (by simp [running])) startRampDown_consistent (fun h => ?_) fun i may => ?_
  · obtain ⟨v, visit⟩ := visit_of_running running h
    exact (Ends.startRampDown s v visit running (ended h)).shot h
  · exact absurd may (not_mayEnter (by simp [startRampDown_phase]) (by simp [startRampDown_phase]) i)

theorem answers_shotLimit (s : State) : Answers s (execShotLimit s) := by
  refine .next (.ite _ fun due => ?_)
  refine .trans (.ofEnds (Ends.takeRunningCause s .shotLimit) (Leaves.takeRunningCause s .shotLimit).consistent)
    (.startRampDown _ ?_ ?_)
  · simp only [State.shotLimitDue, Bool.and_eq_true, decide_eq_true_eq] at due
    rewrite [(takeRunningCause_keeps s .shotLimit).2.1]
    exact due.1.1
  · exact fun _ => takeRunningCause_isSome s .shotLimit

theorem answers_rampDownStart (s : State) : Answers s (execRampDownStart s) := by
  refine .next (.ite _ fun due => ?_)
  simp only [State.rampDownStartDue, State.softEndHere, Bool.and_eq_true, decide_eq_true_eq] at due
  obtain ⟨⟨running, -⟩, soft⟩ := due
  refine .startRampDown s running fun h => h.2.2.2.2.1 (.inl ?_)
  split at soft
  next e softEnd => simp [softEnd]
  · cases soft

set_option Elab.async false in
theorem answers_rampDownEnd (s : State) : Answers s (execRampDownEnd s) := by
  refine .next (.ite _ fun due => ?_)
  have ramping : s.seq.phase = .rampingDown := by
    unfold State.rampDownEndDue at due
    split at due
    · assumption
    · cases due
  refine Keeps.ofClosing (.refl s) id (by simp [ramping]) fun h => ?_
  have noVisit := h.noVisit (.inr ramping)
  have ready := h
  obtain ⟨-, context, -, -, cause, owned⟩ := ready
  refine (Ends.enterClosing s s (.refl s) (by simp [ramping]) noVisit (fun _ => ?_) (cause (.inr (.inl ramping)))
    fun _ a mem => ?_).shot h
  · simpa [noVisit] using context
  · cases owner : a.owner with
    | none => rfl
    | some b =>
      obtain ⟨v, visit, -⟩ := owned a mem b owner
      rewrite [noVisit] at visit
      cases visit

end Sys2Proof.Proofs.Invariants
end

section
/-! PROOF. The invariants of the blocks are kept by every step (O5 to O13): the return to IDLE, then every command
and event by its constructor, and the step. -/

namespace Sys2Proof.Proofs.Invariants

open Sys2Proof Sys2Proof.Machine Sys2Proof.Proofs.Poles

/-! ### The return to IDLE -/

/-- The sequencer, the synthesizer, the amplifiers and the peer link back in IDLE, before the cause is raised. -/
def idled (s : State) : State :=
  { s with
    seq := { s.seq with phase := .idle, closingAt := none }
    synth := { s.synth with ramp := .powerOn }
    amp := { s.amp with channels := s.amp.channels.mapWith fun _ c => AmpChannel.returnToIdle c }
    peer := { s.peer with agreement := .none } }

theorem returnToIdle_eq (s : State) : s.returnToIdle = ((idled s).raiseBoth .shotEnded).applyPoint := rfl

theorem lingerDue_closing {s : State} (h : s.lingerDue = true) : s.seq.phase = .closing := by
  unfold State.lingerDue at h
  split at h
  · assumption
  · cases h

theorem idled_shotConsistent {s : State} (closing : s.seq.phase = .closing) (h : s.ShotConsistent) :
    (idled s).ShotConsistent := by
  obtain ⟨running, context, ramp, -, cause, owned⟩ := h
  have noVisit : s.seq.visit = none := by simpa [closing] using running
  have ended := cause (.inr (.inr closing))
  refine ⟨?_, context, ?_, ?_, fun _ => ended, owned⟩
  · simp [idled, noVisit]
  · simpa [idled, closing] using ramp
  · simp [idled]

/-- SHOT_END takes the reserved slot, which a shot's log has (R114). -/
theorem shotEnd_reserved (s : State) (n : Nat) (b : RecordBody) (closing : s.seq.phase = .closing)
    (h : s.LogReserved) : (idled (s.writeShotEnd n b)).LogReserved := by
  obtain ⟨room, reserved⟩ := h
  have one : s.log.reservation = 1 := by simpa [State.shotActive, closing] using reserved
  refine ⟨?_, ?_⟩
  · simp only [idled, writeShotEnd_log, List.length_append, List.length_singleton]
    omega
  · simp [idled, State.shotActive]

theorem writeShotEnd_drains (s : State) (n : Nat) (b : RecordBody) (h : s.DrainsConsistent) :
    (s.writeShotEnd n b).DrainsConsistent :=
  DrainsHold.copyBoth (DrainsConsistent.holds s { s.log.write (s.makeRecord n b) with reservation := 0 } rfl
    (List.prefix_append _ _) h)

theorem KeepsMost.shotEnd (s : State) (n : Nat) (b : RecordBody) (closing : s.seq.phase = .closing) :
    KeepsMost s (idled (s.writeShotEnd n b)) where
  time := fun h => by simpa [idled] using h
  groups := fun h => by simpa [idled] using h
  order := fun h => by simpa [idled] using h
  owners := fun h => by simpa [idled] using h
  reserved := shotEnd_reserved s n b closing
  codes := fun h => by simpa [idled, State.CodesInRange] using h
  ranges := fun h => by simpa only [idled, writeShotEnd_keeps] using h
  counts := fun h => by simpa only [idled, writeShotEnd_keeps] using h
  drains := fun h => writeShotEnd_drains s n b h
  poles := Leaves.consistent (.same (by simp [idled]) (by simp [idled]) (by simp [State.injecting, closing]))
  shot := fun h => idled_shotConsistent (by simpa using closing)
    (by simpa [State.ShotConsistent] using h)
  ahead := fun _ => aheadDefined_of_idle rfl

theorem answers_closingLingerEnd (s : State) : Answers s (execClosingLingerEnd s) := by
  refine .next ?_
  split
  next due =>
    rewrite [returnToIdle_eq]
    exact ((KeepsMost.shotEnd s _ _ (lingerDue_closing due)).trans
      (Keeps.ofLogs (Logs.raiseBoth _ .shotEnded)).toKeepsMost).apply
  · exact .refl s

/-! ### Every command and event -/

theorem answers_exec (c : Instr) (s : State) : Answers s (exec c s) := by
  cases c with
  | powerOn level => exact answers_powerOn level s
  | badFrame p => exact answers_badFrame p s
  | unknown p => exact answers_unknown p s
  | getStatus p sect => exact answers_getStatus p sect s
  | configChannel p channel range trim link => exact answers_configChannel p channel range trim link s
  | configInput p input polarity debounce role => exact answers_configInput p input polarity debounce role s
  | configOutput p output role => exact answers_configOutput p output role s
  | configBreaker p setting tripTime closeTime => exact answers_configBreaker p setting tripTime closeTime s
  | configTeleprotection p source delay => exact answers_configTeleprotection p source delay s
  | writeState p index expected record => exact answers_writeState p index expected record s
  | writeBalanced p index expected group amplitude frequency angle order =>
    exact answers_writeBalanced p index expected group amplitude frequency angle order s
  | readState p index selector => exact answers_readState p index selector s
  | eraseState p index => exact answers_eraseState p index s
  | hold p => exact answers_hold p s
  | release p => exact answers_release p s
  | setAuthority p value => exact answers_setAuthority p value s
  | arm p first mode mask value startTime peer period initial =>
    exact answers_arm p first mode mask value startTime peer period initial s
  | start p => exact answers_start p s
  | abort p option => exact answers_abort p option s
  | adjust p target quantity mode value => exact answers_adjust p target quantity mode value s
  | setOutput p setMask clearMask => exact answers_setOutput p setMask clearMask s
  | setTime p seconds => exact answers_setTime p seconds s
  | drainEnable p selector => exact answers_drainEnable p selector s
  | readPage p page first => exact answers_readPage p page first s
  | releasePage p page => exact answers_releasePage p page s
  | notifyEnable p selector causes => exact answers_notifyEnable p selector causes s
  | notifyAck p causes => exact answers_notifyAck p causes s
  | softReset p => exact answers_softReset p s
  | eStopAsserted => exact answers_eStopAsserted s
  | eStopReleased => exact answers_eStopReleased s
  | acceptedChange input => exact answers_acceptedChange input s
  | sampleBoundary => exact answers_sampleBoundary s
  | amplifierReturn channel status => exact answers_amplifierReturn channel status s
  | rampStep => exact answers_rampStep s
  | firstEntry => exact answers_firstEntry s
  | stateEntry => exact answers_stateEntry s
  | stateTimeout => exact answers_stateTimeout s
  | exitToEnd => exact answers_exitToEnd s
  | shotLimit => exact answers_shotLimit s
  | rampDownStart => exact answers_rampDownStart s
  | rampDownEnd => exact answers_rampDownEnd s
  | closingLingerEnd => exact answers_closingLingerEnd s
  | openingActionDue pole => exact answers_openingActionDue pole s
  | closeActionDue pole => exact answers_closeActionDue pole s
  | forcedLimit pole => exact answers_forcedLimit pole s
  | conditionActionDue index => exact answers_conditionActionDue index s
  | stateOutputDue => exact answers_stateOutputDue s
  | tpEdgeDue => exact answers_tpEdgeDue s
  | keepaliveExpiry => exact answers_keepaliveExpiry s
  | flushTimerExpiry p => exact answers_flushTimerExpiry p s
  | ppsEdge => exact answers_ppsEdge s
  | slewPoint => exact answers_slewPoint s
  | ppsTimeout => exact answers_ppsTimeout s
  | holdoverTimeout => exact answers_holdoverTimeout s
  | sendTimerExpiry => exact answers_sendTimerExpiry s
  | lossTimerExpiry => exact answers_lossTimerExpiry s
  | invalidPeerFrame => exact answers_invalidPeerFrame s
  | hello version tag heard => exact answers_hello version tag heard s
  | keepalive => exact answers_keepalive s
  | startPropose startTime => exact answers_startPropose startTime s
  | startAccept startTime => exact answers_startAccept startTime s
  | startReject startTime reason => exact answers_startReject startTime reason s
  | acceptDeadline => exact answers_acceptDeadline s
  | eventFrame input role level eventTime shot carrier =>
    exact answers_eventFrame input role level eventTime shot carrier s
  | stateFrame state cause entryTime => exact answers_stateFrame state cause entryTime s
  | abortFrame cause => exact answers_abortFrame cause s
  | endFrame cause => exact answers_endFrame cause s
  | inputSample pins => exact answers_inputSample pins s

/-! ### The step -/

theorem Answers.from {s t : State} {r : Result} (h : Keeps s t) (k : Answers t r) : Answers s r where
  keeps := fun u e => h.trans (k.keeps u e)
  goes := fun ahead => k.goes (h.ahead ahead)

theorem answers_idleStep (s : State) : Answers s s.idleStep := by
  rcases idleStep_cases s with ⟨p, -, -, run⟩ | ⟨e, -, run⟩ | ⟨-, -, run⟩
  · rewrite [run]
    exact answers_exec (.flushTimerExpiry p) s
  · rewrite [run]
    exact .from (t := s.useFree) (.same rfl) (answers_exec e s.useFree)
  · rewrite [run]
    exact .next (.advanceClock s)

theorem answers_step (s : State) : Answers s (step s) := by
  unfold step
  split
  next c rest _ => exact .from (t := { s with pending := rest }) (.same rfl) (answers_exec c _)
  · exact answers_idleStep s

theorem keeps_of_step {s t : State} (h : step s = .next t) : Keeps s t := (answers_step s).keeps t h

/-- Settles O5. -/
theorem stepKeepsTimeInRange : Obligations.StepKeepsTimeInRange := fun _ _ h run => (keeps_of_step run).time h

theorem WithinGroups.length_le {l : TimedList} (h : l.WithinGroups) : l.entries.length ≤ 24 := by
  have parts : l.entries.length = l.held .pole + l.held .condition + l.held .stateOutput + l.held .tpEdge := by
    obtain ⟨entries, next⟩ := l
    simp only [TimedList.held]
    clear h
    induction entries with
    | nil => rfl
    | cons a rest ih =>
      rewrite [List.length_cons, ih]
      cases group : a.work.group <;> simp [group] <;> omega
  have pole := h .pole
  have condition := h .condition
  have output := h .stateOutput
  have edge := h .tpEdge
  simp only [Group.capacity] at pole condition output edge
  omega

/-- Settles O6. -/
theorem stepKeepsTheTimedActionList : Obligations.StepKeepsTheTimedActionList := by
  refine ⟨fun s t h run => ?_, fun s t h run => (keeps_of_step run).order h,
    fun s t h run => (keeps_of_step run).owners h, fun s t h run => (keeps_of_step run).poles h⟩
  have within := (keeps_of_step run).groups h
  exact ⟨within, WithinGroups.length_le within⟩

/-- Settles O7. -/
theorem stepKeepsTheReservedSlot : Obligations.StepKeepsTheReservedSlot := fun _ _ h run =>
  (keeps_of_step run).reserved h

/-- Settles O8. -/
theorem stepKeepsNothingForgotten : Obligations.StepKeepsNothingForgotten := fun _ _ h run =>
  (keeps_of_step run).forgotten h

/-- Settles O9. -/
theorem stepKeepsCodesInRange : Obligations.StepKeepsCodesInRange := fun _ _ h run => (keeps_of_step run).codes h

/-- Settles O10. -/
theorem stepKeepsRecordsWithinRanges : Obligations.StepKeepsRecordsWithinRanges := fun _ _ run =>
  ⟨(keeps_of_step run).ranges, (keeps_of_step run).counts⟩

/-- Settles O11. -/
theorem stepKeepsDrainsConsistent : Obligations.StepKeepsDrainsConsistent := fun _ _ h run =>
  (keeps_of_step run).drains h

/-- Settles O12. -/
theorem stepKeepsTheShotConsistent : Obligations.StepKeepsTheShotConsistent := fun _ _ h run =>
  (keeps_of_step run).shot h

theorem aheadDefined_of_runs {s t : State} (run : Runs s t) (h : s.AheadDefined) : t.AheadDefined := by
  induction run with
  | stop s => exact h
  | more s t u one _ ih => exact ih ((keeps_of_step one).ahead h)

set_option Elab.async false in
/-- Settles O13: the states ahead stay defined through every step, and an entry to a defined state does not fault. -/
theorem stepNeverFaults : Obligations.StepNeverFaults := by
  refine ⟨fun s ahead => ?_, fun s idle => ⟨aheadDefined_of_idle idle, fun t run => ?_⟩⟩
  · obtain ⟨t, run⟩ := (answers_step s).goes ahead
    exact ⟨t, run, (keeps_of_step run).ahead ahead⟩
  · exact (answers_step t).goes (aheadDefined_of_runs run (aheadDefined_of_idle idle))

end Sys2Proof.Proofs.Invariants
end

section
/-! PROOF. The step, power-on and the reset state (O1 to O4). -/

namespace Sys2Proof.Proofs.Stepping

open Sys2Proof Sys2Proof.Machine

/-! ### The step -/

theorem step_of_pending {c : Instr} {rest : List Instr} {s : State} (h : s.pending = c :: rest) :
    step s = exec c { s with pending := rest } := by
  unfold step
  rw [h]

theorem step_of_empty {s : State} (h : s.pending = []) : step s = s.idleStep := by
  unfold step
  rw [h]

/-- Settles O1. -/
theorem stepRunsTheFrontCommand : Obligations.StepRunsTheFrontCommand := fun _ _ _ h => step_of_pending h

theorem idleStep_of_flush {s : State} {p : Port} (h : s.flushPort = some p) :
    s.idleStep = exec (.flushTimerExpiry p) s := by
  unfold State.idleStep
  rw [h]

theorem idleStep_of_event {s : State} {e : Instr} (noFlush : s.flushPort = none) (h : s.nextEvent = some e) :
    s.idleStep = exec e s.useFree := by
  unfold State.idleStep
  rw [noFlush, h]

theorem idleStep_of_nothing {s : State} (noFlush : s.flushPort = none) (h : s.nextEvent = none) :
    s.idleStep = .next s.advanceClock := by
  unfold State.idleStep
  rw [noFlush, h]

/-- An event is taken from those due while there is one. -/
theorem nextEvent_of_due {s : State} (h : s.otherEvents ≠ []) : ∃ e ∈ s.otherEvents, s.nextEvent = some e := by
  obtain ⟨e, next⟩ := Option.isSome_iff_exists.1 (nextEvent_isSome h)
  rcases nextEvent_eq_some next with mem | ⟨none, -, -⟩
  · exact ⟨e, mem, next⟩
  · exact absurd none h

theorem idleStepRunsADueEvent : IdleStepRunsADueEvent := by
  intro s empty due
  rewrite [step_of_empty empty]
  cases flush : s.flushPort with
  | some p => exact .inl ⟨p, (flushPort_eq_some flush).1, idleStep_of_flush flush⟩
  | none =>
    have others : s.otherEvents ≠ [] := fun nil =>
      due (dueEvents_eq_nil.2 ⟨nil, (flushPort_of_nil nil).1 flush⟩)
    obtain ⟨e, mem, next⟩ := nextEvent_of_due others
    exact .inr ⟨e, mem, idleStep_of_event flush next⟩

theorem idleStepMakesTheSlew : IdleStepMakesTheSlew := by
  intro s empty quiet slew
  obtain ⟨nil, noFlush⟩ := dueEvents_eq_nil.1 quiet
  rewrite [step_of_empty empty]
  refine idleStep_of_event ((flushPort_of_nil nil).2 noFlush) ?_
  unfold State.nextEvent
  rewrite [nil]
  simp [slew]

/-- A tick of the clock, with a counter in range (R129, R130). -/
theorem advance_eq {t : TimeBase} (h : t.counter < 1000000) :
    t.advance = { t with
      counter := (t.counter + 1) % 1000000
      seconds := if t.counter = 999999 then t.nextSecond.getD ((t.seconds + 1) % 4294967296) else t.seconds
      nextSecond := if t.counter = 999999 then none else t.nextSecond
      localTime := (t.localTime + 1) % 18446744073709551616
      boundaryPassed := false, sampleDone := false, inputsDone := false, endFixed := false } := by
  unfold TimeBase.advance
  by_cases wraps : t.counter = 999999
  · simp [TimeBase.fresh, wraps, advanceLocal, nextSecondOf]
  · have below : (t.counter + 1) % 1000000 = t.counter + 1 := Nat.mod_eq_of_lt (by omega)
    simp [TimeBase.fresh, wraps, advanceLocal, below]

/-- The end of the visit is read of nothing that its own mark holds. -/
theorem visitEndsHere_markEnd (s : State) : s.markEnd.visitEndsHere = s.visitEndsHere := rfl

theorem idleStepIsAMicrosecond : IdleStepIsAMicrosecond := by
  intro s empty quiet noSlew inRange
  obtain ⟨nil, noFlush⟩ := dueEvents_eq_nil.1 quiet
  refine ⟨s.advanceClock, ?_, rfl, ?_⟩
  · rewrite [step_of_empty empty]
    exact idleStep_of_nothing ((flushPort_of_nil nil).2 noFlush) (nextEvent_eq_none.2 ⟨nil, noSlew⟩)
  · have ends : s.advanceClock.visitEndsHere = State.visitEndsHere { s with time := s.time.advance } :=
      visitEndsHere_markEnd _
    rw [ends, advanceClock_time, advance_eq inRange.1]

/-- Events taken at an instant come to one whose rest hands over a page: so does the rest before them. -/
theorem restHandsOver_of_events {p : Port} {s : State} {k n : Nat} {m : State} (h : EventsOfTheInstant s k m)
    (hands : State.restHandsOver p n m = true) : State.restHandsOver p (n + k) s = true := by
  induction k generalizing n m with
  | zero =>
    rewrite [h] at hands
    exact hands
  | succ k ih =>
    obtain ⟨l, e, before, due, next, run⟩ := h
    have earlier := ih before (restHandsOver_later due next run hands)
    rwa [Nat.add_right_comm] at earlier

theorem restHandsOver_le {p : Port} {s : State} {n m : Nat} (le : n ≤ m) (h : State.restHandsOver p n s = true) :
    State.restHandsOver p m s = true := by
  induction le with
  | refl => exact h
  | step _ ih => exact restHandsOver_mono ih

theorem flushYieldsToAHandover : FlushYieldsToAHandover := by
  rintro p k s m u empty few before ⟨m', e, same, due, next, run⟩ handed
  obtain rfl : m' = m := same
  have now : State.restHandsOver p 1 m' = true := restHandsOver_now due next run handed
  have hands : State.restHandsOver p eventsOfAnInstant s = true :=
    restHandsOver_le (by simp only [eventsOfAnInstant]; omega) (restHandsOver_of_events before now)
  rewrite [step_of_empty empty]
  cases flush : s.flushPort with
  | some q =>
    obtain ⟨expired, waits⟩ := flushPort_eq_some flush
    refine .inl ⟨q, ?_, expired, idleStep_of_flush flush⟩
    rintro rfl
    rewrite [waits] at hands
    cases hands
  | none =>
    have others : s.otherEvents ≠ [] := fun nil => by
      rewrite [restHandsOver_of_nil nil] at hands
      cases hands
    obtain ⟨e', mem, next'⟩ := nextEvent_of_due others
    exact .inr ⟨e', mem, idleStep_of_event flush next'⟩

/-- Settles O2. -/
theorem idleStepRunsAnEventOrTicks : Obligations.IdleStepRunsAnEventOrTicks :=
  ⟨idleStepRunsADueEvent, idleStepMakesTheSlew, idleStepIsAMicrosecond, flushYieldsToAHandover⟩

/-! ### Power-on -/

theorem resetValues_reset : ResetValues State.reset := by
  refine ⟨fun i => ?_, fun c => ?_, rfl, rfl, rfl, rfl, rfl, fun i => ?_, fun c => ?_, rfl, fun c => ?_, fun n => ?_,
    fun n => ?_, rfl, rfl, rfl, fun p => ?_, rfl, rfl, rfl, rfl, rfl, fun p => ?_, rfl, rfl, rfl, rfl, rfl, rfl, rfl,
    rfl, rfl, rfl, rfl, fun p => ?_⟩
  · simp [State.reset, Slot.empty]
  · cases c <;> exact ⟨rfl, rfl⟩
  · simp [State.reset, Sequencer.powerOn]
  · cases c <;> decide
  · cases c <;> exact ⟨rfl, rfl, rfl, rfl⟩
  · simp [State.reset, Input.powerOn]
  · simp [State.reset]
  · cases p <;> rfl
  · cases p <;> exact ⟨rfl, rfl, rfl, rfl, rfl, rfl⟩
  · cases p <;> rfl

/-- What POWER_ON leaves. -/
def poweredOn (l : EStopLevel) (s : State) : State :=
  { State.reset with
    pending := s.pending
    inputs := { State.reset.inputs with pins := s.inputs.pins }
    guard := { State.reset.guard with eStop := l }
    freeUsed := s.freeUsed }

/-- The values at power-on are read of neither the pins, the E-STOP level, the queue nor the count of free values. -/
theorem resetValues_poweredOn (l : EStopLevel) (s : State) : ResetValues (poweredOn l s) := resetValues_reset

/-- Settles O3. -/
theorem powerOnGivesTheResetState : Obligations.PowerOnGivesTheResetState := fun l s =>
  ⟨poweredOn l s, rfl, resetValues_poweredOn l s, rfl, rfl⟩

set_option Elab.async false in
/-- Settles O4. -/
theorem resetHasItsValuesAndInvariants : Obligations.ResetHasItsValuesAndInvariants := by
  obtain ⟨time, groups, order, owners, reserved, forgotten, codes, ranges, counts, drains, shot, ahead, poles⟩ :=
    Invariants.holds_at_reset State.reset rfl
  exact ⟨resetValues_reset, time, groups, order, reserved, forgotten, codes, ranges, drains, shot, ahead, poles, owners,
    counts⟩

end Sys2Proof.Proofs.Stepping
end

section
/-! PROOF. Frames, answers and refusals (O14, O15), GET_STATUS (O16) and READ_STATE (O19). -/

namespace Sys2Proof.Proofs.Answering

open Sys2Proof Sys2Proof.Machine

/-! ### Commands and their frames -/

theorem open_eq (s : State) (p : Port) (f : State → State) : s.open_ p f = .next (f (s.takeFrame p)) := rfl

theorem excluded_takeFrame (s : State) (p q : Port) : (s.takeFrame p).excluded q = s.excluded q := rfl

theorem gated_excluded {s : State} {p : Port} (f : State → State) (h : s.excluded p = true) :
    s.gated p f = .next (s.answered p .authority (.authority s.edit.authority)) := by
  simp only [State.gated, excluded_takeFrame, h, ↓reduceIte]
  rfl

theorem gated_allowed {s : State} {p : Port} (f : State → State) (h : s.excluded p = false) :
    s.gated p f = .next (f (s.takeFrame p)) := by
  simp [State.gated, excluded_takeFrame, h]

theorem shotActive_iff (s : State) : s.shotActive = true ↔ s.seq.phase ≠ .idle := by simp [State.shotActive]

theorem shotActive_takeFrame (s : State) (p : Port) : (s.takeFrame p).shotActive = s.shotActive := rfl

/-- A frame of a known code whose length is not its own is answered BAD_FRAME. -/
theorem wrongLengthRefused {code : Byte} {n : Nat} (p : Port) (h : parameterBytes code.toNat = some n) :
    WrongLengthRefused p code n := by
  intro len rest wrong
  unfold commandOfFrame
  dsimp only
  split
  · rfl
  · rewrite [h]
    exact if_neg (Ne.symm wrong)

/-! ### Taking a frame, and answering it (O14) -/

theorem takeFrame_stopped {s : State} (p : Port) (h : s.guard.expiry = none) : s.takeFrame p = s :=
  calc s.takeFrame p = { s with guard := { s.guard with expiry := s.guard.expiry } } := by
        simp only [State.takeFrame, h]
    _ = s := rfl

theorem takeFrame_other {s : State} {p : Port} (h : s.seq.armingPort ≠ some p) : s.takeFrame p = s := by
  cases running : s.guard.expiry with
  | none => exact takeFrame_stopped p running
  | some e =>
    calc s.takeFrame p = { s with guard := { s.guard with expiry := s.guard.expiry } } := by
          simp only [State.takeFrame, running, h, ↓reduceIte]
      _ = s := rfl

theorem takeFrame_restarts {s : State} {p : Port} {e : Nat} (running : s.guard.expiry = some e)
    (h : s.seq.armingPort = some p) :
    s.takeFrame p = { s with guard := { s.guard with expiry := some (s.now + s.guard.period * 1000) } } := by
  unfold State.takeFrame
  rewrite [running]
  simp only [h, ↓reduceIte]

/-- Settles O14. -/
theorem framesAreTakenAndAnswered : Obligations.FramesAreTakenAndAnswered :=
  ⟨fun _ _ => ⟨rfl, rfl⟩,
    fun p _ => ⟨takeFrame_stopped p, takeFrame_other, fun _ running arming => takeFrame_restarts running arming⟩,
    fun p st d s => ⟨by simp, by simp, rfl⟩⟩

/-! ### Refusals (O15) -/

/-- A gated command is refused to the excluded port, whatever it asks for (Table 10-1). -/
theorem exec_gated {c : Instr} {p : Port} (s : State) (h : c.gatedSender = some p) :
    ∃ f, exec c s = s.gated p f := by
  cases c with
  | configChannel _ _ _ _ _ => obtain rfl := Option.some.inj h; exact ⟨_, execConfigChannel.eq_def ..⟩
  | configInput _ _ _ _ _ => obtain rfl := Option.some.inj h; exact ⟨_, execConfigInput.eq_def ..⟩
  | configOutput _ _ _ => obtain rfl := Option.some.inj h; exact ⟨_, execConfigOutput.eq_def ..⟩
  | configBreaker _ _ _ _ => obtain rfl := Option.some.inj h; exact ⟨_, execConfigBreaker.eq_def ..⟩
  | configTeleprotection _ _ _ => obtain rfl := Option.some.inj h; exact ⟨_, execConfigTeleprotection.eq_def ..⟩
  | writeState _ _ _ _ => obtain rfl := Option.some.inj h; exact ⟨_, execWriteState.eq_def ..⟩
  | writeBalanced _ _ _ _ _ _ _ _ => obtain rfl := Option.some.inj h; exact ⟨_, execWriteBalanced.eq_def ..⟩
  | eraseState _ _ => obtain rfl := Option.some.inj h; exact ⟨_, execEraseState.eq_def ..⟩
  | hold _ => obtain rfl := Option.some.inj h; exact ⟨_, execHold.eq_def ..⟩
  | release _ => obtain rfl := Option.some.inj h; exact ⟨_, execRelease.eq_def ..⟩
  | arm _ _ _ _ _ _ _ _ _ => obtain rfl := Option.some.inj h; exact ⟨_, execArm.eq_def ..⟩
  | start _ => obtain rfl := Option.some.inj h; exact ⟨_, execStart.eq_def ..⟩
  | adjust _ _ _ _ _ => obtain rfl := Option.some.inj h; exact ⟨_, execAdjust.eq_def ..⟩
  | setOutput _ _ _ => obtain rfl := Option.some.inj h; exact ⟨_, execSetOutput.eq_def ..⟩
  | setTime _ _ => obtain rfl := Option.some.inj h; exact ⟨_, execSetTime.eq_def ..⟩
  | softReset _ => obtain rfl := Option.some.inj h; exact ⟨_, execSoftReset.eq_def ..⟩
  | _ => exact absurd h (Option.some_ne_none _).symm

/-- Within a shot a command of IDLE is answered BUSY, whatever it asks for (Table 2-1). -/
theorem exec_busy {c : Instr} {p : Port} {s : State} (h : c.idleSender = some p) (allowed : s.excluded p = false)
    (active : s.seq.phase ≠ .idle) : exec c s = .next (s.answered p .busy .none) := by
  have busy : ∀ f : State → State,
      s.gated p (fun s => if s.shotActive then s.respond p .busy .none else f s) = .next (s.answered p .busy .none) :=
    fun f => by
      rewrite [gated_allowed _ allowed, shotActive_takeFrame, if_pos ((shotActive_iff s).2 active)]
      rfl
  cases c with
  | configChannel _ _ _ _ _ => obtain rfl := Option.some.inj h; exact (execConfigChannel.eq_def ..).trans (busy _)
  | configInput _ _ _ _ _ => obtain rfl := Option.some.inj h; exact (execConfigInput.eq_def ..).trans (busy _)
  | configOutput _ _ _ => obtain rfl := Option.some.inj h; exact (execConfigOutput.eq_def ..).trans (busy _)
  | configBreaker _ _ _ _ => obtain rfl := Option.some.inj h; exact (execConfigBreaker.eq_def ..).trans (busy _)
  | configTeleprotection _ _ _ => obtain rfl := Option.some.inj h; exact (execConfigTeleprotection.eq_def ..).trans (busy _)
  | eraseState _ _ => obtain rfl := Option.some.inj h; exact (execEraseState.eq_def ..).trans (busy _)
  | arm _ _ _ _ _ _ _ _ _ => obtain rfl := Option.some.inj h; exact (execArm.eq_def ..).trans (busy _)
  | _ => exact absurd h (Option.some_ne_none _).symm

/-- Settles O15. -/
theorem commandsRefusedByAuthorityAndPhase : Obligations.CommandsRefusedByAuthorityAndPhase := by
  refine ⟨fun c p s gated excluded => ?_, fun c p s idle allowed active => exec_busy idle allowed active,
    fun p m s sel unknown => ?_⟩
  · obtain ⟨f, run⟩ := exec_gated s gated
    rw [run, gated_excluded f excluded]
  · show execNotifyEnable p sel m s = _
    rewrite [execNotifyEnable, open_eq, Notify.boolOfCode_unknown sel unknown]
    rfl

/-! ### The signal vector (R74) -/

theorem getLsbD_bit {n i : Nat} (h : i < 16) : (1#16 <<< n).getLsbD i = decide (i = n) := by
  rewrite [BitVec.getLsbD_shiftLeft, BitVec.getLsbD_one, Bool.eq_iff_iff]
  simp only [Bool.and_eq_true, Bool.not_eq_true', decide_eq_true_eq, decide_eq_false_iff_not]
  omega

theorem getLsbD_collect (f : Nat → Bool) (k : Nat) {i : Nat} (h : i < 16) :
    ((List.range k).foldl (fun v n => if f n then v ||| (1#16 <<< n) else v) 0).getLsbD i = (decide (i < k) && f i) := by
  induction k with
  | zero => simp
  | succ k ih =>
    rewrite [List.range_succ, List.foldl_append, List.foldl_cons, List.foldl_nil]
    have split : decide (i < k + 1) = (decide (i < k) || decide (i = k)) := by
      rewrite [← Bool.decide_or, decide_eq_decide]
      omega
    by_cases set : f k = true
    · rewrite [if_pos set, BitVec.getLsbD_or, ih, getLsbD_bit h, split]
      by_cases same : i = k
      · subst same
        simp [set]
      · simp [same]
    · rewrite [if_neg set, ih, split]
      by_cases same : i = k
      · subst same
        simp [set]
      · simp [same]

theorem signals_getLsbD (s : State) {n : Nat} (h : n < 16) : s.signals.getLsbD n = s.signal n := by
  rewrite [State.signals, getLsbD_collect s.signal 16 h]
  simp [h]

theorem signal_input (s : State) (n : Fin 12) : s.signal n = (s.inputs.inputs[n]'n.isLt).active := by
  simp [State.signal]

theorem signal_pole (s : State) (q : Pole) : s.signal (Pole.signal q) = (s.breaker.poles.get q).openSignal := by
  cases q <;> rfl

theorem signal_receive (s : State) : s.signal 15 = s.tp.receive := rfl

/-! ### GET_STATUS (O16) -/

theorem exec_getStatus (p : Port) (sect : Nat) (s : State) :
    exec (.getStatus p sect) s = .next (match (s.takeFrame p).section_ p sect with
      | some d => s.answered p .ok (.status d)
      | none => s.answered p .range (.param .sect)) := by
  show execGetStatus p sect s = _
  rewrite [execGetStatus, open_eq]
  cases (s.takeFrame p).section_ p sect <;> rfl

theorem section_unknown (s : State) (p : Port) {n : Nat} (h : 7 < n) : s.section_ p n = none := by
  match n, h with
  | n + 8, _ => rfl

theorem inputActive_eq (i : Input) : InputActive i = i.active := rfl

theorem ioSection (p : Port) (s : State) : IoSection p s := by
  refine ⟨_, _, _, exec_getStatus p 2 s, by simp, by simp, fun n => ⟨?_, ?_⟩, fun q => ?_, ?_, fun n => ?_⟩
  · simp [Input.status, inputActive_eq]
  · have lt : n.val < 16 := by omega
    rewrite [signals_getLsbD _ lt, signal_input]
    rfl
  · have lt : Pole.signal q < 16 := by cases q <;> decide
    rewrite [signals_getLsbD _ lt, signal_pole]
    rfl
  · rewrite [signals_getLsbD _ (by decide), signal_receive]
    rfl
  · simp

theorem pendingOf_eq (s : State) (q : Port) : PendingOf s q = s.store.stagedBy q := by
  unfold PendingOf ProgramStore.stagedBy
  congr 2
  funext sl
  cases sl.staged <;> simp

theorem awaiting_length (l : ReportLog) (d : Drain) :
    (l.awaiting d).length = (match d.copyPos with
      | some copy => l.records.length - (copy - l.freed)
      | none => 0) := by
  unfold ReportLog.awaiting
  cases d.copyPos <;> simp

/-- Settles O16. -/
theorem statusReportsTheState : Obligations.StatusReportsTheState := by
  intro p s
  refine ⟨fun sect unknown => ?_, exec_getStatus p 0 s, ⟨_, exec_getStatus p 1 s, fun c => ?_⟩, ioSection p s,
    ⟨_, exec_getStatus p 3 s, rfl, rfl, rfl, fun q => ?_⟩, ⟨_, exec_getStatus p 4 s, ?_⟩, exec_getStatus p 5 s,
    exec_getStatus p 6 s, ?_⟩
  · rw [exec_getStatus, section_unknown _ _ unknown]
  · cases c <;> rfl
  · cases q <;> rfl
  · refine ⟨rfl, rfl, rfl, rfl, rfl, rfl, fun q => ?_⟩
    show (s.drains.map fun d => d.status s.log).get q = _
    simp only [PerPort.get_map, Drain.status, DrainStatus.mk.injEq, true_and]
    exact awaiting_length _ _
  · rewrite [ControlSection, pendingOf_eq, pendingOf_eq]
    exact exec_getStatus p 7 s

/-! ### READ_STATE (O19) -/

theorem stateOfCode_known (i : Fin 32) : stateOfCode i = some i := by
  exact dif_pos i.isLt

theorem stateOfCode_unknown {n : Nat} (h : 32 ≤ n) : stateOfCode n = none := dif_neg (by omega)

set_option Elab.async false in
/-- Settles O19. -/
theorem readStateReturnsTheCopy : Obligations.ReadStateReturnsTheCopy := by
  intro p s
  refine ⟨wrongLengthRefused p rfl, fun index sel unknown => ?_, fun i sel unknown => ?_, fun i => ⟨?_, ?_⟩⟩
  · rewrite [exec, execReadState, open_eq, stateOfCode_unknown unknown]
    rfl
  · rewrite [exec, execReadState, open_eq, stateOfCode_known, Notify.boolOfCode_unknown sel unknown]
    rfl
  · rewrite [exec, execReadState, open_eq, stateOfCode_known]
    rfl
  · rewrite [exec, execReadState, open_eq, stateOfCode_known]
    rfl

end Sys2Proof.Proofs.Answering
end

section
/-! PROOF. The end of a write, and ERASE_STATE (O20; parts of O21 and O22). -/

namespace Sys2Proof.Proofs.Writing

open Sys2Proof Sys2Proof.Machine Sys2Proof.Proofs.Answering

/-! ### The end of a write (Table 1-3) -/

section FinishWrite

variable {s : State} {p : Port} {i : Fin 32} {expected : Nat} {r : StateRecord}

theorem finishWrite_stale (h : expected ≠ (s.store.slots[i]'i.isLt).revision) :
    s.finishWrite p i expected r = s.respond p .stale .none := by
  unfold State.finishWrite
  dsimp only
  rw [if_pos h]

theorem finishWrite_other (h : expected = (s.store.slots[i]'i.isLt).revision) (other : (s.store.slots[i]'i.isLt).otherStaged p = true) :
    s.finishWrite p i expected r = s.respond p .pendingOther .none := by
  unfold State.finishWrite
  dsimp only
  rw [if_neg (not_not_intro h), if_pos other]

theorem finishWrite_undefined {d : RespData} (h : expected = (s.store.slots[i]'i.isLt).revision)
    (other : (s.store.slots[i]'i.isLt).otherStaged p = false) (active : s.shotActive = true)
    (walk : s.stagedWalk p i r = some d) : s.finishWrite p i expected r = s.respond p .undefinedTarget d := by
  have stages : s.stages p i = true := by simp [State.stages, active]
  unfold State.finishWrite
  dsimp only
  rw [if_neg (not_not_intro h), if_neg (Bool.eq_false_iff.1 other), if_pos stages, if_pos active, walk]

theorem finishWrite_staged (h : expected = (s.store.slots[i]'i.isLt).revision) (other : (s.store.slots[i]'i.isLt).otherStaged p = false)
    (stages : s.stages p i = true) (walk : s.shotActive = true → s.stagedWalk p i r = none) :
    s.finishWrite p i expected r
      = (s.setSlot i { s.store.slots[i]'i.isLt with staged := some (p, r) }).respond p .ok
          (.written (s.store.slots[i]'i.isLt).revision .staged) := by
  have none : (if s.shotActive then s.stagedWalk p i r else none) = none := by
    split
    next active => exact walk active
    · rfl
  unfold State.finishWrite
  dsimp only
  rw [if_neg (not_not_intro h), if_neg (Bool.eq_false_iff.1 other), if_pos stages, none]

theorem finishWrite_applied (h : expected = (s.store.slots[i]'i.isLt).revision) (other : (s.store.slots[i]'i.isLt).otherStaged p = false)
    (stages : s.stages p i = false) :
    s.finishWrite p i expected r
      = (s.setSlot i ((s.store.slots[i]'i.isLt).applyRecord r)).respond p .ok
          (.written ((s.store.slots[i]'i.isLt).applyRecord r).revision .applied) := by
  unfold State.finishWrite
  dsimp only
  rw [if_neg (not_not_intro h), if_neg (Bool.eq_false_iff.1 other), if_neg (Bool.eq_false_iff.1 stages)]

end FinishWrite

theorem stages_takeFrame (s : State) (p q : Port) (i : Fin 32) : (s.takeFrame p).stages q i = s.stages q i := rfl

theorem stagedWalk_takeFrame (s : State) (p q : Port) (i : Fin 32) (r : StateRecord) :
    (s.takeFrame p).stagedWalk q i r = s.stagedWalk q i r := rfl

theorem answered_setSlot (s : State) (i : Fin 32) (sl : Slot) (p : Port) (st : Status) (d : RespData) :
    (s.setSlot i sl).answered p st d = ((s.takeFrame p).setSlot i sl).respond p st d := rfl

theorem stages_of_active {s : State} (p : Port) (i : Fin 32) (h : s.seq.phase ≠ .idle) : s.stages p i = true := by
  simp [State.stages, (shotActive_iff s).2 h]

theorem shotActive_of_idle {s : State} (h : s.seq.phase = .idle) : s.shotActive = false := by simp [State.shotActive, h]

section Writes

variable {s : State} {p : Port} {i : Fin 32} {expected : Nat} {r : StateRecord} {c : Instr}
  (run : exec c s = .next ((s.takeFrame p).finishWrite p i expected r))
include run

/-- A command that comes to the end of a write is refused as the end of a write is. -/
theorem writeRefused : WriteRefused p i expected r s c := by
  refine ⟨fun stale => ?_, fun same other => ?_, fun d same other active walk => ?_⟩
  · rewrite [run, finishWrite_stale (s := s.takeFrame p) stale]
    rfl
  · rewrite [run, finishWrite_other (s := s.takeFrame p) same other]
    rfl
  · rewrite [run, finishWrite_undefined (s := s.takeFrame p) same other ((shotActive_iff s).2 active) (stagedWalk_takeFrame s p p i r ▸ walk)]
    rfl

/-- It takes effect as the end of a write does. -/
theorem writeTakesEffect (same : expected = (s.store.slots[i]'i.isLt).revision) : WriteTakesEffect p i r s c := by
  refine ⟨fun idle free unstaged => ?_, fun idle other holds => ?_, fun active other walk => ?_⟩
  · have stages : (s.takeFrame p).stages p i = false := by
      rewrite [stages_takeFrame, State.stages, shotActive_of_idle idle, free, Slot.ownStaged, unstaged]
      rfl
    have applied : (s.store.slots[i]'i.isLt).applyRecord r
        = { active := some r, staged := none, revision := ((s.store.slots[i]'i.isLt).revision + 1) % 65536 } := by
      rw [Slot.applyRecord, unstaged]
    rewrite [run, finishWrite_applied (s := s.takeFrame p) same (by simp only [Slot.otherStaged, takeFrame_keeps, unstaged]) stages, answered_setSlot]
    simp only [takeFrame_keeps, applied]
  · have stages : (s.takeFrame p).stages p i = true := by
      rewrite [stages_takeFrame, State.stages, Bool.or_eq_true, Bool.or_eq_true]
      rcases holds with hold | staged
      · exact .inl (.inr hold)
      · refine .inr ?_
        unfold Slot.otherStaged at other
        unfold Slot.ownStaged
        cases copy : (s.store.slots[i]'i.isLt).staged with
        | none => exact absurd copy staged
        | some x =>
          obtain ⟨q, r'⟩ := x
          rewrite [copy] at other
          obtain rfl : q = p := by simpa using other
          simp
    have idle' : (s.takeFrame p).shotActive = true → (s.takeFrame p).stagedWalk p i r = none := fun active => by
      rewrite [shotActive_takeFrame, shotActive_of_idle idle] at active
      cases active
    rewrite [run, finishWrite_staged (s := s.takeFrame p) same other stages idle', answered_setSlot]
    rfl
  · rewrite [run, finishWrite_staged (s := s.takeFrame p) same other (stages_of_active p i active) fun _ => walk, answered_setSlot]
    rfl

end Writes

/-! ### ERASE_STATE (R16) -/

theorem setSlot_same (s : State) (i : Fin 32) : s.setSlot i (s.store.slots[i]'i.isLt) = s := by
  unfold State.setSlot
  rw [Fin.getElem_fin, Vector.set_getElem_self]

theorem exec_eraseState {s : State} (p : Port) (i : Fin 32) (allowed : s.excluded p = false) (idle : s.seq.phase = .idle) :
    exec (.eraseState p i) s = .next (State.answered (s.setSlot i (s.store.slots[i]'i.isLt).erase) p .ok .none) := by
  rewrite [exec, execEraseState, gated_allowed _ allowed, shotActive_takeFrame, shotActive_of_idle idle, stateOfCode_known,
    answered_setSlot]
  rfl

set_option Elab.async false in
/-- Settles O20. -/
theorem eraseStateEmptiesTheSlot : Obligations.EraseStateEmptiesTheSlot := by
  intro p s
  refine ⟨wrongLengthRefused p rfl, fun index excluded => ?_, fun allowed => ⟨fun index active => ?_, fun idle =>
    ⟨fun index unknown => ?_, fun i empty unstaged => ?_, fun i used => ?_⟩⟩⟩
  · rw [exec, execEraseState, gated_excluded _ excluded]
  · exact exec_busy rfl allowed active
  · rewrite [exec, execEraseState, gated_allowed _ allowed, shotActive_takeFrame, shotActive_of_idle idle,
      stateOfCode_unknown unknown]
    rfl
  · have kept : (s.store.slots[i]'i.isLt).erase = s.store.slots[i]'i.isLt := by
      rewrite [Slot.erase, empty, unstaged]
      rfl
    rw [exec_eraseState p i allowed idle, kept, setSlot_same]
  · have erased : (s.store.slots[i]'i.isLt).erase
        = { active := none, staged := none, revision := ((s.store.slots[i]'i.isLt).revision + 1) % 65536 } := by
      refine if_neg fun h => ?_
      simp only [Bool.and_eq_true, Option.isNone_iff_eq_none] at h
      rcases used with used | used
      · exact used h.1
      · exact used h.2
    rw [exec_eraseState p i allowed idle, erased]

end Sys2Proof.Proofs.Writing
end

section
/-! PROOF. The checks of a written record find the first field out of range (O21). -/

namespace Sys2Proof.Proofs.Checking

open Sys2Proof Sys2Proof.Machine Sys2Proof.Proofs.Answering Sys2Proof.Proofs.Writing

/-! ### The first check that fails -/

/-- A check of the list with this code and position fails. -/
def Fails (l : List FieldCheck) (code pos : Nat) : Prop := ∃ c ∈ l, c.code = code ∧ c.position = pos ∧ c.passes = false

theorem fails_nil (code pos : Nat) : Fails [] code pos ↔ False := by simp [Fails]

theorem fails_cons (c : FieldCheck) (l : List FieldCheck) (code pos : Nat) :
    Fails (c :: l) code pos ↔ (c.code = code ∧ c.position = pos ∧ c.passes = false) ∨ Fails l code pos := by
  simp [Fails]

theorem fails_append (l m : List FieldCheck) (code pos : Nat) :
    Fails (l ++ m) code pos ↔ Fails l code pos ∨ Fails m code pos := by
  simp [Fails, or_and_right, exists_or]

theorem fails_if (c : Bool) (l : List FieldCheck) (code pos : Nat) :
    Fails (if c then l else []) code pos ↔ c = true ∧ Fails l code pos := by
  cases c <;> simp [fails_nil]

/-- One check stands before another in the order of R12. -/
def Before (a b : FieldCheck) : Prop := FieldBefore a.code a.position b.code b.position

theorem firstFailure_fails {l : List FieldCheck} {code pos : Nat} (h : firstFailure l = some (code, pos)) :
    Fails l code pos := by
  induction l with
  | nil => cases h
  | cons c rest ih =>
    rewrite [firstFailure] at h
    rewrite [fails_cons]
    split at h
    next passes => exact .inr (ih h)
    next fails =>
      cases h
      exact .inl ⟨rfl, rfl, by simpa using fails⟩

theorem firstFailure_none_iff {l : List FieldCheck} : firstFailure l = none ↔ ∀ code pos, ¬ Fails l code pos := by
  rewrite [Invariants.firstFailure_none]
  constructor
  · rintro passes code pos ⟨c, mem, -, -, fails⟩
    rewrite [passes c mem] at fails
    cases fails
  · intro none c mem
    by_contra fails
    exact none c.code c.position ⟨c, mem, rfl, rfl, by simpa using fails⟩

/-- In a list in order, the first failure comes before every other one. -/
theorem firstFailure_first {l : List FieldCheck} (ordered : l.Pairwise Before) {code pos c x : Nat}
    (first : firstFailure l = some (code, pos)) (fails : Fails l c x) :
    (code = c ∧ pos = x) ∨ FieldBefore code pos c x := by
  induction l with
  | nil => cases first
  | cons a rest ih =>
    rewrite [List.pairwise_cons] at ordered
    rewrite [firstFailure] at first
    rewrite [fails_cons] at fails
    split at first
    next passes =>
      rcases fails with ⟨-, -, bad⟩ | later
      · rewrite [passes] at bad
        cases bad
      · exact ih ordered.2 first later
    next =>
      cases first
      rcases fails with ⟨rfl, rfl, -⟩ | ⟨b, mem, rfl, rfl, -⟩
      · exact .inl ⟨rfl, rfl⟩
      · exact .inr (ordered.1 b mem)

/-! ### The order of the checks -/

/-- The code ranges of the repeated parts: channels, conditions, assessments and output actions. -/
def repeatedParts : List (Nat × Nat) := [(4, 8), (12, 13), (22, 26), (28, 30)]

theorem samePart_iff {a b : Nat} :
    SamePart a b ↔ ∃ p ∈ repeatedParts, (p.1 ≤ a ∧ a ≤ p.2) ∧ p.1 ≤ b ∧ b ≤ p.2 := by
  simp only [SamePart, repeatedParts, List.exists_mem_cons_iff, List.not_mem_nil, false_and, exists_false, or_false,
    and_assoc]

/-- No code is in two parts. -/
theorem repeatedParts_disjoint {p q : Nat × Nat} (hp : p ∈ repeatedParts) (hq : q ∈ repeatedParts) {b : Nat}
    (inP : p.1 ≤ b ∧ b ≤ p.2) (inQ : q.1 ≤ b ∧ b ≤ q.2) : p = q := by
  have apart : ∀ p ∈ repeatedParts, ∀ q ∈ repeatedParts, p = q ∨ p.2 < q.1 ∨ q.2 < p.1 := by decide
  rcases apart p hp q hq with same | before | after
  · exact same
  · omega
  · omega

theorem samePart_symm {a b : Nat} (h : SamePart a b) : SamePart b a := by
  obtain ⟨p, mem, inA, inB⟩ := samePart_iff.1 h
  exact samePart_iff.2 ⟨p, mem, inB, inA⟩

theorem samePart_trans {a b c : Nat} (h : SamePart a b) (k : SamePart b c) : SamePart a c := by
  obtain ⟨p, memP, inA, inB⟩ := samePart_iff.1 h
  obtain ⟨q, memQ, inB', inC⟩ := samePart_iff.1 k
  obtain rfl := repeatedParts_disjoint memP memQ inB inB'
  exact samePart_iff.2 ⟨p, memP, inA, inC⟩

/-- A part is a run of codes. -/
theorem samePart_between {a b c : Nat} (h : SamePart a c) (lower : a ≤ b) (upper : b ≤ c) : SamePart a b := by
  obtain ⟨p, mem, inA, inC⟩ := samePart_iff.1 h
  exact samePart_iff.2 ⟨p, mem, inA, inA.1.trans lower, upper.trans inC.2⟩

theorem fieldBefore_trans {a x b y c z : Nat} (h : FieldBefore a x b y) (k : FieldBefore b y c z) :
    FieldBefore a x c z := by
  rcases h with ⟨ab, order⟩ | ⟨ab, lt⟩
  · rcases k with ⟨bc, order'⟩ | ⟨bc, lt'⟩
    · exact .inl ⟨samePart_trans ab bc, by omega⟩
    · have apart : ¬ SamePart a c := fun ac => bc (samePart_trans (samePart_symm ab) ac)
      refine .inr ⟨apart, Nat.lt_of_not_le fun le => bc ?_⟩
      exact samePart_between (samePart_symm ab) lt'.le le
  · rcases k with ⟨bc, order'⟩ | ⟨bc, lt'⟩
    · have apart : ¬ SamePart a c := fun ac => ab (samePart_trans ac (samePart_symm bc))
      refine .inr ⟨apart, Nat.lt_of_not_le fun le => apart ?_⟩
      exact samePart_symm (samePart_between (samePart_symm bc) le lt.le)
    · exact .inr ⟨fun ac => ab (samePart_between ac lt.le lt'.le), by omega⟩

/-- The first code of each part of a record but the first, in the order in which they are looked at. -/
def partStarts : List Nat := [4, 9, 12, 14, 22, 27, 28]

/-- The part of a record that a code belongs to. -/
def part (code : Nat) : Nat := partStarts.countP (· ≤ code) + 1

theorem part_mono {a b : Nat} (h : a ≤ b) : part a ≤ part b :=
  Nat.succ_le_succ (List.countP_mono_left fun _ _ le => decide_eq_true ((of_decide_eq_true le).trans h))

theorem part_of_samePart {a b : Nat} (h : SamePart a b) : part a = part b := by
  have outside : ∀ p ∈ repeatedParts, ∀ s ∈ partStarts, s ≤ p.1 ∨ p.2 < s := by decide
  obtain ⟨p, mem, inA, inB⟩ := samePart_iff.1 h
  refine congrArg (· + 1) (List.countP_congr fun s start => ?_)
  have := outside p mem s start
  simp only [decide_eq_true_eq]
  omega

theorem fieldBefore_of_part {a b : Nat} (x y : Nat) (h : part a < part b) : FieldBefore a x b y :=
  .inr ⟨fun same => h.ne (part_of_samePart same), Nat.lt_of_not_le fun le => h.not_ge (part_mono le)⟩

/-- A list of checks in order, all of one part. -/
structure PartList (k : Nat) (l : List FieldCheck) : Prop where
  codes : ∀ c ∈ l, part c.code = k
  ordered : l.Pairwise Before

/-- A list of checks in order, of the parts up to one. -/
structure UpTo (k : Nat) (l : List FieldCheck) : Prop where
  codes : ∀ c ∈ l, part c.code ≤ k
  ordered : l.Pairwise Before

theorem PartList.upTo {k : Nat} {l : List FieldCheck} (h : PartList k l) : UpTo k l :=
  ⟨fun c mem => (h.codes c mem).le, h.ordered⟩

theorem UpTo.append {j k : Nat} {l m : List FieldCheck} (h : UpTo j l) (n : PartList k m) (lt : j < k) :
    UpTo k (l ++ m) := by
  refine ⟨fun c mem => ?_, List.pairwise_append.2 ⟨h.ordered, n.ordered, fun a ma b mb => ?_⟩⟩
  · rcases List.mem_append.1 mem with old | new
    · have := h.codes c old
      omega
    · exact (n.codes c new).le
  · refine fieldBefore_of_part _ _ ?_
    have := h.codes a ma
    have := n.codes b mb
    omega

theorem mem_codes {l : List FieldCheck} {cs : List Nat} (is : l.map (·.code) = cs) {c : FieldCheck} (mem : c ∈ l) :
    c.code ∈ cs := is ▸ List.mem_map_of_mem mem

/-- Single checks at one position, each with a code above the one before it. -/
theorem PartList.of_codes {k : Nat} {l : List FieldCheck} (cs : List Nat) (n : Nat) (is : l.map (·.code) = cs)
    (codes : ∀ c ∈ cs, part c = k) (increasing : cs.Pairwise (· < ·)) (position : ∀ c ∈ l, c.position = n) :
    PartList k l := by
  refine ⟨fun c mem => codes _ (mem_codes is mem), ?_⟩
  rewrite [← is, List.pairwise_map] at increasing
  refine increasing.imp_of_mem fun {a b} ma mb lt => ?_
  have same : a.position = b.position := (position a ma).trans (position b mb).symm
  by_cases p : SamePart a.code b.code
  · exact .inl ⟨p, .inr ⟨same, lt⟩⟩
  · exact .inr ⟨p, lt⟩

theorem channelChecks_eq (cfg : PerChannel ChannelConfig) (r : RawRecord) :
    channelChecks cfg .va r.channels.va ++ channelChecks cfg .vb r.channels.vb
      ++ channelChecks cfg .vc r.channels.vc ++ channelChecks cfg .vx r.channels.vx
      ++ channelChecks cfg .ia r.channels.ia ++ channelChecks cfg .ib r.channels.ib
      ++ channelChecks cfg .ic r.channels.ic
      = allChannels.flatMap fun c => channelChecks cfg c (r.channels.get c) := by
  simp [allChannels, PerChannel.get]

theorem channels_partList (cfg : PerChannel ChannelConfig) (r : RawRecord) :
    PartList 2 (allChannels.flatMap fun c => channelChecks cfg c (r.channels.get c)) := by
  have one : ∀ c, PartList 2 (channelChecks cfg c (r.channels.get c)) := fun c =>
    .of_codes [4, 5, 6, 7, 8] c.position rfl (by decide) (by decide) (by simp [channelChecks])
  refine ⟨fun c mem => ?_, List.pairwise_flatMap.2 ⟨fun c _ => (one c).ordered, ?_⟩⟩
  · obtain ⟨ch, -, mem⟩ := List.mem_flatMap.1 mem
    exact (one ch).codes c mem
  · have positions : allChannels.Pairwise fun a b => a.position < b.position := by decide
    refine positions.imp fun {c d} lt a ma b mb => .inl ?_
    have inside : ∀ c ∈ [4, 5, 6, 7, 8], 4 ≤ c ∧ c ≤ 8 := by decide
    have position : ∀ ch, ∀ x ∈ channelChecks cfg ch (r.channels.get ch), x.position = ch.position := by
      simp [channelChecks]
    refine ⟨samePart_iff.2 ⟨(4, 8), by decide, inside _ (mem_codes rfl ma), inside _ (mem_codes rfl mb)⟩, .inl ?_⟩
    rewrite [position c a ma, position d b mb]
    exact lt

/-- The checks of a list's entries, entry `n` first, each a few checks of one repeated part. -/
theorem entries_ordered {α : Type} (f : Nat → α → List FieldCheck) (k : Nat) (cs : List Nat) (p : Nat × Nat)
    (codes : ∀ n x, (f n x).map (·.code) = cs) (parts : ∀ c ∈ cs, part c = k) (increasing : cs.Pairwise (· < ·))
    (repeated : p ∈ repeatedParts) (inside : ∀ c ∈ cs, p.1 ≤ c ∧ c ≤ p.2)
    (position : ∀ n x, ∀ c ∈ f n x, c.position = n) (checks : Nat → List α → List FieldCheck)
    (nil : ∀ n, checks n [] = []) (cons : ∀ n x rest, checks n (x :: rest) = f n x ++ checks (n + 1) rest)
    (l : List α) (n : Nat) : PartList k (checks n l) ∧ ∀ c ∈ checks n l, n ≤ c.position ∧ c.code ∈ cs := by
  induction l generalizing n with
  | nil =>
    rewrite [nil]
    exact ⟨⟨nofun, .nil⟩, nofun⟩
  | cons x rest ih =>
    obtain ⟨⟨later, ordered⟩, after⟩ := ih (n + 1)
    have one : PartList k (f n x) := .of_codes cs n (codes n x) parts increasing (position n x)
    have here : ∀ c ∈ f n x, c.code ∈ cs := fun c mem => mem_codes (codes n x) mem
    rewrite [cons]
    refine ⟨⟨fun c mem => ?_, List.pairwise_append.2 ⟨one.ordered, ordered, fun a ma b mb => ?_⟩⟩, fun c mem => ?_⟩
    · rcases List.mem_append.1 mem with first | other
      · exact one.codes c first
      · exact later c other
    · obtain ⟨le, mem⟩ := after b mb
      refine .inl ⟨samePart_iff.2 ⟨p, repeated, inside _ (here a ma), inside _ mem⟩, .inl ?_⟩
      rewrite [position n x a ma]
      exact le
    · rcases List.mem_append.1 mem with first | other
      · exact ⟨(position n x c first).ge, here c first⟩
      · obtain ⟨le, mem⟩ := after c other
        exact ⟨by omega, mem⟩

/-- The checks of one condition. -/
def checksOfCondition (n : Nat) (c : RawCondition) : List FieldCheck :=
  [⟨12, n, decide (c.hold ≤ 100000)⟩, ⟨13, n, (Next.ofCode c.next).isSome⟩]

/-- The checks of one assessment. -/
def checksOfAssessment (n : Nat) (a : RawAssessment) : List FieldCheck :=
  [⟨22, n, decide (a.mask ≠ 0)⟩, ⟨23, n, (Expectation.ofCode a.expectation).isSome⟩,
    ⟨24, n, decide (a.nominal ≤ 3600000000)⟩, ⟨25, n, decide (a.tolAbs ≤ 3600000000)⟩, ⟨26, n, decide (a.permille ≤ 1000)⟩]

/-- The checks of one output action. -/
def checksOfAction (n : Nat) (a : RawAction) : List FieldCheck :=
  [⟨28, n, (outputOfCode a.output).isSome⟩, ⟨29, n, decide (a.level ≤ 1)⟩, ⟨30, n, decide (a.delay ≤ 100000)⟩]

theorem conditions_partList (n : Nat) (l : List RawCondition) : PartList 4 (conditionChecks n l) :=
  (entries_ordered checksOfCondition 4 [12, 13] (12, 13) (fun _ _ => rfl) (by decide) (by decide) (by decide) (by decide)
    (by simp [checksOfCondition]) conditionChecks (fun _ => rfl) (fun _ _ _ => rfl) l n).1

theorem assessments_partList (n : Nat) (l : List RawAssessment) : PartList 6 (assessmentChecks n l) :=
  (entries_ordered checksOfAssessment 6 [22, 23, 24, 25, 26] (22, 26) (fun _ _ => rfl) (by decide) (by decide) (by decide) (by decide)
    (by simp [checksOfAssessment]) assessmentChecks (fun _ => rfl) (fun _ _ _ => rfl) l n).1

theorem actions_partList (n : Nat) (l : List RawAction) : PartList 8 (actionChecks n l) :=
  (entries_ordered checksOfAction 8 [28, 29, 30] (28, 30) (fun _ _ => rfl) (by decide) (by decide) (by decide) (by decide)
    (by simp [checksOfAction]) actionChecks (fun _ => rfl) (fun _ _ _ => rfl) l n).1

theorem inception_partList (r : RawRecord) :
    PartList 3 ((if r.inceptionPresent then
        [⟨9, 0, (Channel.ofCode r.inceptionRef).isSome⟩, ⟨10, 0, angleInRange r.inceptionAngle⟩] else [])
      ++ [⟨11, 0, decide (r.conditionCount ≤ 4)⟩]) := by
  split
  · exact .of_codes [9, 10, 11] 0 rfl (by decide) (by decide) (by simp)
  · exact .of_codes [11] 0 rfl (by decide) (by decide) (by simp)

theorem ramp_partList (cfg : PerChannel ChannelConfig) (r : RawRecord) :
    PartList 5 ((if r.rampPresent then rampChecks cfg r.ramp else []) ++ [⟨21, 0, decide (r.assessmentCount ≤ 4)⟩]) := by
  split
  · unfold rampChecks
    split
    · exact .of_codes [14, 21] 0 rfl (by decide) (by decide) (by simp)
    · exact .of_codes [15, 21] 0 rfl (by decide) (by decide) (by simp)
    · exact .of_codes [16, 17, 18, 19, 20, 21] 0 rfl (by decide) (by decide) (by simp)
  · exact .of_codes [21] 0 rfl (by decide) (by decide) (by simp)

/-- The checks by the parts of the record. -/
theorem recordChecks_eq (cfg : PerChannel ChannelConfig) (index : Nat) (r : RawRecord) :
    recordChecks cfg index r
      = [⟨1, 0, decide (index < 32)⟩, ⟨2, 0, decide (r.duration ≤ 36000000)⟩, ⟨3, 0, (Next.ofCode r.timeoutNext).isSome⟩]
        ++ (allChannels.flatMap fun c => channelChecks cfg c (r.channels.get c))
        ++ ((if r.inceptionPresent then
              [⟨9, 0, (Channel.ofCode r.inceptionRef).isSome⟩, ⟨10, 0, angleInRange r.inceptionAngle⟩] else [])
            ++ [⟨11, 0, decide (r.conditionCount ≤ 4)⟩])
        ++ conditionChecks 1 (r.conditions.take r.conditionCount)
        ++ ((if r.rampPresent then rampChecks cfg r.ramp else []) ++ [⟨21, 0, decide (r.assessmentCount ≤ 4)⟩])
        ++ assessmentChecks 1 (r.assessments.take r.assessmentCount)
        ++ [⟨27, 0, decide (r.actionCount ≤ 4)⟩]
        ++ actionChecks 1 (r.actions.take r.actionCount) := by
  rewrite [← channelChecks_eq]
  simp only [recordChecks, List.append_assoc]

theorem recordChecks_ordered (cfg : PerChannel ChannelConfig) (index : Nat) (r : RawRecord) :
    (recordChecks cfg index r).Pairwise Before := by
  rewrite [recordChecks_eq]
  have head : PartList 1 [⟨1, 0, decide (index < 32)⟩, ⟨2, 0, decide (r.duration ≤ 36000000)⟩,
      ⟨3, 0, (Next.ofCode r.timeoutNext).isSome⟩] :=
    .of_codes [1, 2, 3] 0 rfl (by decide) (by decide) (by simp)
  have count : PartList 7 [⟨27, 0, decide (r.actionCount ≤ 4)⟩] :=
    .of_codes [27] 0 rfl (by decide) (by decide) (by simp)
  exact (((((((head.upTo.append (channels_partList cfg r) (by decide)).append (inception_partList r) (by decide)).append
    (conditions_partList 1 _) (by decide)).append (ramp_partList cfg r) (by decide)).append
    (assessments_partList 1 _) (by decide)).append count (by decide)).append (actions_partList 1 _) (by decide)).ordered

/-! ### Which check fails -/

theorem angleInRange_false {a : Int} : angleInRange a = false ↔ a < -18000 ∨ 17999 < a := by
  simp only [angleInRange, decide_eq_false_iff_not]
  omega

theorem frequencyInRange_false {f : Nat} : frequencyInRange f = false ↔ f < 10000 ∨ 1000000 < f := by
  simp only [frequencyInRange, decide_eq_false_iff_not]
  omega

theorem next_unknown {n : Nat} : (Next.ofCode n).isSome = false ↔ NextBad n := by
  unfold Next.ofCode NextBad
  split
  next known => exact iff_of_false (by simp) (by omega)
  next unknown =>
    split
    next finish => exact iff_of_false (by simp) (by omega)
    next other => exact iff_of_true rfl ⟨by omega, other⟩

theorem channel_unknown {n : Nat} : (Channel.ofCode n).isSome = false ↔ 6 < n := by
  unfold Channel.ofCode
  split <;> simp_all
  omega

theorem target_unknown {n : Nat} : Target.ofCode n = none ↔ 8 < n := by
  unfold Target.ofCode
  split
  next known =>
    have := mt (channel_unknown (n := n)).2 (by simp [known])
    exact iff_of_false (by simp) (by omega)
  next unknown =>
    have := (channel_unknown (n := n)).1 (by simp [unknown])
    split_ifs with v i
    · exact iff_of_false (by simp) (by omega)
    · exact iff_of_false (by simp) (by omega)
    · exact iff_of_true rfl (by omega)

theorem quantity_unknown {n : Nat} : Quantity.ofCode n = none ↔ 2 < n := by
  unfold Quantity.ofCode
  split <;> simp_all
  omega

theorem expectation_unknown {n : Nat} : (Expectation.ofCode n).isSome = false ↔ 1 < n := by
  unfold Expectation.ofCode
  split <;> simp_all
  omega

theorem output_unknown {n : Nat} : (outputOfCode n).isSome = false ↔ n = 0 ∨ 4 < n := by
  unfold outputOfCode
  split
  next known => exact iff_of_false (by simp) (by omega)
  next unknown => exact iff_of_true rfl (by omega)

theorem link_refused {n : Nat} {c : Channel} :
    (match BreakerLink.ofCode n with
      | some (.pole _) => !c.isVoltage
      | some _ => true
      | none => false) = false ↔ 4 < n ∨ (c.isVoltage = true ∧ 1 ≤ n ∧ n ≤ 3) := by
  match n with
  | 0 | 4 => simp [BreakerLink.ofCode]
  | 1 | 2 | 3 => simp [BreakerLink.ofCode]
  | n + 5 => exact iff_of_true rfl (.inl (by omega))

theorem fails_channelChecks (cfg : PerChannel ChannelConfig) (c : Channel) (e : RawChannel) (code pos : Nat) :
    Fails (channelChecks cfg c e) code pos ↔ pos = c.position ∧ ChannelFieldBad cfg c e code := by
  simp only [channelChecks, fails_cons, fails_nil, or_false, decide_eq_false_iff_not, not_le, angleInRange_false,
    frequencyInRange_false]
  constructor
  · rintro (⟨rfl, rfl, bad⟩ | ⟨rfl, rfl, bad⟩ | ⟨rfl, rfl, bad⟩ | ⟨rfl, rfl, bad⟩ | ⟨rfl, rfl, bad⟩)
    · exact ⟨rfl, bad⟩
    · exact ⟨rfl, bad⟩
    · exact ⟨rfl, bad⟩
    · exact ⟨rfl, bad⟩
    · exact ⟨rfl, link_refused.1 bad⟩
  · rintro ⟨rfl, bad⟩
    unfold ChannelFieldBad at bad
    split at bad
    · exact .inl ⟨rfl, rfl, bad⟩
    · exact .inr (.inl ⟨rfl, rfl, bad⟩)
    · exact .inr (.inr (.inl ⟨rfl, rfl, bad⟩))
    · exact .inr (.inr (.inr (.inl ⟨rfl, rfl, bad⟩)))
    · exact .inr (.inr (.inr (.inr ⟨rfl, rfl, link_refused.2 bad⟩)))
    · exact bad.elim

theorem fails_flatMap {α : Type} (l : List α) (f : α → List FieldCheck) (code pos : Nat) :
    Fails (l.flatMap f) code pos ↔ ∃ x ∈ l, Fails (f x) code pos := by
  simp only [Fails, List.mem_flatMap]
  constructor
  · rintro ⟨c, ⟨x, mem, at_⟩, fails⟩
    exact ⟨x, mem, c, at_, fails⟩
  · rintro ⟨x, mem, c, at_, fails⟩
    exact ⟨c, ⟨x, mem, at_⟩, fails⟩

theorem fails_channels (cfg : PerChannel ChannelConfig) (r : RawRecord) (code pos : Nat) :
    Fails (allChannels.flatMap fun c => channelChecks cfg c (r.channels.get c)) code pos
      ↔ ∃ c : Channel, pos = c.position ∧ ChannelFieldBad cfg c (r.channels.get c) code := by
  simp only [fails_flatMap, mem_allChannels, true_and, fails_channelChecks]

/-- A check of a list's entries fails where one fails for some entry looked at. -/
theorem fails_entries {α : Type} (f : Nat → α → List FieldCheck) (checks : Nat → List α → List FieldCheck)
    {code pos : Nat} {B : α → Prop} (nil : ∀ n, checks n [] = [])
    (cons : ∀ n x rest, checks n (x :: rest) = f n x ++ checks (n + 1) rest)
    (one : ∀ n x, Fails (f n x) code pos ↔ pos = n ∧ B x) (l : List α) (m : Nat) :
    Fails (checks 1 (l.take m)) code pos ↔ ∃ x, 1 ≤ pos ∧ pos ≤ m ∧ l[pos - 1]? = some x ∧ B x := by
  have every : ∀ (l : List α) (n : Nat), Fails (checks n l) code pos ↔ ∃ k x, pos = n + k ∧ l[k]? = some x ∧ B x := by
    intro l
    induction l with
    | nil => simp [nil, fails_nil]
    | cons x rest ih =>
      intro n
      rewrite [cons, fails_append, one, ih]
      constructor
      · rintro (⟨rfl, bad⟩ | ⟨k, y, rfl, found, bad⟩)
        · exact ⟨0, x, rfl, rfl, bad⟩
        · exact ⟨k + 1, y, by omega, found, bad⟩
      · rintro ⟨k, y, rfl, found, bad⟩
        cases k with
        | zero =>
          cases found
          exact .inl ⟨rfl, bad⟩
        | succ k => exact .inr ⟨k, y, by omega, found, bad⟩
  rewrite [every]
  constructor
  · rintro ⟨k, x, rfl, found, bad⟩
    rewrite [List.getElem?_take] at found
    split at found
    next lt => exact ⟨x, by omega, by omega, by simpa using found, bad⟩
    next => cases found
  · rintro ⟨x, low, high, found, bad⟩
    refine ⟨pos - 1, x, by omega, ?_, bad⟩
    rw [List.getElem?_take, if_pos (by omega), found]

theorem fails_checksOfCondition (n : Nat) (c : RawCondition) (code pos : Nat) :
    Fails (checksOfCondition n c) code pos
      ↔ pos = n ∧ (code = 12 ∧ 100000 < c.hold ∨ code = 13 ∧ NextBad c.next) := by
  simp only [checksOfCondition, fails_cons, fails_nil, or_false, decide_eq_false_iff_not, not_le, next_unknown,
    eq_comm (b := code), eq_comm (b := pos)]
  simp only [and_left_comm, ← and_or_left]

theorem fails_checksOfAssessment (n : Nat) (a : RawAssessment) (code pos : Nat) :
    Fails (checksOfAssessment n a) code pos
      ↔ pos = n ∧ (code = 22 ∧ a.mask = 0 ∨ code = 23 ∧ 1 < a.expectation ∨ code = 24 ∧ 3600000000 < a.nominal
        ∨ code = 25 ∧ 3600000000 < a.tolAbs ∨ code = 26 ∧ 1000 < a.permille) := by
  simp only [checksOfAssessment, fails_cons, fails_nil, or_false, decide_eq_false_iff_not, not_le, ne_eq, not_not,
    expectation_unknown, eq_comm (b := code), eq_comm (b := pos)]
  simp only [and_left_comm, ← and_or_left]

theorem fails_checksOfAction (n : Nat) (a : RawAction) (code pos : Nat) :
    Fails (checksOfAction n a) code pos
      ↔ pos = n ∧ (code = 28 ∧ (a.output = 0 ∨ 4 < a.output) ∨ code = 29 ∧ 1 < a.level ∨ code = 30 ∧ 100000 < a.delay) := by
  simp only [checksOfAction, fails_cons, fails_nil, or_false, decide_eq_false_iff_not, not_le, output_unknown,
    eq_comm (b := code), eq_comm (b := pos)]
  simp only [and_left_comm, ← and_or_left]

theorem fails_conditions (r : RawRecord) (code pos : Nat) :
    Fails (conditionChecks 1 (r.conditions.take r.conditionCount)) code pos
      ↔ ∃ c, 1 ≤ pos ∧ pos ≤ r.conditionCount ∧ r.conditions[pos - 1]? = some c
          ∧ (code = 12 ∧ 100000 < c.hold ∨ code = 13 ∧ NextBad c.next) :=
  fails_entries checksOfCondition conditionChecks (fun _ => rfl) (fun _ _ _ => rfl)
    (fun n c => fails_checksOfCondition n c code pos) _ _

theorem fails_assessments (r : RawRecord) (code pos : Nat) :
    Fails (assessmentChecks 1 (r.assessments.take r.assessmentCount)) code pos
      ↔ ∃ a, 1 ≤ pos ∧ pos ≤ r.assessmentCount ∧ r.assessments[pos - 1]? = some a
          ∧ (code = 22 ∧ a.mask = 0 ∨ code = 23 ∧ 1 < a.expectation ∨ code = 24 ∧ 3600000000 < a.nominal
            ∨ code = 25 ∧ 3600000000 < a.tolAbs ∨ code = 26 ∧ 1000 < a.permille) :=
  fails_entries checksOfAssessment assessmentChecks (fun _ => rfl) (fun _ _ _ => rfl)
    (fun n a => fails_checksOfAssessment n a code pos) _ _

theorem fails_actions (r : RawRecord) (code pos : Nat) :
    Fails (actionChecks 1 (r.actions.take r.actionCount)) code pos
      ↔ ∃ a, 1 ≤ pos ∧ pos ≤ r.actionCount ∧ r.actions[pos - 1]? = some a
          ∧ (code = 28 ∧ (a.output = 0 ∨ 4 < a.output) ∨ code = 29 ∧ 1 < a.level ∨ code = 30 ∧ 100000 < a.delay) :=
  fails_entries checksOfAction actionChecks (fun _ => rfl) (fun _ _ _ => rfl)
    (fun n a => fails_checksOfAction n a code pos) _ _

/-! ### The checks of a ramp (R8) -/

/-- The smallest range of a target is the range of one of its channels. -/
theorem targetRange_attained (cfg : PerChannel ChannelConfig) (t : Target) :
    ∃ c, t.covers c = true ∧ (cfg.get c).range = targetRange cfg t := by
  have fold : ∀ (l : List Channel) (m : Nat), l.foldl (fun m c => min m (cfg.get c).range) m = m
      ∨ ∃ c ∈ l, (cfg.get c).range = l.foldl (fun m c => min m (cfg.get c).range) m := by
    intro l
    induction l with
    | nil => exact fun m => .inl rfl
    | cons d rest ih =>
      intro m
      rewrite [List.foldl_cons]
      rcases ih (min m (cfg.get d).range) with same | ⟨c, mem, least⟩
      · rewrite [same]
        rcases Nat.le_total m (cfg.get d).range with le | le
        · exact .inl (Nat.min_eq_left le)
        · exact .inr ⟨d, List.mem_cons_self, (Nat.min_eq_right le).symm⟩
      · exact .inr ⟨c, List.mem_cons_of_mem d mem, least⟩
  have lead : t.covers t.lead = true := by
    cases t with
    | channel c => simp [Target.covers, Target.channels, Target.lead]
    | group g => cases g <;> rfl
  rcases fold t.channels (cfg.get t.lead).range with same | ⟨c, mem, least⟩
  · exact ⟨t.lead, lead, same.symm⟩
  · exact ⟨c, by simpa [Target.covers] using mem, least⟩

theorem targetRange_lt_iff {cfg : PerChannel ChannelConfig} {t : Target} {v : Nat} :
    targetRange cfg t < v ↔ ∃ c, t.covers c = true ∧ (cfg.get c).range < v := by
  constructor
  · intro lt
    obtain ⟨c, covers, least⟩ := targetRange_attained cfg t
    exact ⟨c, covers, by omega⟩
  · rintro ⟨c, covers, lt⟩
    have := Invariants.targetRange_le cfg t c covers
    omega

theorem rampValue_bad {cfg : PerChannel ChannelConfig} {t : Target} {q : Quantity} {v : Int} :
    rampValueInRange cfg t q v = false ↔ RampValueBad cfg t q v := by
  cases q with
  | amplitude =>
    simp only [rampValueInRange, RampValueBad, decide_eq_false_iff_not]
    have above : ((targetRange cfg t : Int) < v ∧ 0 ≤ v)
        ↔ (∃ c, t.covers c = true ∧ ((cfg.get c).range : Int) < v) ∧ 0 ≤ v := by
      refine and_congr_left fun pos => ?_
      obtain ⟨n, rfl⟩ := Int.eq_ofNat_of_zero_le pos
      simpa using targetRange_lt_iff (cfg := cfg) (t := t) (v := n)
    constructor
    · intro out
      by_cases neg : v < 0
      · exact .inl neg
      · exact .inr (above.1 ⟨by omega, by omega⟩).1
    · rintro (neg | large)
      · omega
      · intro inRange
        have := (above.2 ⟨large, inRange.1⟩).1
        omega
  | phase => exact angleInRange_false
  | frequency =>
    simp only [rampValueInRange, RampValueBad, decide_eq_false_iff_not]
    omega

theorem rampStep_bad {cfg : PerChannel ChannelConfig} {t : Target} {q : Quantity} {v : Int} :
    ¬ (1 ≤ v.natAbs ∧ v.natAbs ≤ rampStepLimit cfg t q) ↔ RampStepBad cfg t q v := by
  have zero : v = 0 ↔ ¬ 1 ≤ v.natAbs := by omega
  unfold RampStepBad
  rewrite [zero, not_and_or, not_le (a := v.natAbs)]
  cases q with
  | amplitude => rw [rampStepLimit, targetRange_lt_iff]
  | phase => rfl
  | frequency => rfl

theorem fails_rampChecks_known {cfg : PerChannel ChannelConfig} {w : RawRamp} {t : Target} {q : Quantity}
    (target : Target.ofCode w.target = some t) (quantity : Quantity.ofCode w.quantity = some q) (code pos : Nat) :
    Fails (rampChecks cfg w) code pos ↔ pos = 0 ∧ (code = 16 ∧ RampValueBad cfg t q w.start
      ∨ code = 17 ∧ RampStepBad cfg t q w.step
      ∨ code = 18 ∧ (RampValueBad cfg t q w.limit
          ∨ (if 0 < w.step then w.limit < w.start else w.start < w.limit))
      ∨ code = 19 ∧ (w.dwell = 0 ∨ 100000 < w.dwell) ∨ code = 20 ∧ w.stopMask = 0) := by
  have dwell : ¬ (1 ≤ w.dwell ∧ w.dwell ≤ 100000) ↔ w.dwell = 0 ∨ 100000 < w.dwell := by omega
  have order : (if 0 < w.step then decide (w.start ≤ w.limit) else decide (w.limit ≤ w.start)) = false
      ↔ if 0 < w.step then w.limit < w.start else w.start < w.limit := by
    split_ifs <;> simp
  simp only [rampChecks, target, quantity, fails_cons, fails_nil, or_false, rampValue_bad, decide_eq_false_iff_not,
    rampStep_bad, Bool.and_eq_false_iff, order, dwell, ne_eq, not_not]
  constructor
  · rintro (⟨rfl, rfl, bad⟩ | ⟨rfl, rfl, bad⟩ | ⟨rfl, rfl, bad⟩ | ⟨rfl, rfl, bad⟩ | ⟨rfl, rfl, bad⟩) <;> simp [bad]
  · rintro ⟨rfl, ⟨rfl, bad⟩ | ⟨rfl, bad⟩ | ⟨rfl, bad⟩ | ⟨rfl, bad⟩ | ⟨rfl, bad⟩⟩ <;> simp [bad]

theorem rampFieldBad_code {cfg : PerChannel ChannelConfig} {w : RawRamp} {code : Nat} (bad : RampFieldBad cfg w code) :
    14 ≤ code ∧ code ≤ 20 := by
  by_contra out
  unfold RampFieldBad at bad
  split at bad <;> simp at out
  exact bad

/-- Every bad field of a ramp has a failing check no later than it. -/
theorem fails_of_rampFieldBad {cfg : PerChannel ChannelConfig} {w : RawRamp} {code : Nat}
    (bad : RampFieldBad cfg w code) : ∃ c, Fails (rampChecks cfg w) c 0 ∧ 14 ≤ c ∧ c ≤ code := by
  obtain ⟨low, high⟩ := rampFieldBad_code bad
  cases target : Target.ofCode w.target with
  | none => exact ⟨14, by simp [rampChecks, target, fails_cons], by omega, low⟩
  | some t =>
    have known : ¬ 8 < w.target := fun unknown => by simp [target_unknown.2 unknown] at target
    cases quantity : Quantity.ofCode w.quantity with
    | none =>
      refine ⟨15, by simp [rampChecks, target, quantity, fails_cons], by omega, Nat.lt_of_le_of_ne low ?_⟩
      rintro rfl
      exact known bad
    | some q =>
      have known' : ¬ 2 < w.quantity := fun unknown => by simp [quantity_unknown.2 unknown] at quantity
      refine ⟨code, (fails_rampChecks_known target quantity _ _).2 ⟨rfl, ?_⟩, low, le_rfl⟩
      unfold RampFieldBad at bad
      split at bad
      · exact absurd bad known
      · exact absurd bad known'
      · simpa [target, quantity] using bad
      · simpa [target, quantity] using bad
      · obtain ⟨t', q', ht, hq, bad⟩ := bad
        obtain rfl : t = t' := by simpa [target] using ht
        obtain rfl : q = q' := by simpa [quantity] using hq
        refine .inr (.inr (.inl ⟨rfl, bad.imp_right ?_⟩))
        rintro (⟨up, beyond⟩ | ⟨down, beyond⟩)
        · rwa [if_pos up]
        · rwa [if_neg (by omega)]
      · simpa using bad
      · simpa using bad
      · exact bad.elim

/-- Every failing check of a ramp has a bad field no later than it: where the step is zero, the step. -/
theorem rampFieldBad_of_fails {cfg : PerChannel ChannelConfig} {w : RawRamp} {code pos : Nat}
    (fails : Fails (rampChecks cfg w) code pos) : pos = 0 ∧ code ≤ 20 ∧ ∃ c, RampFieldBad cfg w c ∧ c ≤ code := by
  cases target : Target.ofCode w.target with
  | none =>
    obtain ⟨rfl, rfl⟩ : 14 = code ∧ 0 = pos := by simpa [rampChecks, target, fails_cons, fails_nil] using fails
    exact ⟨rfl, by omega, 14, target_unknown.1 target, le_rfl⟩
  | some t =>
    cases quantity : Quantity.ofCode w.quantity with
    | none =>
      obtain ⟨rfl, rfl⟩ : 15 = code ∧ 0 = pos := by
        simpa [rampChecks, target, quantity, fails_cons, fails_nil] using fails
      exact ⟨rfl, by omega, 15, quantity_unknown.1 quantity, le_rfl⟩
    | some q =>
      obtain ⟨rfl, bad⟩ := (fails_rampChecks_known target quantity _ _).1 fails
      rcases bad with ⟨rfl, bad⟩ | ⟨rfl, bad⟩ | ⟨rfl, bad⟩ | ⟨rfl, bad⟩ | ⟨rfl, bad⟩
      · exact ⟨rfl, by omega, 16, ⟨t, q, target, quantity, bad⟩, le_rfl⟩
      · exact ⟨rfl, by omega, 17, ⟨t, q, target, quantity, bad⟩, le_rfl⟩
      · refine ⟨rfl, by omega, ?_⟩
        by_cases zero : w.step = 0
        · exact ⟨17, ⟨t, q, target, quantity, .inl zero⟩, by omega⟩
        · refine ⟨18, ⟨t, q, target, quantity, bad.imp_right fun beyond => ?_⟩, le_rfl⟩
          split at beyond
          next up => exact .inl ⟨up, beyond⟩
          next => exact .inr ⟨by omega, beyond⟩
      · exact ⟨rfl, by omega, 19, bad, le_rfl⟩
      · exact ⟨rfl, by omega, 20, bad, le_rfl⟩

/-! ### The checks of a record and its bad fields -/

/-- A field that is none of the ramp's is out of its range. -/
def OtherFieldBad (cfg : PerChannel ChannelConfig) (index : Nat) (r : RawRecord) (code pos : Nat) : Prop :=
  (code = 1 ∧ pos = 0 ∧ 32 ≤ index)
  ∨ (code = 2 ∧ pos = 0 ∧ 36000000 < r.duration)
  ∨ (code = 3 ∧ pos = 0 ∧ NextBad r.timeoutNext)
  ∨ (∃ c : Channel, pos = c.position ∧ ChannelFieldBad cfg c (r.channels.get c) code)
  ∨ (r.inceptionPresent = true ∧ pos = 0
      ∧ (code = 9 ∧ 6 < r.inceptionRef
          ∨ code = 10 ∧ (r.inceptionAngle < -18000 ∨ 17999 < r.inceptionAngle)))
  ∨ (code = 11 ∧ pos = 0 ∧ 4 < r.conditionCount)
  ∨ (∃ c, 1 ≤ pos ∧ pos ≤ r.conditionCount ∧ r.conditions[pos - 1]? = some c
      ∧ (code = 12 ∧ 100000 < c.hold ∨ code = 13 ∧ NextBad c.next))
  ∨ (code = 21 ∧ pos = 0 ∧ 4 < r.assessmentCount)
  ∨ (∃ a, 1 ≤ pos ∧ pos ≤ r.assessmentCount ∧ r.assessments[pos - 1]? = some a
      ∧ (code = 22 ∧ a.mask = 0 ∨ code = 23 ∧ 1 < a.expectation ∨ code = 24 ∧ 3600000000 < a.nominal
          ∨ code = 25 ∧ 3600000000 < a.tolAbs ∨ code = 26 ∧ 1000 < a.permille))
  ∨ (code = 27 ∧ pos = 0 ∧ 4 < r.actionCount)
  ∨ (∃ a, 1 ≤ pos ∧ pos ≤ r.actionCount ∧ r.actions[pos - 1]? = some a
      ∧ (code = 28 ∧ (a.output = 0 ∨ 4 < a.output) ∨ code = 29 ∧ 1 < a.level ∨ code = 30 ∧ 100000 < a.delay))

theorem or_eighth_last {a b c d e f g r h i j k : Prop} :
    (a ∨ b ∨ c ∨ d ∨ e ∨ f ∨ g ∨ r ∨ h ∨ i ∨ j ∨ k) ↔ (a ∨ b ∨ c ∨ d ∨ e ∨ f ∨ g ∨ h ∨ i ∨ j ∨ k) ∨ r := by
  simp only [or_assoc, or_comm (a := r)]

theorem fieldBad_iff (cfg : PerChannel ChannelConfig) (index : Nat) (r : RawRecord) (code pos : Nat) :
    FieldBad cfg index r code pos
      ↔ OtherFieldBad cfg index r code pos ∨ r.rampPresent = true ∧ pos = 0 ∧ RampFieldBad cfg r.ramp code :=
  or_eighth_last

/-- The failing checks are the bad fields, but for those of a ramp. -/
theorem fails_recordChecks (cfg : PerChannel ChannelConfig) (index : Nat) (r : RawRecord) (code pos : Nat) :
    Fails (recordChecks cfg index r) code pos
      ↔ OtherFieldBad cfg index r code pos ∨ r.rampPresent = true ∧ Fails (rampChecks cfg r.ramp) code pos := by
  have inception : (code = 9 ∧ pos = 0 ∧ 6 < r.inceptionRef
        ∨ code = 10 ∧ pos = 0 ∧ (r.inceptionAngle < -18000 ∨ 17999 < r.inceptionAngle))
      ↔ pos = 0 ∧ (code = 9 ∧ 6 < r.inceptionRef
          ∨ code = 10 ∧ (r.inceptionAngle < -18000 ∨ 17999 < r.inceptionAngle)) := by
    rw [and_left_comm, and_left_comm (a := code = 10), ← and_or_left]
  simp only [recordChecks_eq, fails_append, fails_cons, fails_nil, fails_if, fails_channels, fails_conditions,
    fails_assessments, fails_actions, decide_eq_false_iff_not, not_le, not_lt, next_unknown, channel_unknown,
    angleInRange_false, or_false, or_assoc]
  simp only [eq_comm (b := code), eq_comm (b := pos), inception]
  exact or_eighth_last

/-- A field stands no later than another. -/
def NotAfter (c x code pos : Nat) : Prop := (c = code ∧ x = pos) ∨ FieldBefore c x code pos

theorem NotAfter.trans {a x b y c z : Nat} (h : NotAfter a x b y) (k : NotAfter b y c z) : NotAfter a x c z := by
  rcases h with ⟨rfl, rfl⟩ | h
  · exact k
  · rcases k with ⟨rfl, rfl⟩ | k
    · exact .inr h
    · exact .inr (fieldBefore_trans h k)

theorem not_fieldBefore_self (a x : Nat) : ¬ FieldBefore a x a x := by
  unfold FieldBefore
  omega

theorem notAfter_of_ramp {a b : Nat} (low : 14 ≤ b) (high : b ≤ 20) (le : a ≤ b) : NotAfter a 0 b 0 := by
  rcases Nat.eq_or_lt_of_le le with rfl | lt
  · exact .inl ⟨rfl, rfl⟩
  · refine .inr (.inr ⟨fun same => ?_, lt⟩)
    have outside : ∀ p ∈ repeatedParts, p.2 < 14 ∨ 20 < p.1 := by decide
    obtain ⟨p, mem, -, inB⟩ := samePart_iff.1 same
    have := outside p mem
    omega

theorem fails_of_fieldBad {cfg : PerChannel ChannelConfig} {index : Nat} {raw : RawRecord} {code pos : Nat}
    (bad : FieldBad cfg index raw code pos) :
    ∃ c x, Fails (recordChecks cfg index raw) c x ∧ NotAfter c x code pos := by
  rcases (fieldBad_iff ..).1 bad with other | ⟨present, rfl, ramp⟩
  · exact ⟨code, pos, (fails_recordChecks ..).2 (.inl other), .inl ⟨rfl, rfl⟩⟩
  · obtain ⟨c, fails, -, le⟩ := fails_of_rampFieldBad ramp
    obtain ⟨low, high⟩ := rampFieldBad_code ramp
    exact ⟨c, 0, (fails_recordChecks ..).2 (.inr ⟨present, fails⟩), notAfter_of_ramp low high le⟩

theorem fieldBad_of_fails {cfg : PerChannel ChannelConfig} {index : Nat} {raw : RawRecord} {code pos : Nat}
    (fails : Fails (recordChecks cfg index raw) code pos) :
    ∃ c x, FieldBad cfg index raw c x ∧ NotAfter c x code pos := by
  rcases (fails_recordChecks ..).1 fails with other | ⟨present, ramp⟩
  · exact ⟨code, pos, (fieldBad_iff ..).2 (.inl other), .inl ⟨rfl, rfl⟩⟩
  · obtain ⟨rfl, high, c, bad, le⟩ := rampFieldBad_of_fails ramp
    have low := (rampFieldBad_code bad).1
    exact ⟨c, 0, (fieldBad_iff ..).2 (.inr ⟨present, rfl, bad⟩), notAfter_of_ramp (by omega) high le⟩

theorem firstFailure_of_fieldBad {cfg : PerChannel ChannelConfig} {index : Nat} {raw : RawRecord} {code pos : Nat}
    (bad : FieldBad cfg index raw code pos) (least : ∀ c x, FieldBefore c x code pos → ¬ FieldBad cfg index raw c x) :
    firstFailure (recordChecks cfg index raw) = some (code, pos) := by
  obtain ⟨c, x, fails, upper⟩ := fails_of_fieldBad bad
  cases first : firstFailure (recordChecks cfg index raw) with
  | none => exact absurd fails (firstFailure_none_iff.1 first c x)
  | some f =>
    obtain ⟨code', pos'⟩ := f
    have before : NotAfter code' pos' code pos :=
      NotAfter.trans (firstFailure_first (recordChecks_ordered cfg index raw) first fails) upper
    obtain ⟨c', x', bad', lower⟩ := fieldBad_of_fails (firstFailure_fails first)
    rcases lower.trans before with ⟨rfl, rfl⟩ | earlier
    · rcases before with ⟨rfl, rfl⟩ | earlier
      · rfl
      · rcases lower with ⟨rfl, rfl⟩ | later
        · exact absurd earlier (not_fieldBefore_self _ _)
        · exact absurd (fieldBefore_trans later earlier) (not_fieldBefore_self _ _)
    · exact absurd bad' (least c' x' earlier)

theorem firstFailure_of_good {cfg : PerChannel ChannelConfig} {index : Nat} {raw : RawRecord}
    (good : ∀ code pos, ¬ FieldBad cfg index raw code pos) : firstFailure (recordChecks cfg index raw) = none := by
  refine firstFailure_none_iff.2 fun code pos fails => ?_
  obtain ⟨c, x, bad, -⟩ := fieldBad_of_fails fails
  exact good c x bad

/-! ### WRITE_STATE -/

theorem writeStateChecksAndWrites : WriteStateChecksAndWrites := by
  intro p index expected raw s allowed
  refine ⟨fun code pos bad least => ?_, fun i same good => ?_⟩
  · have first := firstFailure_of_fieldBad bad least
    rewrite [exec, execWriteState, gated_allowed _ allowed]
    simp only [takeFrame_keeps, first]
    rfl
  · subst same
    have run : exec (.writeState p i expected raw) s
        = .next ((s.takeFrame p).finishWrite p i expected (RawRecord.stored raw)) := by
      rewrite [exec, execWriteState, gated_allowed _ allowed]
      simp only [takeFrame_keeps, firstFailure_of_good good, stateOfCode_known]
    exact ⟨writeRefused run, writeTakesEffect run⟩

set_option Elab.async false in
/-- Settles O21. -/
theorem writeStateAppliesOrStages : Obligations.WriteStateAppliesOrStages :=
  ⟨writeStateChecksAndWrites, Walk.stagedWalkAnswers⟩

end Sys2Proof.Proofs.Checking
end

section
/-! PROOF. WRITE_BALANCED (O22), HOLD, RELEASE and SET_AUTHORITY (O23). -/

namespace Sys2Proof.Proofs.Editing

open Sys2Proof Sys2Proof.Machine Sys2Proof.Proofs.Answering Sys2Proof.Proofs.Writing Sys2Proof.Proofs.Checking
  Sys2Proof.Proofs.Invariants

/-! ### The checks of WRITE_BALANCED (R13) -/

theorem firstFailure_passes {c : FieldCheck} (rest : List FieldCheck) (h : c.passes = true) :
    firstFailure (c :: rest) = firstFailure rest := if_pos h

theorem firstFailure_fails_here {c : FieldCheck} (rest : List FieldCheck) (h : c.passes = false) :
    firstFailure (c :: rest) = some (c.code, c.position) := if_neg (Bool.eq_false_iff.1 h)

theorem mem_channels {g : PhaseGroup} {c : Channel} : c ∈ g.channels ↔ c.group = some g := by
  cases g <;> cases c <;> decide

/-- The check of an amplitude on one channel. -/
def amplitudeCheck (cfg : PerChannel ChannelConfig) (amplitude : Nat) (c : Channel) : FieldCheck :=
  ⟨4, c.position, decide (amplitude ≤ (cfg.get c).range)⟩

section Balanced

variable {cfg : PerChannel ChannelConfig} {amplitude : Nat}

theorem amplitudes_pass (l : List Channel) (rest : List FieldCheck)
    (within : ∀ c ∈ l, amplitude ≤ (cfg.get c).range) :
    firstFailure (l.map (amplitudeCheck cfg amplitude) ++ rest) = firstFailure rest := by
  induction l with
  | nil => rfl
  | cons c l ih =>
    have passes : (amplitudeCheck cfg amplitude c).passes = true := decide_eq_true (within c List.mem_cons_self)
    rewrite [List.map_cons, List.cons_append, firstFailure_passes _ passes]
    exact ih fun d mem => within d (List.mem_cons_of_mem c mem)

/-- The first channel whose range is below the amplitude is named. -/
theorem amplitudes_fail {l : List Channel} (rest : List FieldCheck) {ch : Channel}
    (ordered : l.Pairwise fun a b => a.position < b.position) (mem : ch ∈ l) (beyond : (cfg.get ch).range < amplitude)
    (before : ∀ b ∈ l, b.position < ch.position → amplitude ≤ (cfg.get b).range) :
    firstFailure (l.map (amplitudeCheck cfg amplitude) ++ rest) = some (4, ch.position) := by
  induction l with
  | nil => cases mem
  | cons c l ih =>
    rewrite [List.pairwise_cons] at ordered
    rewrite [List.map_cons, List.cons_append]
    rcases List.mem_cons.1 mem with rfl | later
    · exact firstFailure_fails_here _ (decide_eq_false (Nat.not_le_of_lt beyond))
    · have passes : (amplitudeCheck cfg amplitude c).passes = true :=
        decide_eq_true (before c List.mem_cons_self (ordered.1 ch later))
      rewrite [firstFailure_passes _ passes]
      exact ih ordered.2 later fun b mem => before b (List.mem_cons_of_mem c mem)

variable {g : PhaseGroup} {frequency : Nat} {angle : Int}

theorem balancedChecks_eq (i : Fin 32) :
    firstFailure (balancedChecks cfg i g amplitude frequency angle)
      = firstFailure (g.channels.map (amplitudeCheck cfg amplitude)
          ++ [⟨6, g.phaseA.position, frequencyInRange frequency⟩, ⟨5, g.phaseA.position, angleInRange angle⟩]) := by
  rewrite [balancedChecks, List.cons_append, firstFailure_passes _ (decide_eq_true i.isLt)]
  rfl

theorem balancedChecks_amplitude (i : Fin 32) {ch : Channel} (mem : ch.group = some g)
    (beyond : (cfg.get ch).range < amplitude)
    (before : ∀ b : Channel, b.group = some g → b.position < ch.position → amplitude ≤ (cfg.get b).range) :
    firstFailure (balancedChecks cfg i g amplitude frequency angle) = some (4, ch.position) := by
  have ordered : g.channels.Pairwise fun a b => a.position < b.position := by cases g <;> decide
  rewrite [balancedChecks_eq]
  exact amplitudes_fail _ ordered (mem_channels.2 mem) beyond fun b mem => before b (mem_channels.1 mem)

theorem balancedChecks_within (i : Fin 32) (within : ∀ b : Channel, b.group = some g → amplitude ≤ (cfg.get b).range) :
    firstFailure (balancedChecks cfg i g amplitude frequency angle)
      = firstFailure [⟨6, g.phaseA.position, frequencyInRange frequency⟩,
          ⟨5, g.phaseA.position, angleInRange angle⟩] := by
  rw [balancedChecks_eq, amplitudes_pass _ _ fun c mem => within c (mem_channels.1 mem)]

end Balanced

theorem phaseA_position (g : PhaseGroup) : g.phaseA.position = if g = .v then 1 else 5 := by cases g <;> rfl

theorem groupOfCode_unknown {n : Nat} (h : 1 < n) : PhaseGroup.ofCode n = none := by
  match n with
  | n + 2 => rfl

theorem groupOfCode_known (g : PhaseGroup) : PhaseGroup.ofCode (if g = .v then 0 else 1) = some g := by
  cases g <;> rfl

section Exec

variable {p : Port} {expected group amplitude frequency order : Nat} {angle : Int} {s : State} {g : PhaseGroup}
  (allowed : s.excluded p = false) (i : Fin 32) (known : PhaseGroup.ofCode group = some g)
include allowed known

theorem exec_writeBalanced_refused {code pos : Nat}
    (first : firstFailure (balancedChecks s.store.config i g amplitude frequency angle) = some (code, pos)) :
    exec (.writeBalanced p i expected group amplitude frequency angle order) s
      = .next (s.answered p .range (.field code pos)) := by
  rewrite [exec, execWriteBalanced, gated_allowed _ allowed]
  simp only [stateOfCode_known, known, takeFrame_keeps, first]
  rfl

theorem exec_writeBalanced_order (first : firstFailure (balancedChecks s.store.config i g amplitude frequency angle) = none)
    (unknown : 1 < order) :
    exec (.writeBalanced p i expected group amplitude frequency angle order) s
      = .next (s.answered p .range (.param .order)) := by
  rewrite [exec, execWriteBalanced, gated_allowed _ allowed]
  simp only [stateOfCode_known, known, takeFrame_keeps, first, Notify.boolOfCode_unknown order unknown]
  rfl

theorem exec_writeBalanced_writes
    (first : firstFailure (balancedChecks s.store.config i g amplitude frequency angle) = none) (acb : Bool) :
    exec (.writeBalanced p i expected group amplitude frequency angle (if acb then 1 else 0)) s
      = .next ((s.takeFrame p).finishWrite p i expected
          (((s.store.slots[i]'i.isLt).balancedBase p).withBalanced g amplitude frequency angle acb)) := by
  have code : boolOfCode (if acb then 1 else 0) = some acb := by cases acb <;> rfl
  rewrite [exec, execWriteBalanced, gated_allowed _ allowed]
  simp only [stateOfCode_known, known, takeFrame_keeps, first, code]

end Exec

theorem writeBalancedRefusesByRange : WriteBalancedRefusesByRange := by
  intro p index expected group amplitude frequency order angle s allowed c rfl
  refine ⟨fun unknown => ?_, fun lt unknown => ?_, fun g lt known => ?_⟩
  · rewrite [exec, execWriteBalanced, gated_allowed _ allowed, stateOfCode_unknown unknown]
    rfl
  · obtain ⟨i, rfl⟩ : ∃ i : Fin 32, index = i := ⟨⟨index, lt⟩, rfl⟩
    rewrite [exec, execWriteBalanced, gated_allowed _ allowed, stateOfCode_known, groupOfCode_unknown unknown]
    rfl
  · obtain ⟨i, rfl⟩ : ∃ i : Fin 32, index = i := ⟨⟨index, lt⟩, rfl⟩
    refine ⟨fun ch mem beyond before =>
      exec_writeBalanced_refused allowed i known (balancedChecks_amplitude i mem beyond before), ?_⟩
    rintro within posA rfl
    rewrite [← phaseA_position]
    refine ⟨fun out => exec_writeBalanced_refused allowed i known ?_, fun low high out =>
      exec_writeBalanced_refused allowed i known ?_, fun low high lowA highA unknown =>
      exec_writeBalanced_order allowed i known ?_ unknown⟩
    · rewrite [balancedChecks_within i within]
      exact firstFailure_fails_here _ (frequencyInRange_false.2 out)
    · rewrite [balancedChecks_within i within, firstFailure_passes _ (decide_eq_true ⟨low, high⟩)]
      exact firstFailure_fails_here _ (angleInRange_false.2 out)
    · rewrite [balancedChecks_within i within, firstFailure_passes _ (decide_eq_true ⟨low, high⟩),
        firstFailure_passes _ (decide_eq_true ⟨lowA, highA⟩)]
      rfl

/-! ### What WRITE_BALANCED writes (R13, R14) -/

theorem wrapAngle_of_inRange {angle : Int} (low : -18000 ≤ angle) (high : angle ≤ 17999) : wrapAngle angle = angle := by
  unfold wrapAngle
  omega

theorem balancedRecord_withBalanced (r : StateRecord) (g : PhaseGroup) (amplitude frequency : Nat) {angle : Int}
    (acb : Bool) (low : -18000 ≤ angle) (high : angle ≤ 17999) :
    BalancedRecord r (r.withBalanced g amplitude frequency angle acb) g amplitude frequency angle acb := by
  have wrap := wrapAngle_of_inRange low high
  cases g with
  | v =>
    refine ⟨rfl, fun c other => ?_, fun c mem => ?_, fun a b c channels => ?_⟩
    · cases c with
      | va | vb | vc => exact absurd rfl other
      | vx | ia | ib | ic => rfl
    · cases c <;> cases mem <;> rfl
    · cases channels
      exact ⟨wrap, rfl, rfl⟩
  | i =>
    refine ⟨rfl, fun c other => ?_, fun c mem => ?_, fun a b c channels => ?_⟩
    · cases c with
      | ia | ib | ic => exact absurd rfl other
      | va | vb | vc | vx => rfl
    · cases c <;> cases mem <;> rfl
    · cases channels
      exact ⟨wrap, rfl, rfl⟩

theorem balancedBase_staged {sl : Slot} {p : Port} {r : StateRecord} (h : sl.staged = some (p, r)) :
    sl.balancedBase p = r := by
  simp [Slot.balancedBase, Slot.ownStaged, h]

theorem balancedBase_active {sl : Slot} {p : Port} (h : sl.ownStaged p = none) :
    sl.balancedBase p = sl.active.getD StateRecord.default := by
  simp [Slot.balancedBase, h]

theorem ownStaged_eq_some {sl : Slot} {p : Port} {r : StateRecord} (h : sl.ownStaged p = some r) :
    sl.staged = some (p, r) := by
  unfold Slot.ownStaged at h
  split at h
  next q r' staged =>
    split at h
    next same =>
      cases h
      rw [staged, same]
    next => cases h
  next => cases h

theorem writeBalancedWritesItsGroup : WriteBalancedWritesItsGroup := by
  intro p i expected amplitude frequency angle g acb s base allowed within low high lowA highA own other
  have same : base = (s.store.slots[i]'i.isLt).balancedBase p := by
    cases staged : (s.store.slots[i]'i.isLt).ownStaged p with
    | none => rw [other staged, balancedBase_active staged]
    | some r =>
      have copy := ownStaged_eq_some staged
      rw [own r copy, balancedBase_staged copy]
  have first : firstFailure (balancedChecks s.store.config i g amplitude frequency angle) = none := by
    rewrite [balancedChecks_within i within, firstFailure_passes _ (decide_eq_true ⟨low, high⟩),
      firstFailure_passes _ (decide_eq_true ⟨lowA, highA⟩)]
    rfl
  have run := exec_writeBalanced_writes (expected := expected) allowed i (groupOfCode_known g) first acb
  rewrite [← same] at run
  exact ⟨_, balancedRecord_withBalanced base g amplitude frequency acb lowA highA, writeRefused run, writeTakesEffect run⟩

set_option Elab.async false in
/-- Settles O22. -/
theorem writeBalancedWritesOneGroup : Obligations.WriteBalancedWritesOneGroup :=
  ⟨writeBalancedRefusesByRange, writeBalancedWritesItsGroup⟩

end Sys2Proof.Proofs.Editing
end

section
/-! PROOF. HOLD, RELEASE and SET_AUTHORITY (O23). -/

namespace Sys2Proof.Proofs.EditControl

open Sys2Proof Sys2Proof.Machine Sys2Proof.Proofs.Answering Sys2Proof.Proofs.Writing Sys2Proof.Proofs.Invariants

/-! ### Apply points (R1, R161) -/

/-- What an apply point changes: the slots and the ports. -/
theorem applyPoint_frame (s : State) : ∃ st po, s.applyPoint = { s with store := st, ports := po } := by
  unfold State.applyPoint
  split
  · exact ⟨_, _, rfl⟩
  · exact ⟨s.store, s.ports, rfl⟩

theorem applyPoint_requests (s : State) (free : s.noHold = true) (q : Port) :
    (s.applyPoint.ports.get q).requests
      = if s.store.anyStaged then (s.ports.get q).requests ||| NotifyCause.editsApplied.bit
        else (s.ports.get q).requests := by
  unfold State.applyPoint
  rewrite [free, Bool.true_and]
  split
  · rewrite [raiseBoth_ports, PerPort.get_map]
    rfl
  · rfl

theorem pendingCopiesApplied_applyPoint (s : State) (free : s.noHold = true) : PendingCopiesApplied s s.applyPoint := by
  refine fun i => ⟨fun unstaged => ?_, fun q r staged => ?_⟩
  · rw [applyPoint_slot s free, Slot.applyStaged_of_none _ unstaged]
  · rw [applyPoint_slot s free, Slot.applyStaged_of_some _ _ _ staged]

theorem noHold_iff (s : State) (p : Port) :
    s.noHold = true ↔ s.edit.hold.get p = false ∧ s.edit.hold.get p.other = false := by
  cases p <;> simp [State.noHold, PerPort.get, Port.other, and_comm]

theorem respond_response (s : State) (p : Port) (st : Status) (d : RespData) :
    ((s.respond p st d).ports.get p).response = { status := st, data := d } := by
  cases p <;> rfl

theorem respond_requests (s : State) (p q : Port) (st : Status) (d : RespData) :
    ((s.respond p st d).ports.get q).requests = (s.ports.get q).requests := by
  cases p <;> cases q <;> rfl

/-! ### HOLD and RELEASE (R160) -/

theorem exec_release {s : State} {p : Port} (allowed : s.excluded p = false) :
    exec (.release p) s
      = .next ((if s.edit.hold.get p then ((s.takeFrame p).setHold p false).applyInIdle else s.takeFrame p).respond p
          .ok .none) := by
  rewrite [exec, execRelease, gated_allowed _ allowed]
  rfl

theorem applyInIdle_active {s : State} (h : s.seq.phase ≠ .idle) : s.applyInIdle = s :=
  if_pos ((shotActive_iff s).2 h)

theorem applyInIdle_idle {s : State} (h : s.seq.phase = .idle) : s.applyInIdle = s.applyPoint := by
  unfold State.applyInIdle
  rewrite [shotActive_of_idle h]
  rfl

theorem noHold_setHold (s : State) (p : Port) : (s.setHold p false).noHold = true ↔ s.edit.hold.get p.other = false := by
  simp [noHold_iff _ p, State.setHold]

theorem holdAndRelease : HoldAndRelease := by
  intro p s allowed
  refine ⟨?_, fun clear => ?_, fun held apart => ?_, fun held idle free => ?_⟩
  · rewrite [exec, execHold, gated_allowed _ allowed]
    rfl
  · rewrite [exec_release allowed, clear]
    rfl
  · have kept : ((s.takeFrame p).setHold p false).applyInIdle = (s.takeFrame p).setHold p false := by
      by_cases idle : s.seq.phase = .idle
      · have other := apart.resolve_left (not_not_intro idle)
        rewrite [applyInIdle_idle (s := (s.takeFrame p).setHold p false) idle]
        refine applyPoint_held _ (Bool.eq_false_iff.2 fun free => ?_)
        have clear : s.edit.hold.get p.other = false := (noHold_setHold (s.takeFrame p) p).1 free
        rewrite [clear] at other
        cases other
      · exact applyInIdle_active (s := (s.takeFrame p).setHold p false) idle
    rewrite [exec_release allowed, if_pos held, kept]
    rfl
  · have clear : ((s.takeFrame p).setHold p false).noHold = true := (noHold_setHold (s.takeFrame p) p).2 free
    have apply := applyInIdle_idle (s := (s.takeFrame p).setHold p false) idle
    rewrite [exec_release allowed, if_pos held, apply]
    have copies := pendingCopiesApplied_applyPoint _ clear
    have requests := applyPoint_requests _ clear
    have config := applyPoint_config ((s.takeFrame p).setHold p false)
    obtain ⟨st, po, frame⟩ := applyPoint_frame ((s.takeFrame p).setHold p false)
    rewrite [frame] at copies requests config ⊢
    refine ⟨_, rfl, rfl, copies, config, respond_response _ _ _ _, fun q => ?_⟩
    rewrite [respond_requests]
    exact requests q

/-! ### SET_AUTHORITY (R157) -/

theorem authority_unknown {v : Nat} (h : 2 < v) : Authority.ofCode v = none := by
  match v with
  | v + 3 => rfl

theorem maySet_of {s : State} {p : Port} {a : Authority}
    (h : p = .panel ∨ (a ≠ .local_ ∧ s.edit.authority ≠ .local_)) : s.maySet p a = true := by
  cases p with
  | panel => rfl
  | sequence =>
    have apart := h.resolve_left nofun
    simp [State.maySet, apart]

theorem not_maySet_sequence {s : State} {a : Authority} (h : a = .local_ ∨ s.edit.authority = .local_) :
    s.maySet .sequence a = false := by
  rcases h with rfl | localNow
  · rfl
  · simp [State.maySet, localNow]

section SetAuthority

variable {s : State} {p : Port} {v : Nat} {a : Authority} (known : Authority.ofCode v = some a)
include known

theorem exec_setAuthority_forbidden (may : s.maySet p a = false) :
    exec (.setAuthority p v) s = .next (s.answered p .authority (.authority s.edit.authority)) := by
  have may' : (s.takeFrame p).maySet p a = false := may
  rewrite [exec, execSetAuthority, open_eq]
  simp only [known, may', Bool.not_false, ↓reduceIte]
  rfl

theorem exec_setAuthority_busy (may : s.maySet p a = true) (active : s.seq.phase ≠ .idle) :
    exec (.setAuthority p v) s = .next (s.answered p .busy .none) := by
  have may' : (s.takeFrame p).maySet p a = true := may
  rewrite [exec, execSetAuthority, open_eq]
  simp only [known, may', Bool.not_true, Bool.false_eq_true, ↓reduceIte, shotActive_takeFrame,
    (shotActive_iff s).2 active]
  rfl

theorem exec_setAuthority_idle (may : s.maySet p a = true) (idle : s.seq.phase = .idle) :
    exec (.setAuthority p v) s
      = .next ((if a = s.edit.authority then s.takeFrame p else (s.takeFrame p).changeAuthority a).respond p .ok
          (.authority a)) := by
  have may' : (s.takeFrame p).maySet p a = true := may
  rewrite [exec, execSetAuthority, open_eq]
  simp only [known, may', Bool.not_true, Bool.false_eq_true, ↓reduceIte, shotActive_takeFrame,
    shotActive_of_idle idle]
  rfl

end SetAuthority

/-- The authority takes a value and the change is notified. -/
def authoritySet (s : State) (a : Authority) : State :=
  State.raiseBoth { s with edit := { s.edit with authority := a } } .authorityChanged

theorem changeAuthority_shared (s : State) {a : Authority} (h : a.excludes = none) :
    s.changeAuthority a = authoritySet s a := by
  simp only [State.changeAuthority, h]
  rfl

theorem changeAuthority_excludes (s : State) {a : Authority} {q : Port} (h : a.excludes = some q) :
    s.changeAuthority a = ((authoritySet s a).exclude q).applyPoint := by
  simp only [State.changeAuthority, h]
  rfl

theorem exclude_edit (s : State) (q : Port) : (s.exclude q).edit = { s.edit with hold := s.edit.hold.set q false } := rfl

theorem exclude_config (s : State) (q : Port) : (s.exclude q).store.config = s.store.config := by
  simp only [State.exclude, State.setHold]

theorem exclude_frame (s : State) (q : Port) :
    ∃ st, s.exclude q = { s with store := st, edit := { s.edit with hold := s.edit.hold.set q false } } := ⟨_, rfl⟩

theorem exclude_noHold (s : State) (q : Port) : (s.exclude q).noHold = true ↔ s.edit.hold.get q.other = false := by
  rewrite [noHold_iff _ q, exclude_edit]
  simp

theorem exclude_slot (s : State) (q : Port) (i : Fin 32) :
    (s.exclude q).store.slots[i]'i.isLt = Slot.discardOf q (s.store.slots[i]'i.isLt) :=
  mapSlots_fin (Slot.discardOf q) s.store.slots i

/-- What SET_AUTHORITY changes: the slots, the edit control and the ports. -/
theorem changeAuthority_frame (s : State) (a : Authority) :
    ∃ st ed po, s.changeAuthority a = { s with store := st, edit := ed, ports := po } := by
  cases excluded : a.excludes with
  | none =>
    rewrite [changeAuthority_shared s excluded]
    exact ⟨s.store, { s.edit with authority := a }, _, rfl⟩
  | some q =>
    obtain ⟨st, po, frame⟩ := applyPoint_frame ((authoritySet s a).exclude q)
    rewrite [changeAuthority_excludes s excluded, frame]
    obtain ⟨_, exclusion⟩ := exclude_frame (authoritySet s a) q
    rewrite [exclusion]
    exact ⟨st, { authority := a, hold := s.edit.hold.set q false }, po, rfl⟩

theorem authoritySet_requests (s : State) (a : Authority) (q : Port) :
    ((authoritySet s a).ports.get q).requests &&& NotifyCause.authorityChanged.bit = NotifyCause.authorityChanged.bit := by
  rewrite [authoritySet, raiseBoth_ports, PerPort.get_map]
  exact Notify.raise_requests_and_bit _ _

theorem or_and_of_and {n : Nat} {x y b : BitVec n} (h : x &&& b = b) : (x ||| y) &&& b = b := by
  rewrite [BitVec.eq_of_getLsbD_eq_iff] at h ⊢
  intro i lt
  have := h i lt
  simp only [BitVec.getLsbD_and, BitVec.getLsbD_or, Bool.and_eq_right_iff_imp, Bool.or_eq_true] at this ⊢
  exact fun bit => .inl (this bit)

theorem applyPoint_notified (s : State) (q : Port) {b : CauseSet} (h : (s.ports.get q).requests &&& b = b) :
    (s.applyPoint.ports.get q).requests &&& b = b := by
  cases free : s.noHold with
  | false =>
    rewrite [applyPoint_held s free]
    exact h
  | true =>
    rewrite [applyPoint_requests s free]
    split
    · exact or_and_of_and h
    · exact h

theorem changeAuthority_requests (s : State) (a : Authority) (q : Port) :
    ((s.changeAuthority a).ports.get q).requests &&& NotifyCause.authorityChanged.bit
      = NotifyCause.authorityChanged.bit := by
  cases excluded : a.excludes with
  | none =>
    rewrite [changeAuthority_shared s excluded]
    exact authoritySet_requests s a q
  | some e =>
    rewrite [changeAuthority_excludes s excluded]
    exact applyPoint_notified _ q (authoritySet_requests s a q)

theorem changeAuthority_edit (s : State) (a : Authority) :
    (s.changeAuthority a).edit.authority = a ∧ (a.excludes = none → (s.changeAuthority a).edit.hold = s.edit.hold)
      ∧ ∀ q, a.excludes = some q → (s.changeAuthority a).edit.hold = s.edit.hold.set q false := by
  cases excluded : a.excludes with
  | none =>
    rewrite [changeAuthority_shared s excluded]
    exact ⟨rfl, fun _ => rfl, nofun⟩
  | some e =>
    rewrite [changeAuthority_excludes s excluded]
    have edit : ((authoritySet s a).exclude e).applyPoint.edit = { authority := a, hold := s.edit.hold.set e false } := by
      rewrite [(applyPoint_keeps _).2.1, exclude_edit]
      rfl
    rewrite [edit]
    refine ⟨rfl, nofun, fun q same => ?_⟩
    cases same
    rfl

theorem changeAuthority_config (s : State) (a : Authority) : (s.changeAuthority a).store.config = s.store.config := by
  cases excluded : a.excludes with
  | none => rw [changeAuthority_shared s excluded]; rfl
  | some e => rw [changeAuthority_excludes s excluded, applyPoint_config, exclude_config]; rfl

/-- A slot after a port is excluded: its pending copy goes, and where no port then holds the other port's is
applied. -/
theorem changeAuthority_slot (s : State) {a : Authority} {q : Port} (h : a.excludes = some q) (i : Fin 32) :
    (s.changeAuthority a).store.slots[i]'i.isLt
      = if s.edit.hold.get q.other then Slot.discardOf q (s.store.slots[i]'i.isLt)
        else (Slot.discardOf q (s.store.slots[i]'i.isLt)).applyStaged := by
  have holds := exclude_noHold (authoritySet s a) q
  rewrite [changeAuthority_excludes s h]
  cases other : s.edit.hold.get q.other with
  | false =>
    rewrite [applyPoint_slot _ (holds.2 other), exclude_slot]
    rfl
  | true =>
    have held : ((authoritySet s a).exclude q).noHold = false := Bool.eq_false_iff.2 fun free => by
      have clear : s.edit.hold.get q.other = false := holds.1 free
      rewrite [clear] at other
      cases other
    rewrite [applyPoint_held _ held, exclude_slot]
    rfl

theorem discardOf_own {q : Port} {sl : Slot} {r : StateRecord} (h : sl.staged = some (q, r)) :
    Slot.discardOf q sl = { sl with staged := none } := by simp [Slot.discardOf, h]

theorem discardOf_other {q : Port} {sl : Slot} {r : StateRecord} (h : sl.staged = some (q.other, r)) :
    Slot.discardOf q sl = sl := by simp [Slot.discardOf, h]

theorem discardOf_unstaged {q : Port} {sl : Slot} (h : sl.staged = none) : Slot.discardOf q sl = sl := by
  simp [Slot.discardOf, h]

theorem setAuthority : SetAuthority := by
  intro p s
  refine ⟨fun v unknown => ?_, fun v le sequence forbidden => ?_, fun v a known may =>
    ⟨exec_setAuthority_busy known (maySet_of may), fun idle same => ?_, fun idle differs => ?_⟩⟩
  · rewrite [exec, execSetAuthority, open_eq, authority_unknown unknown]
    rfl
  · subst sequence
    obtain ⟨a, known, local_⟩ : ∃ a, Authority.ofCode v = some a ∧ (v = 1 → a = .local_) := by
      match v with
      | 0 => exact ⟨.shared, rfl, nofun⟩
      | 1 => exact ⟨.local_, rfl, fun _ => rfl⟩
      | 2 => exact ⟨.remote, rfl, nofun⟩
    exact exec_setAuthority_forbidden known (not_maySet_sequence (forbidden.imp_left local_))
  · rewrite [exec_setAuthority_idle known (maySet_of may) idle, if_pos same]
    rfl
  · obtain ⟨authority, shared, excluded⟩ := changeAuthority_edit (s.takeFrame p) a
    have requests := changeAuthority_requests (s.takeFrame p) a
    have config := changeAuthority_config (s.takeFrame p) a
    have slot := fun q (h : a.excludes = some q) i => changeAuthority_slot (s.takeFrame p) h i
    have kept : a.excludes = none → ((s.takeFrame p).changeAuthority a).store = s.store := fun h => by
      rewrite [changeAuthority_shared _ h]
      rfl
    rewrite [exec_setAuthority_idle known (maySet_of may) idle, if_neg differs]
    obtain ⟨st, ed, po, frame⟩ := changeAuthority_frame (s.takeFrame p) a
    rewrite [frame] at authority shared excluded requests config kept ⊢
    simp only [frame, takeFrame_keeps] at slot
    refine ⟨_, rfl, rfl, authority, config, respond_response _ _ _ _, fun q => ?_, fun h => ⟨shared h, kept h⟩, fun q h =>
      ⟨excluded q h, fun i => ⟨fun r own => ?_, fun unstaged => ?_, fun r other => ?_⟩⟩⟩
    · rewrite [respond_requests]
      exact requests q
    · refine (slot q h i).trans ?_
      rw [discardOf_own own, Slot.applyStaged_of_none _ rfl, ite_self]
    · refine (slot q h i).trans ?_
      rw [discardOf_unstaged unstaged, Slot.applyStaged_of_none _ unstaged, ite_self]
    · refine (slot q h i).trans ?_
      rw [discardOf_other other, Slot.applyStaged_of_some _ _ _ other]

set_option Elab.async false in
/-- Settles O23. -/
theorem editControlFollowsItsCommands : Obligations.EditControlFollowsItsCommands := ⟨holdAndRelease, setAuthority⟩

end Sys2Proof.Proofs.EditControl
end

section
/-! PROOF. The configuration commands (O24, O25, O26 and O27). -/

namespace Sys2Proof.Proofs.Configuring

open Sys2Proof Sys2Proof.Machine Sys2Proof.Proofs.Answering Sys2Proof.Proofs.Writing Sys2Proof.Proofs.Checking
  Sys2Proof.Proofs.Invariants

theorem shotActive_taken {s : State} (p : Port) (idle : s.seq.phase = .idle) : (s.takeFrame p).shotActive = false :=
  shotActive_of_idle idle

/-! ### CONFIG_CHANNEL (R17, R18) -/

theorem rangeAllowed_iff {c : Channel} {range : Nat} : rangeAllowed c range = true ↔ RangeOfKind c range := by
  unfold rangeAllowed RangeOfKind
  split <;> exact decide_eq_true_iff

theorem poleLink_unknown {link : Nat} (h : 3 < link) : poleLinkOfCode link = none := by
  match link with
  | link + 4 => rfl

theorem poleLink_some {link : Nat} (le : link ≤ 3) (ne : link ≠ 3) : ∃ q, poleLinkOfCode link = some (some q) := by
  have cases : link = 0 ∨ link = 1 ∨ link = 2 := by omega
  rcases cases with rfl | rfl | rfl
  · exact ⟨.a, rfl⟩
  · exact ⟨.b, rfl⟩
  · exact ⟨.c, rfl⟩

section Exceeding

variable {slots : Vector Slot 32} {c : Channel} {range : Nat}

theorem firstExceeding_none {l : List (Fin 32)} (h : ∀ i ∈ l, (slots[i]'i.isLt).exceeds c range = (false, false)) :
    firstExceeding slots c range l = none := by
  induction l with
  | nil => rfl
  | cons i rest ih =>
    rewrite [firstExceeding, h i List.mem_cons_self]
    exact ih fun j mem => h j (List.mem_cons_of_mem i mem)

/-- The first state of an ordered list that exceeds the range is named. -/
theorem firstExceeding_first {l : List (Fin 32)} (ordered : l.Pairwise (· < ·)) {i : Fin 32} (mem : i ∈ l)
    (before : ∀ j ∈ l, j < i → (slots[j]'j.isLt).exceeds c range = (false, false))
    (exceeds : (slots[i]'i.isLt).exceeds c range ≠ (false, false)) :
    firstExceeding slots c range l
      = some (.conflictState i ((slots[i]'i.isLt).exceeds c range).1 ((slots[i]'i.isLt).exceeds c range).2) := by
  induction l with
  | nil => cases mem
  | cons k rest ih =>
    rewrite [List.pairwise_cons] at ordered
    rewrite [firstExceeding]
    rcases List.mem_cons.1 mem with rfl | later
    · split
      next none => exact absurd none exceeds
      next a b pair => rw [pair]
    · rewrite [before k List.mem_cons_self (ordered.1 i later)]
      exact ih ordered.2 later fun j mem => before j (List.mem_cons_of_mem k mem)

end Exceeding

section Channel

variable {s : State} {p : Port} {range trim link : Nat} {c : Channel} {l : Option Pole}

/-- What a lowered range conflicts with (R18). -/
def lowered (s : State) (c : Channel) (range : Nat) : Option RespData :=
  if range < (s.store.config.get c).range then firstExceeding s.store.slots c range (List.finRange 32) else none

variable {channel : Nat} (allowed : s.excluded p = false) (idle : s.seq.phase = .idle)
  (known : Channel.ofCode channel = some c) (ofKind : RangeOfKind c range) (named : poleLinkOfCode link = some l)
  (may : c.isVoltage = true → l = none)
include allowed idle known ofKind named may

omit allowed idle known ofKind named in
theorem linkAllowed : (c.isVoltage && l.isSome) = false := by
  cases voltage : c.isVoltage with
  | false => rfl
  | true => rw [may voltage]; rfl

theorem exec_configChannel_conflict {d : RespData} (conflict : lowered s c range = some d) :
    exec (.configChannel p channel range trim link) s = .next (s.answered p .conflict d) := by
  have linked := linkAllowed may
  rewrite [exec, execConfigChannel, gated_allowed _ allowed, shotActive_taken p idle]
  simp only [known, rangeAllowed_iff.2 ofKind, named, linked, takeFrame_keeps, ← lowered.eq_def,
    Bool.false_eq_true, Bool.not_true, ↓reduceIte, conflict]
  rfl

theorem exec_configChannel_stores (fits : lowered s c range = none) :
    exec (.configChannel p channel range trim link) s
      = .next (State.answered
          { s with store := { s.store with
              config := s.store.config.set c { range := range, trim := clampTrim trim, link := l } } }
          p .ok (.channelConfig { range := range, trim := clampTrim trim, link := l })) := by
  have linked := linkAllowed may
  rewrite [exec, execConfigChannel, gated_allowed _ allowed, shotActive_taken p idle]
  simp only [known, rangeAllowed_iff.2 ofKind, named, linked, takeFrame_keeps, ← lowered.eq_def,
    Bool.false_eq_true, Bool.not_true, ↓reduceIte, fits]
  rfl

end Channel

/-- Settles O24. -/
theorem configChannelReplacesOneChannel : Obligations.ConfigChannelReplacesOneChannel := by
  intro p channel range trim link s allowed idle
  refine ⟨fun unknown => ?_, fun c known => ⟨fun other => ?_, fun ofKind badLink => ?_, fun l ofKind named may =>
    ⟨fun i lower before exceeds => ?_, fun fits cfg is => ?_⟩⟩⟩
  · have none : Channel.ofCode channel = none := by
      simpa using channel_unknown.2 unknown
    rewrite [exec, execConfigChannel, gated_allowed _ allowed, shotActive_taken p idle, none]
    rfl
  · have refused : rangeAllowed c range = false := Bool.eq_false_iff.2 fun ok => other (rangeAllowed_iff.1 ok)
    rewrite [exec, execConfigChannel, gated_allowed _ allowed, shotActive_taken p idle, known]
    simp only [refused, Bool.false_eq_true, Bool.not_false, ↓reduceIte]
    rfl
  · rewrite [exec, execConfigChannel, gated_allowed _ allowed, shotActive_taken p idle, known]
    simp only [rangeAllowed_iff.2 ofKind, Bool.false_eq_true, Bool.not_true, ↓reduceIte]
    by_cases unknown : 3 < link
    · rewrite [poleLink_unknown unknown]
      rfl
    · obtain ⟨voltage, linked⟩ := badLink.resolve_left unknown
      obtain ⟨q, named⟩ := poleLink_some (by omega) linked
      simp only [named, voltage, Option.isSome_some, Bool.and_self, ↓reduceIte]
      rfl
  · have conflict : lowered s c range
        = some (.conflictState i ((s.store.slots[i]'i.isLt).exceeds c range).1 ((s.store.slots[i]'i.isLt).exceeds c range).2) := by
      rewrite [lowered, if_pos lower]
      exact firstExceeding_first (List.pairwise_lt_finRange 32) (List.mem_finRange i) (fun j _ => before j) exceeds
    exact exec_configChannel_conflict allowed idle known ofKind named may conflict
  · have none : lowered s c range = none := by
      unfold lowered
      split
      next lower => exact firstExceeding_none fun i _ => fits lower i
      · rfl
    rewrite [is]
    exact exec_configChannel_stores allowed idle known ofKind named may none

/-! ### CONFIG_TELEPROTECTION (R151) -/

theorem changeSource_eq (s : State) (src : TpSource) {level : Bool}
    (is : level = (decide (src = .localLoop) && s.roleActive .carrierSend)) :
    s.changeSource src = { s with
      actions := { s.actions with entries := s.actions.entries.filter fun a => decide (a.work.group ≠ .tpEdge) }
      tp := { s.tp with source := src, lastReceived := level, applied := level, resync := false } } := by
  rewrite [is]
  cases src <;> rfl

/-- Settles O27. -/
theorem configTeleprotectionReplacesTheSource : Obligations.ConfigTeleprotectionReplacesTheSource := by
  intro p source delay s allowed idle
  refine ⟨fun unknown => ?_, fun src known => ⟨fun same => ?_, fun differs level is => ?_⟩⟩
  · have none : TpSource.ofCode source = none := by
      match source with
      | source + 2 => rfl
    rewrite [exec, execConfigTeleprotection, gated_allowed _ allowed, shotActive_taken p idle, none]
    rfl
  · rewrite [exec, execConfigTeleprotection, gated_allowed _ allowed, shotActive_taken p idle, known]
    simp only [takeFrame_keeps, same, Bool.false_eq_true, ↓reduceIte]
    rfl
  · rewrite [exec, execConfigTeleprotection, gated_allowed _ allowed, shotActive_taken p idle, known]
    simp only [takeFrame_keeps, differs, Bool.false_eq_true, ↓reduceIte]
    rewrite [changeSource_eq (s.takeFrame p) src is]
    rfl

/-! ### CONFIG_OUTPUT (R81) -/

theorem allIn_iff {b : Breaker} {x : Position} : b.allIn x = true ↔ ∀ q : Pole, (b.poles.get q).position = x := by
  unfold Breaker.allIn
  rewrite [decide_eq_true_iff]
  exact ⟨fun ⟨a, b, c⟩ q => by cases q <;> assumption, fun every => ⟨every .a, every .b, every .c⟩⟩

theorem roleLevel_iff {s : State} {o : Output} {r : OutputRole} :
    s.roleLevel o r = true ↔
      (r = .aux52A ∧ ∀ q : Pole, (s.breaker.poles.get q).position = .closed)
      ∨ (r = .aux52B ∧ ∀ q : Pole, (s.breaker.poles.get q).position = .opened)
      ∨ (r = .manual ∧ o.role = .manual ∧ o.level = true) := by
  cases r with
  | aux52A => simp [State.roleLevel, allIn_iff]
  | aux52B => simp [State.roleLevel, allIn_iff]
  | manual => simp [State.roleLevel]
  | none | tpReceive | stateDriven => simp [State.roleLevel]

theorem outputRole_unknown {role : Nat} (h : 5 < role) : OutputRole.ofCode role = none := by
  match role with
  | role + 6 => rfl

set_option Elab.async false in
theorem configOutputSetsRoleAndLevel : ConfigOutputSetsRoleAndLevel := by
  intro p output role s allowed idle
  refine ⟨fun unknown => ?_, fun low high unknown => ?_, fun n r named known level is => ?_⟩
  · have none : outputOfCode output = none := by simpa using output_unknown.2 unknown
    rewrite [exec, execConfigOutput, gated_allowed _ allowed, shotActive_taken p idle, none]
    rfl
  · have named : outputOfCode output = some ⟨output - 1, by omega⟩ := dif_pos ⟨low, high⟩
    rewrite [exec, execConfigOutput, gated_allowed _ allowed, shotActive_taken p idle, named, outputRole_unknown unknown]
    rfl
  · have levels : s.roleLevel (s.outputs[n]'n.isLt) r = level := Bool.eq_iff_iff.2 (roleLevel_iff.trans is.symm)
    rewrite [exec, execConfigOutput, gated_allowed _ allowed, shotActive_taken p idle, named, known, ← levels]
    rfl

end Sys2Proof.Proofs.Configuring
end

section
/-! PROOF. SET_OUTPUT (O28). -/

namespace Sys2Proof.Proofs.Outputs

open Sys2Proof Sys2Proof.Machine Sys2Proof.Proofs.Answering Sys2Proof.Proofs.Writing Sys2Proof.Proofs.Configuring
  Sys2Proof.Proofs.Poles

/-! ### SET_OUTPUT (R82, R86) -/

theorem firstNotManual_none {outputs : Vector Output 4} {m : Nat} {l : List (Fin 4)}
    (h : ∀ n ∈ l, m.testBit n.val = true → (outputs[n]'n.isLt).role = .manual) : firstNotManual outputs m l = none := by
  induction l with
  | nil => rfl
  | cons n rest ih =>
    have passes : (named m n && decide ((outputs[n]'n.isLt).role ≠ .manual)) = false := by
      cases bit : named m n with
      | false => rfl
      | true => simpa using h n List.mem_cons_self bit
    rewrite [firstNotManual, if_neg (Bool.eq_false_iff.1 passes)]
    exact ih fun k mem => h k (List.mem_cons_of_mem n mem)

/-- The first output named whose role is not MANUAL. -/
theorem firstNotManual_first {outputs : Vector Output 4} {m : Nat} {l : List (Fin 4)} (ordered : l.Pairwise (· < ·))
    {n : Fin 4} (mem : n ∈ l) (bit : m.testBit n.val = true) (other : (outputs[n]'n.isLt).role ≠ .manual)
    (before : ∀ k ∈ l, k < n → m.testBit k.val = true → (outputs[k]'k.isLt).role = .manual) :
    firstNotManual outputs m l = some n := by
  induction l with
  | nil => cases mem
  | cons k rest ih =>
    rewrite [List.pairwise_cons] at ordered
    rewrite [firstNotManual]
    rcases List.mem_cons.1 mem with rfl | later
    · exact if_pos (by rw [named, bit, Bool.true_and]; exact decide_eq_true other)
    · have passes : (named m k && decide ((outputs[k]'k.isLt).role ≠ .manual)) = false := by
        cases bit : named m k with
        | false => rfl
        | true => simpa using before k List.mem_cons_self (ordered.1 n later) bit
      rewrite [if_neg (Bool.eq_false_iff.1 passes)]
      exact ih ordered.2 later fun j mem => before j (List.mem_cons_of_mem k mem)

/-- One output named by the masks, or not, takes its level. -/
def maskOne (setMask clearMask : Nat) (src : OutputSource) (s : State) (n : Fin 4) : State :=
  if named setMask n then s.setOutput n true src
  else if named clearMask n then s.setOutput n false src
  else s

section Masks

variable {setMask clearMask : Nat} {src : OutputSource}

theorem maskedLevel_congr {s t : State} {n : Fin 4} (h : t.outputs[n]'n.isLt = s.outputs[n]'n.isLt) :
    MaskedLevel setMask clearMask t n = MaskedLevel setMask clearMask s n := by
  unfold MaskedLevel
  rw [h]

theorem setOutput_same (s : State) (n : Fin 4) : s.setOutput n (s.outputs[n]'n.isLt).level src = s := if_pos rfl

/-- An output takes the level that the masks give it. -/
theorem maskOne_eq (s : State) (n : Fin 4) :
    maskOne setMask clearMask src s n = s.setOutput n (MaskedLevel setMask clearMask s n) src := by
  by_cases set : named setMask n = true
  · have level : MaskedLevel setMask clearMask s n = true := if_pos set
    rw [maskOne, if_pos set, level]
  · by_cases clear : named clearMask n = true
    · have level : MaskedLevel setMask clearMask s n = false := (if_neg set).trans (if_pos clear)
      rw [maskOne, if_neg set, if_pos clear, level]
    · have level : MaskedLevel setMask clearMask s n = (s.outputs[n]'n.isLt).level := (if_neg set).trans (if_neg clear)
      rw [maskOne, if_neg set, if_neg clear, level, setOutput_same]

theorem setOutput_frame (s : State) (n : Fin 4) (level : Bool) :
    ∃ lg dr po, s.setOutput n level src
      = { s with outputs := s.outputs.set n { s.outputs[n]'n.isLt with level := level } n.isLt, log := lg, drains := dr, ports := po } := by
  obtain ⟨k1, k2, k3, k4, k5, k6, k7, k8, k9, k10, k11, k12, k13, k14, k15⟩ := setOutput_keeps s n level src
  refine ⟨(s.setOutput n level src).log, (s.setOutput n level src).drains, (s.setOutput n level src).ports, ?_⟩
  rw [← k1, ← k2, ← k3, ← k4, ← k5, ← k6, ← k7, ← k8, ← k9, ← k10, ← k11, ← k12, ← k13, ← k14, ← k15,
    ← setOutput_outputs s n level src]

/-- What a masked output offers to the log of a shot. -/
def maskLog (setMask clearMask : Nat) (src : OutputSource) (s : State) (l : ReportLog) (n : Fin 4) : ReportLog :=
  if s.shotActive && decide (MaskedLevel setMask clearMask s n ≠ (s.outputs[n]'n.isLt).level) then
    l.offered (s.makeRecord (s.shotTime s.now) (.outputChange n (MaskedLevel setMask clearMask s n) src))
  else l

theorem maskOne_log (s : State) (n : Fin 4) :
    (maskOne setMask clearMask src s n).log = maskLog setMask clearMask src s s.log n := by
  rewrite [maskOne_eq, setOutput_log, maskLog]
  refine if_congr ?_ rfl rfl
  rw [Bool.and_eq_true, decide_eq_true_iff, and_comm, ne_comm]

theorem maskOne_other (s : State) {n k : Fin 4} (h : n ≠ k) :
    (maskOne setMask clearMask src s n).outputs[k]'k.isLt = s.outputs[k]'k.isLt := by
  rewrite [maskOne_eq, setOutput_outputs]
  exact Vector.getElem_set_ne n.isLt k.isLt fun same => h (Fin.ext same)

theorem maskOne_here (s : State) (n : Fin 4) :
    (maskOne setMask clearMask src s n).outputs[n]'n.isLt
      = { s.outputs[n]'n.isLt with level := MaskedLevel setMask clearMask s n } := by
  rewrite [maskOne_eq, setOutput_outputs]
  exact Vector.getElem_set_self n.isLt

theorem maskLog_maskOne (s : State) {n k : Fin 4} (h : n ≠ k) (l : ReportLog) :
    maskLog setMask clearMask src (maskOne setMask clearMask src s n) l k = maskLog setMask clearMask src s l k := by
  have same := maskOne_other (setMask := setMask) (clearMask := clearMask) (src := src) s h
  unfold maskLog
  rewrite [maskedLevel_congr same, same, maskOne_eq]
  obtain ⟨lg, dr, po, frame⟩ := setOutput_frame (src := src) s n (MaskedLevel setMask clearMask s n)
  rewrite [frame]
  rfl

/-- The outputs of a list take the levels that the masks give them. -/
theorem masks_fold (l : List (Fin 4)) (apart : l.Nodup) (s : State) :
    (∃ ou lg dr po, l.foldl (maskOne setMask clearMask src) s = { s with outputs := ou, log := lg, drains := dr, ports := po })
    ∧ (∀ n, (l.foldl (maskOne setMask clearMask src) s).outputs[n]'n.isLt
        = if n ∈ l then { s.outputs[n]'n.isLt with level := MaskedLevel setMask clearMask s n } else s.outputs[n]'n.isLt)
    ∧ (l.foldl (maskOne setMask clearMask src) s).log = l.foldl (maskLog setMask clearMask src s) s.log := by
  induction l generalizing s with
  | nil => exact ⟨⟨_, _, _, _, rfl⟩, fun n => (if_neg List.not_mem_nil).symm, rfl⟩
  | cons k rest ih =>
    rewrite [List.nodup_cons] at apart
    obtain ⟨⟨ou, lg, dr, po, frame⟩, outputs, log⟩ := ih apart.2 (maskOne setMask clearMask src s k)
    rewrite [List.foldl_cons, List.foldl_cons]
    refine ⟨?_, fun n => ?_, ?_⟩
    · obtain ⟨lg', dr', po', one⟩ := setOutput_frame (src := src) s k (MaskedLevel setMask clearMask s k)
      rewrite [frame, maskOne_eq, one]
      exact ⟨ou, lg, dr, po, rfl⟩
    · rewrite [outputs]
      by_cases here : n = k
      · subst here
        rw [if_neg apart.1, if_pos List.mem_cons_self, maskOne_here]
      · have same := maskOne_other (setMask := setMask) (clearMask := clearMask) (src := src) s (Ne.symm here)
        rewrite [maskedLevel_congr same, same]
        exact if_congr (by rw [List.mem_cons]; simp [here]) rfl rfl
    · rewrite [log, maskOne_log]
      refine List.foldl_ext _ _ _ fun l n mem => maskLog_maskOne s ?_ l
      rintro rfl
      exact apart.1 mem

end Masks

theorem setOutputDrivesManualOutputs : SetOutputDrivesManualOutputs := by
  intro p setMask clearMask s allowed
  refine ⟨fun bad => ?_, fun setSmall clearSmall disjoint => ⟨fun n bit other before => ?_, fun manual => ?_⟩⟩
  · rewrite [exec, execSetOutput, gated_allowed _ allowed, if_pos bad]
    rfl
  all_goals
    have good : ¬ (16 ≤ setMask ∨ 16 ≤ clearMask ∨ setMask &&& clearMask ≠ 0) := by omega
    rw [exec, execSetOutput, gated_allowed _ allowed, if_neg good]
  · have first : firstNotManual s.outputs (setMask ||| clearMask) (List.finRange 4) = some n :=
      firstNotManual_first (List.pairwise_lt_finRange 4) (List.mem_finRange n) bit other fun k _ => before k
    simp only [takeFrame_keeps, first]
    rfl
  · have none : firstNotManual s.outputs (setMask ||| clearMask) (List.finRange 4) = none :=
      firstNotManual_none fun n _ => manual n
    obtain ⟨⟨ou, lg, dr, po, frame⟩, outputs, log⟩ := masks_fold (setMask := setMask) (clearMask := clearMask)
      (src := Port.source p) (List.finRange 4) (List.nodup_finRange 4) (s.takeFrame p)
    have applied : (s.takeFrame p).applyMasks setMask clearMask (Port.source p)
        = (List.finRange 4).foldl (maskOne setMask clearMask (Port.source p)) (s.takeFrame p) := rfl
    have levels : ∀ n : Fin 4, ou[n]'n.isLt = { s.outputs[n]'n.isLt with level := MaskedLevel setMask clearMask s n } := fun n => by
      have := outputs n
      rewrite [frame, if_pos (List.mem_finRange n)] at this
      exact this
    rewrite [frame] at log
    simp only [takeFrame_keeps, none]
    rewrite [applied, frame]
    refine ⟨_, rfl, rfl, levels, ?_, log⟩
    rewrite [EditControl.respond_response]
    have level : ∀ n : Fin 4, (ou[n]'n.isLt).level = MaskedLevel setMask clearMask s n := fun n => by rw [levels]
    rewrite [← level 0, ← level 1, ← level 2, ← level 3]
    rfl

set_option Elab.async false in
/-- Settles O28. -/
theorem outputsAreConfiguredAndDriven : Obligations.OutputsAreConfiguredAndDriven :=
  ⟨configOutputSetsRoleAndLevel, setOutputDrivesManualOutputs⟩

end Sys2Proof.Proofs.Outputs
end

section
/-! PROOF. CONFIG_BREAKER (O26). -/

namespace Sys2Proof.Proofs.BreakerSetting

open Sys2Proof Sys2Proof.Machine Sys2Proof.Proofs.Answering Sys2Proof.Proofs.Writing Sys2Proof.Proofs.Configuring
  Sys2Proof.Proofs.Poles Sys2Proof.Proofs.Outputs

/-! ### The breaker disabled (R102) -/

/-- In IDLE an output taking a level changes the outputs alone. -/
theorem setOutput_idle {s : State} (idle : s.shotActive = false) (n : Fin 4) (level : Bool) (src : OutputSource) :
    ∃ ou, s.setOutput n level src = { s with outputs := ou } := by
  unfold State.setOutput
  split
  · exact ⟨s.outputs, rfl⟩
  · have idle' : State.shotActive { s with outputs := s.outputs.set n { s.outputs[n]'n.isLt with level := level } n.isLt } = false := idle
    exact ⟨_, if_neg (Bool.eq_false_iff.1 idle')⟩

theorem refreshOne_idle {s : State} (idle : s.shotActive = false) (src : OutputSource) (rule : OutputRole → Option Bool)
    (n : Fin 4) : ∃ ou, s.refreshOne src rule n = { s with outputs := ou } := by
  unfold State.refreshOne
  split
  · exact setOutput_idle idle _ _ _
  · exact ⟨s.outputs, rfl⟩

/-- In IDLE the outputs follow a rule and nothing else changes. -/
theorem refreshOutputs_idle {s : State} (idle : s.shotActive = false) (src : OutputSource)
    (rule : OutputRole → Option Bool) : ∃ ou, s.refreshOutputs src rule = { s with outputs := ou } := by
  have fold : ∀ (l : List (Fin 4)) (s : State), s.shotActive = false →
      ∃ ou, l.foldl (fun s n => s.refreshOne src rule n) s = { s with outputs := ou } := by
    intro l
    induction l with
    | nil => exact fun s _ => ⟨s.outputs, rfl⟩
    | cons n rest ih =>
      intro s idle
      obtain ⟨ou, one⟩ := refreshOne_idle idle src rule n
      rewrite [List.foldl_cons, one]
      exact ih { s with outputs := ou } idle
  exact fold (List.finRange 4) s idle

/-- With no visit and in IDLE, open signals that fall reach no consumer. -/
theorem deliverPoles_quiet {s : State} (none : s.seq.visit = none) (idle : s.seq.phase = .idle)
    (closed : ∀ q, (s.breaker.poles.get q).openSignal = false) (before : PerPole PoleState) :
    s.deliverPoles before = s := by
  have fold : ∀ l : List Pole, l.foldl (fun s p =>
      if (before.get p).openSignal = (s.breaker.poles.get p).openSignal then s
      else s.deliver (Pole.signal p) (s.breaker.poles.get p).openSignal s.now) s = s := by
    intro l
    induction l with
    | nil => rfl
    | cons p rest ih =>
      have one : (if (before.get p).openSignal = (s.breaker.poles.get p).openSignal then s
          else s.deliver (Pole.signal p) (s.breaker.poles.get p).openSignal s.now) = s := by
        rewrite [closed p, deliver_quiet s _ _ _ none (by rw [idle]; decide)]
        exact ite_self s
      rewrite [List.foldl_cons, one]
      exact ih
  exact fold allPoles

theorem dropPole_entries (s : State) (p : Pole) :
    (s.dropPole p).actions = { s.actions with entries := s.actions.entries.filter fun a =>
      match a.work with
      | .pole q _ => decide (q ≠ p)
      | _ => true } := rfl

/-- Every pole action removed. -/
theorem dropPoles_eq (s : State) :
    allPoles.foldl (fun s p => s.dropPole p) s
      = { s with actions := { s.actions with entries := s.actions.entries.filter fun a => !a.work.isPole } } := by
  have frame : ∀ (l : List Pole) (s : State), l.foldl (fun s p => s.dropPole p) s
      = { s with actions := (l.foldl (fun s p => s.dropPole p) s).actions } := by
    intro l
    induction l with
    | nil => exact fun s => rfl
    | cons p rest ih => exact fun s => ih (s.dropPole p)
  have dropped : (allPoles.foldl (fun s p => s.dropPole p) s).actions
      = (((s.dropPole .a).dropPole .b).dropPole .c).actions := rfl
  rewrite [frame, dropped, dropPole_entries, dropPole_entries, dropPole_entries]
  simp only [List.filter_filter]
  congr 3
  funext a
  cases a.work with
  | pole q op => cases q <;> rfl
  | _ => rfl

/-- The breaker with every pole CLOSED and its linked channels conducting, every pole action removed (R102). -/
def closedAll (s : State) : State :=
  allPoles.foldl (fun s p => (s.setPole p PoleState.powerOn).onLinked p (·.poleClosed))
    (allPoles.foldl (fun s p => s.dropPole p) s)

/-- It changes the channels, the breaker and the actions alone. -/
theorem closedAll_frame (s : State) :
    ∃ ch po ac, closedAll s = { s with
      synth := { s.synth with channels := ch }, breaker := { s.breaker with poles := po }, actions := ac } := by
  have closed : ∀ (l : List Pole) (s : State), ∃ ch po,
      l.foldl (fun s p => (s.setPole p PoleState.powerOn).onLinked p (·.poleClosed)) s
        = { s with synth := { s.synth with channels := ch }, breaker := { s.breaker with poles := po } } := by
    intro l
    induction l with
    | nil => exact fun s => ⟨s.synth.channels, s.breaker.poles, rfl⟩
    | cons p rest ih => exact fun s => ih ((s.setPole p PoleState.powerOn).onLinked p (·.poleClosed))
  rewrite [closedAll, dropPoles_eq]
  obtain ⟨ch, po, two⟩ := closed allPoles { s with
    actions := { s.actions with entries := s.actions.entries.filter fun a => !a.work.isPole } }
  exact ⟨ch, po, _, two⟩

theorem closedAll_pole (s : State) (q : Pole) : (closedAll s).breaker.poles.get q = PoleState.powerOn := by
  cases q <;> rfl

theorem disableBreaker_quiet {s : State} (none : s.seq.visit = none) (idle : s.seq.phase = .idle) :
    s.disableBreaker = (closedAll s).refreshAux := by
  have quiet := deliverPoles_quiet (s := closedAll s) none idle
    (fun q => by rw [closedAll_pole]; rfl) s.breaker.poles
  unfold State.disableBreaker
  exact congrArg State.refreshAux quiet

theorem closedAll_actions (s : State) :
    (closedAll s).actions = { s.actions with entries := s.actions.entries.filter fun a => !a.work.isPole } := by
  have kept : ∀ (l : List Pole) (s : State),
      (l.foldl (fun s p => (s.setPole p PoleState.powerOn).onLinked p (·.poleClosed)) s).actions = s.actions := by
    intro l
    induction l with
    | nil => exact fun _ => rfl
    | cons p rest ih => exact fun s => ih ((s.setPole p PoleState.powerOn).onLinked p (·.poleClosed))
  rw [closedAll, kept, dropPoles_eq]

theorem poleClosed_link (c : SynthChannel) : c.poleClosed.link = c.link := by
  unfold SynthChannel.poleClosed
  split <;> rfl

/-- The channel of a pole conducts again. -/
def conductFor (p : Pole) (c : SynthChannel) : SynthChannel := if c.linkedTo p then c.poleClosed else c

theorem conductFor_other {p : Pole} {c : SynthChannel} (h : c.link ≠ some p) : conductFor p c = c :=
  if_neg fun linked => h (of_decide_eq_true linked)

theorem conductFor_linked {p : Pole} {c : SynthChannel} (h : c.link = some p) : conductFor p c = c.poleClosed :=
  if_pos (decide_eq_true h)

theorem closedAll_channel (s : State) (ch : Channel) :
    (closedAll s).synth.channels.get ch
      = if (s.synth.channels.get ch).link = none then s.synth.channels.get ch else (s.synth.channels.get ch).poleClosed := by
  have each : (closedAll s).synth.channels.get ch
      = conductFor .c (conductFor .b (conductFor .a (s.synth.channels.get ch))) := by
    cases ch <;> rfl
  rewrite [each]
  cases link : (s.synth.channels.get ch).link with
  | none =>
    rw [if_pos rfl, conductFor_other (p := .a) (by simp [link]), conductFor_other (p := .b) (by simp [link]),
      conductFor_other (p := .c) (by simp [link])]
  | some p =>
    have closed := (poleClosed_link (s.synth.channels.get ch)).trans link
    rewrite [if_neg nofun]
    cases p with
    | a =>
      rw [conductFor_linked link, conductFor_other (p := .b) (by simp [closed]),
        conductFor_other (p := .c) (by simp [closed])]
    | b => rw [conductFor_other (p := .a) (by simp [link]), conductFor_linked link, conductFor_other (by simp [closed])]
    | c =>
      rw [conductFor_other (p := .a) (by simp [link]), conductFor_other (p := .b) (by simp [link]),
        conductFor_linked link]

theorem auxLevel_closed {b : Breaker} (closed : ∀ q, b.poles.get q = PoleState.powerOn) (o : Output) :
    (o.ruled b.auxLevel).level = match o.role with
      | .aux52A => true
      | .aux52B => false
      | _ => o.level := by
  have allClosed : b.allIn .closed = true := allIn_iff.2 fun q => by rw [closed q]; rfl
  have notOpened : b.allIn .opened = false := Bool.eq_false_iff.2 fun opened => by
    have := allIn_iff.1 opened .a
    rewrite [closed .a] at this
    cases this
  unfold Output.ruled Breaker.auxLevel
  cases o.role <;> simp [allClosed, notOpened]

/-! ### CONFIG_BREAKER -/

/-- The three values stored. -/
def breakerSet (s : State) (enabled : Bool) (tripTime closeTime : Nat) : State :=
  { s with breaker := { s.breaker with enabled := enabled, tripTime := tripTime, closeTime := closeTime } }

theorem exec_configBreaker {s : State} {p : Port} {setting tripTime closeTime : Nat} {disabled : Bool}
    (allowed : s.excluded p = false) (idle : s.seq.phase = .idle) (trip : tripTime ≤ 5000) (close : closeTime ≤ 10000)
    (known : boolOfCode setting = some disabled) :
    exec (.configBreaker p setting tripTime closeTime) s
      = .next ((if disabled then (breakerSet (s.takeFrame p) (!disabled) tripTime closeTime).disableBreaker
            else breakerSet (s.takeFrame p) (!disabled) tripTime closeTime).respond p .ok
          (.breakerConfig (!disabled) tripTime closeTime)) := by
  rewrite [exec, execConfigBreaker, gated_allowed _ allowed, shotActive_taken p idle]
  simp only [known, trip.not_gt, close.not_gt, Bool.false_eq_true, ↓reduceIte, breakerSet]

/-- The breaker disabled in IDLE with no visit. -/
theorem disableBreaker_idle {s : State} (none : s.seq.visit = none) (idle : s.seq.phase = .idle) :
    ∃ ou, s.disableBreaker = { closedAll s with outputs := ou } ∧ ∀ n : Fin 4, (ou[n]'n.isLt).role = (s.outputs[n]'n.isLt).role
      ∧ (ou[n]'n.isLt).level = match (s.outputs[n]'n.isLt).role with
          | .aux52A => true
          | .aux52B => false
          | _ => (s.outputs[n]'n.isLt).level := by
  have poles := closedAll_pole s
  rewrite [disableBreaker_quiet none idle]
  obtain ⟨ch, po, ac, closed⟩ := closedAll_frame s
  rewrite [closed] at poles ⊢
  have outputs := refreshAux_outputs { s with
    synth := { s.synth with channels := ch }, breaker := { s.breaker with poles := po }, actions := ac }
  obtain ⟨ou, refreshed⟩ := refreshOutputs_idle (s := { s with
      synth := { s.synth with channels := ch }, breaker := { s.breaker with poles := po }, actions := ac })
    (shotActive_of_idle idle) .breaker (Breaker.auxLevel { s.breaker with poles := po })
  refine ⟨ou, refreshed, fun n => ?_⟩
  have output : ou[n]'n.isLt = (s.outputs[n]'n.isLt).ruled (Breaker.auxLevel { s.breaker with poles := po }) := by
    have := outputs n n.isLt
    rewrite [State.refreshAux, refreshed] at this
    exact this
  exact ⟨(congrArg Output.role output).trans rfl, (congrArg Output.level output).trans (auxLevel_closed poles (s.outputs[n]'n.isLt))⟩

set_option Elab.async false in
/-- Settles O26. -/
theorem configBreakerEnablesOrDisables : Obligations.ConfigBreakerEnablesOrDisables := by
  intro p setting tripTime closeTime s allowed idle
  refine ⟨fun unknown => ?_, fun known beyond => ?_, fun known trip beyond => ?_, fun trip close => ?_,
    fun trip close none => ?_⟩
  · rewrite [exec, execConfigBreaker, gated_allowed _ allowed, shotActive_taken p idle, Notify.boolOfCode_unknown _ unknown]
    rfl
  · obtain ⟨disabled, known⟩ := Notify.boolOfCode_known setting known
    rewrite [exec, execConfigBreaker, gated_allowed _ allowed, shotActive_taken p idle, known]
    simp only [beyond, Bool.false_eq_true, ↓reduceIte]
    rfl
  · obtain ⟨disabled, known⟩ := Notify.boolOfCode_known setting known
    rewrite [exec, execConfigBreaker, gated_allowed _ allowed, shotActive_taken p idle, known]
    simp only [trip.not_gt, beyond, Bool.false_eq_true, ↓reduceIte]
    rfl
  · rewrite [exec_configBreaker allowed idle trip close (setting := 0) (disabled := false) rfl]
    rfl
  · obtain ⟨ou, frame, outputs⟩ := disableBreaker_idle (s := breakerSet (s.takeFrame p) false tripTime closeTime) none idle
    have actions := closedAll_actions (breakerSet (s.takeFrame p) false tripTime closeTime)
    have channels := closedAll_channel (breakerSet (s.takeFrame p) false tripTime closeTime)
    have poles := closedAll_pole (breakerSet (s.takeFrame p) false tripTime closeTime)
    rewrite [exec_configBreaker allowed idle trip close (setting := 1) (disabled := true) rfl, if_pos rfl, Bool.not_true, frame]
    obtain ⟨ch, po, ac, closed⟩ := closedAll_frame (breakerSet (s.takeFrame p) false tripTime closeTime)
    rewrite [closed] at actions channels poles ⊢
    exact ⟨_, rfl, rfl, rfl, rfl, rfl, poles, actions, rfl, channels, outputs⟩

end Sys2Proof.Proofs.BreakerSetting
end

section
/-! PROOF. The action that falls due next, and the output action (O41). -/

namespace Sys2Proof.Proofs.DueActions

open Sys2Proof Sys2Proof.Machine Sys2Proof.Proofs.Answering Sys2Proof.Proofs.Outputs

/-! ### The action that falls due next (R84, R140, R141) -/

theorem isOutput_iff {w : Work} : w.isOutput = true ↔ w.group = .stateOutput := by
  cases w <;> simp [Work.isOutput, Work.group]

theorem withheldHere_iff {s : State} {a : TimedAction} :
    WithheldHere s a ↔ (s.outputWithheld && a.work.isOutput) = true := by
  rewrite [Bool.and_eq_true, isOutput_iff, State.outputWithheld, Bool.and_eq_true, and_comm]
  rfl

theorem mayFallDue_iff {s : State} {a : TimedAction} : s.mayFallDue a = true ↔ a.due ≤ s.now ∧ ¬ WithheldHere s a := by
  rw [withheldHere_iff, State.mayFallDue, Bool.and_eq_true, decide_eq_true_iff, Bool.not_eq_true', Bool.not_eq_true]

theorem theNextActionDue : TheNextActionDue := by
  intro s a
  rewrite [State.dueAction, List.find?_eq_some_iff_append]
  constructor
  · rintro ⟨due, before, after, split, passed⟩
    obtain ⟨reached, fires⟩ := mayFallDue_iff.1 due
    refine ⟨before, after, split, reached, fires, fun b mem => ?_⟩
    have not : ¬ s.mayFallDue b = true := by simpa using passed b mem
    rewrite [mayFallDue_iff, not_and_or, not_not] at not
    exact not.imp_left Nat.lt_of_not_le
  · rintro ⟨before, after, split, reached, fires, passed⟩
    refine ⟨mayFallDue_iff.2 ⟨reached, fires⟩, before, after, split, fun b mem => ?_⟩
    rewrite [Bool.not_eq_true', ← Bool.not_eq_true, mayFallDue_iff, not_and_or, not_not]
    exact (passed b mem).imp_left Nat.not_le_of_lt

/-- The action that falls due is the one that leaves the list. -/
theorem dropDue_erases {s : State} {a : TimedAction} (due : s.dueAction = some a) :
    s.dropDue = { s with actions := { s.actions with entries := s.actions.entries.erase a } } := by
  obtain ⟨may, before, after, split, passed⟩ := List.find?_eq_some_iff_append.1 due
  have notHere : ∀ b ∈ before, ¬ s.mayFallDue b = true := fun b mem => by simpa using passed b mem
  have absent : a ∉ before := fun mem => notHere a mem may
  unfold State.dropDue
  rw [split, List.eraseP_append_right _ notHere, List.erase_append_right _ absent, List.eraseP_cons_of_pos may,
    List.erase_cons_head]

/-! ### STATE_OUTPUT_DUE (R84, R86) -/

theorem exec_stateOutputDue_other {s : State} (h : ∀ a, s.dueAction = some a → a.work.group ≠ .stateOutput) :
    exec .stateOutputDue s = .next s := by
  rewrite [exec, execStateOutputDue]
  split
  next due => exact absurd rfl (h _ due)
  next => rfl

theorem stateOutputActionSetsItsOutput : StateOutputActionSetsItsOutput := by
  intro s
  refine ⟨exec_stateOutputDue_other, fun fixed ends => exec_stateOutputDue_other fun a due output => ?_,
    fun a n level due work => ?_⟩
  · have fires := (mayFallDue_iff.1 (List.find?_some due)).2
    exact fires ⟨output, fixed, ends⟩
  · obtain ⟨t, i, w, o⟩ := a
    obtain rfl : w = .stateOutput n level := work
    have run : exec .stateOutputDue s = .next (s.dropDue.setOutput n level .state) := by
      rw [exec, execStateOutputDue, due]
    obtain ⟨lg, dr, po, frame⟩ := setOutput_frame (src := .state) s.dropDue n level
    have log := setOutput_log s.dropDue n level .state
    rewrite [frame, dropDue_erases due] at log
    rewrite [run, frame, dropDue_erases due]
    refine ⟨_, rfl, rfl, ?_⟩
    refine log.trans (if_congr ?_ rfl rfl)
    exact and_congr_right fun _ => shotActive_iff s

set_option Elab.async false in
/-- Settles O41. -/
theorem stateOutputActionFires : Obligations.StateOutputActionFires := ⟨theNextActionDue, stateOutputActionSetsItsOutput⟩

end Sys2Proof.Proofs.DueActions
end

section
/-! PROOF. The checks of ARM (O29). -/

namespace Sys2Proof.Proofs.ArmChecks

open Sys2Proof Sys2Proof.Machine Sys2Proof.Proofs.Answering Sys2Proof.Proofs.Writing Sys2Proof.Proofs.Configuring

/-! ### The parameters (check 4 of Table 2-3) -/

section Plan

variable {first mode peer period initial : Nat} {mask value : Mask} {startTime : AbsTime} {i : Fin 32} {m : StartMode}

theorem plan_firstState (h : 32 ≤ first) :
    armPlan first mode mask value startTime peer period initial = .inl .firstState := by
  rw [armPlan, stateOfCode_unknown h]

theorem startMode_unknown {t : AbsTime} (h : 5 ≤ mode) : StartMode.ofCode mask value t mode = none := by
  match mode with
  | mode + 5 => rfl

/-- A start mode, and what it allows of the peer-linked flag. -/
theorem startMode_known {t : AbsTime} (h : mode < 5) :
    ∃ m, StartMode.ofCode mask value t mode = some m ∧ m.allowsPeer true = decide (3 ≤ mode)
      ∧ m.allowsPeer false = decide (mode ≠ 4) := by
  match mode with
  | 0 => exact ⟨.immediate, rfl, rfl, rfl⟩
  | 1 => exact ⟨.onCommand, rfl, rfl, rfl⟩
  | 2 => exact ⟨.onInput mask value, rfl, rfl, rfl⟩
  | 3 => exact ⟨.atTime t, rfl, rfl, rfl⟩
  | 4 => exact ⟨.peer, rfl, rfl, rfl⟩

theorem plan_startMode (h : 5 ≤ mode) : armPlan i mode mask value startTime peer period initial = .inl .startMode := by
  rw [armPlan, stateOfCode_known, startMode_unknown h]

variable (known : StartMode.ofCode mask value (roundStart startTime) mode = some m)
include known

theorem plan_peer_unknown (h : 2 ≤ peer) :
    armPlan i mode mask value startTime peer period initial = .inl .peerLinked := by
  rw [armPlan, stateOfCode_known, known, Notify.boolOfCode_unknown peer h]

variable {linked : Bool} (flag : boolOfCode peer = some linked)
include flag

theorem plan_peer_refused (refused : m.allowsPeer linked = false) :
    armPlan i mode mask value startTime peer period initial = .inl .peerLinked := by
  simp only [armPlan, stateOfCode_known, known, flag, refused, Bool.not_false, ↓reduceIte]

variable (may : m.allowsPeer linked = true)
include may

theorem plan_period (h : periodInRange period = false) :
    armPlan i mode mask value startTime peer period initial = .inl .guardPeriod := by
  simp only [armPlan, stateOfCode_known, known, flag, may, h, Bool.not_true, Bool.not_false, Bool.false_eq_true,
    ↓reduceIte]

theorem plan_initial (inRange : periodInRange period = true) (h : boolOfCode initial = none) :
    armPlan i mode mask value startTime peer period initial = .inl .initialPosition := by
  simp only [armPlan, stateOfCode_known, known, flag, may, inRange, h, Bool.not_true, Bool.false_eq_true, ↓reduceIte]

theorem plan_made (inRange : periodInRange period = true) {opened : Bool} (h : boolOfCode initial = some opened) :
    armPlan i mode mask value startTime peer period initial
      = .inr { first := i, mode := m, peer := linked, period := period, opened := opened } := by
  simp only [armPlan, stateOfCode_known, known, flag, may, inRange, h, Bool.not_true, Bool.false_eq_true, ↓reduceIte]

end Plan

theorem periodInRange_false {n : Nat} (h : n ≠ 0 ∧ (n < 50 ∨ 5000 < n)) : periodInRange n = false :=
  decide_eq_false (by omega)

section Exec

variable {p : Port} {first mode peer period initial : Nat} {mask value : Mask} {startTime : AbsTime} {s : State}
  (allowed : s.excluded p = false) (idle : s.seq.phase = .idle)
include allowed idle

theorem exec_arm_parameter {bad : Param}
    (plan : armPlan first mode mask value startTime peer period initial = .inl bad) :
    exec (.arm p first mode mask value startTime peer period initial) s
      = .next (s.answered p .range (.param bad)) := by
  rewrite [exec, execArm, gated_allowed _ allowed, shotActive_taken p idle, plan]
  rfl

variable {a : ArmPlan} (plan : armPlan first mode mask value startTime peer period initial = .inr a)
include plan

theorem exec_arm_refused {st : Status} {d : RespData} (refusal : s.armRefusal a = some (st, d)) :
    exec (.arm p first mode mask value startTime peer period initial) s = .next (s.answered p st d) := by
  have refusal' : (s.takeFrame p).armRefusal a = some (st, d) := refusal
  rewrite [exec, execArm, gated_allowed _ allowed, shotActive_taken p idle, plan]
  simp only [refusal', Bool.false_eq_true, ↓reduceIte]
  rfl

theorem exec_arm_undefined {d : RespData} (accepted : s.armRefusal a = none) (walk : s.armWalk a.first = some d) :
    exec (.arm p first mode mask value startTime peer period initial) s
      = .next (s.answered p .undefinedTarget d) := by
  have accepted' : (s.takeFrame p).armRefusal a = none := accepted
  have walk' : (s.takeFrame p).armWalk a.first = some d := walk
  rewrite [exec, execArm, gated_allowed _ allowed, shotActive_taken p idle, plan]
  simp only [accepted', walk', Bool.false_eq_true, ↓reduceIte]
  rfl

theorem exec_arm_armed {r : StateRecord} (accepted : s.armRefusal a = none) (walk : s.armWalk a.first = none)
    (active : (s.store.slots[a.first]'a.first.isLt).active = some r) :
    exec (.arm p first mode mask value startTime peer period initial) s
      = .next (((s.takeFrame p).armShot p a r).respond p .ok
          (.shotNumber ((s.takeFrame p).armShot p a r).seq.shotNumber)) := by
  have accepted' : (s.takeFrame p).armRefusal a = none := accepted
  have walk' : (s.takeFrame p).armWalk a.first = none := walk
  rewrite [exec, execArm, gated_allowed _ allowed, shotActive_taken p idle, plan]
  simp only [accepted', walk', takeFrame_keeps, active, Bool.false_eq_true, ↓reduceIte]

end Exec

theorem armNamesTheFirstBadParameter : ArmNamesTheFirstBadParameter := by
  intro p first mode mask value startTime peer period initial s allowed idle c is
  subst is
  refine ⟨fun bad => exec_arm_parameter allowed idle (plan_firstState bad), fun lt bad => ?_, fun lt mode_lt bad => ?_,
    fun lt flags => ?_⟩
  all_goals obtain ⟨i, rfl⟩ : ∃ i : Fin 32, first = i := ⟨⟨first, lt⟩, rfl⟩
  · exact exec_arm_parameter allowed idle (plan_startMode bad)
  · obtain ⟨m, known, linked, apart⟩ := startMode_known (mask := mask) (value := value) (t := roundStart startTime) mode_lt
    rcases bad with unknown | ⟨rfl, small⟩ | ⟨rfl, rfl⟩
    · exact exec_arm_parameter allowed idle (plan_peer_unknown known unknown)
    · exact exec_arm_parameter allowed idle (plan_peer_refused known (linked := true) rfl
        (linked.trans (decide_eq_false (by omega))))
    · exact exec_arm_parameter allowed idle (plan_peer_refused known (linked := false) rfl apart)
  · obtain ⟨m, known, linked, apart⟩ :=
      startMode_known (mask := mask) (value := value) (t := roundStart startTime) (mode := mode) (by omega)
    obtain ⟨flag, code, may⟩ : ∃ flag, boolOfCode peer = some flag ∧ m.allowsPeer flag = true := by
      rcases flags with ⟨rfl, small⟩ | ⟨rfl, large⟩
      · exact ⟨false, rfl, apart.trans (decide_eq_true (by omega))⟩
      · exact ⟨true, rfl, linked.trans (decide_eq_true (by omega))⟩
    refine ⟨fun bad => exec_arm_parameter allowed idle (plan_period known code may (periodInRange_false bad)),
      fun inRange bad => exec_arm_parameter allowed idle (plan_initial known code may (decide_eq_true inRange)
        (Notify.boolOfCode_unknown initial bad))⟩

/-! ### Checks 5 to 10 of Table 2-3 -/

theorem startAcceptable_iff {s : State} {m : StartMode} {linked : Bool} :
    s.startAcceptable m linked = true ↔ StartAcceptable s m linked := by
  cases m with
  | atTime t =>
    simp only [State.startAcceptable, StartAcceptable, Bool.and_eq_true, decide_eq_true_iff, Bool.or_eq_true,
      Bool.not_eq_true', StartMode.atTime.injEq, forall_eq', and_assoc]
    cases linked <;> simp
  | immediate | onCommand | onInput _ _ | peer => exact iff_of_true rfl nofun

section Refusals

variable {s : State} {a : ArmPlan}

theorem armRefusal_stopped (h : s.guard.eStop = .asserted) : s.armRefusal a = some (.stopped, .none) := if_pos h

variable (released : s.guard.eStop = .released)
include released

theorem armRefusal_noDrain (sequence : s.drains.sequence.enabled = false) (panel : s.drains.panel.enabled = false) :
    s.armRefusal a = some (.noDrain, .none) := by
  simp [State.armRefusal, released, sequence, panel]

variable (drain : s.drains.sequence.enabled = true ∨ s.drains.panel.enabled = true)
include drain

theorem armRefusal_logFull (full : 1022 < s.log.records.length) : s.armRefusal a = some (.logFull, .none) := by
  have free : s.log.free < 2 := by unfold ReportLog.free; omega
  rcases drain with d | d <;> simp [State.armRefusal, released, d, free]

variable (room : s.log.records.length ≤ 1022)
include room

/-- What is left of the checks past the log's. -/
theorem armRefusal_timed :
    s.armRefusal a
      = if a.mode.isTimed && decide (s.time.lock ≠ .locked) then some (.notLocked, .none)
        else if !s.startAcceptable a.mode a.peer then some (.range, .param .startTime)
        else if a.peer && decide (s.peer.link ≠ .up) then some (.peerDown, .none)
        else none := by
  have free : ¬ s.log.free < 2 := by unfold ReportLog.free; omega
  rcases drain with d | d <;> simp [State.armRefusal, released, d, free]

theorem armRefusal_notLocked (timed : a.mode.isTimed = true) (apart : s.time.lock ≠ .locked) :
    s.armRefusal a = some (.notLocked, .none) := by
  rw [armRefusal_timed released drain room, if_pos (by simp [timed, apart])]

variable (locked : a.mode.isTimed = true → s.time.lock = .locked)
include locked

theorem armRefusal_locked :
    s.armRefusal a
      = if !s.startAcceptable a.mode a.peer then some (.range, .param .startTime)
        else if a.peer && decide (s.peer.link ≠ .up) then some (.peerDown, .none)
        else none := by
  rw [armRefusal_timed released drain room, if_neg]
  intro refused
  rewrite [Bool.and_eq_true, decide_eq_true_iff] at refused
  exact refused.2 (locked refused.1)

theorem armRefusal_startTime (bad : ¬ StartAcceptable s a.mode a.peer) :
    s.armRefusal a = some (.range, .param .startTime) := by
  rewrite [armRefusal_locked released drain room locked, Bool.eq_false_iff.2 fun ok => bad (startAcceptable_iff.1 ok)]
  rfl

variable (start : StartAcceptable s a.mode a.peer)
include start

theorem armRefusal_peerDown (linked : a.peer = true) (down : s.peer.link ≠ .up) :
    s.armRefusal a = some (.peerDown, .none) := by
  rewrite [armRefusal_locked released drain room locked, startAcceptable_iff.2 start]
  simp [linked, down]

theorem armRefusal_none (up : a.peer = true → s.peer.link = .up) : s.armRefusal a = none := by
  rewrite [armRefusal_locked released drain room locked, startAcceptable_iff.2 start]
  cases linked : a.peer <;> simp [linked] at up ⊢
  exact up

end Refusals

theorem allowsPeer_of {m : StartMode} {linked : Bool} (h : FlagAllowed m linked) : m.allowsPeer linked = true := by
  cases m with
  | atTime t => rfl
  | peer => exact h
  | immediate | onCommand | onInput _ _ => exact Bool.not_eq_true' _ ▸ h

theorem boolOfCode_bit (b : Bool) : boolOfCode (if b then 1 else 0) = some b := by cases b <;> rfl

/-- The plan of an ARM whose parameters are in range. -/
def planOf (i : Fin 32) (m : StartMode) (linked : Bool) (period : Nat) (opened : Bool) : ArmPlan :=
  { first := i, mode := m, peer := linked, period := period, opened := opened }

section Command

variable {i : Fin 32} {mode period : Nat} {mask value : Mask} {startTime : AbsTime} {linked opened : Bool} {m : StartMode}
  {s : State}

theorem plan_armCommand (inRange : period = 0 ∨ 50 ≤ period ∧ period ≤ 5000)
    (known : StartMode.ofCode mask value ((startTime + 99) / 100 * 100 % daySpan) mode = some m)
    (flag : FlagAllowed m linked) :
    armPlan i mode mask value startTime (if linked then 1 else 0) period (if opened then 1 else 0)
      = .inr (planOf i m linked period opened) :=
  plan_made known (boolOfCode_bit linked) (allowsPeer_of flag) (decide_eq_true inRange) (boolOfCode_bit opened)

theorem armRefusal_of_conditions (h : ArmConditions s m linked) : s.armRefusal (planOf i m linked period opened) = none := by
  obtain ⟨released, drain, room, locked, start, up⟩ := h
  exact armRefusal_none released drain room locked start up

end Command

theorem armRefusedByTheFirstFailedCheck : ArmRefusedByTheFirstFailedCheck := by
  intro p i mode mask value startTime linked period opened m s allowed idle inRange known flag c is
  have plan := plan_armCommand (i := i) (opened := opened) inRange known flag
  have refused := fun st d => exec_arm_refused (st := st) (d := d) allowed idle plan
  subst is
  refine ⟨fun asserted => refused _ _ (armRefusal_stopped asserted), fun released sequence panel =>
    refused _ _ (armRefusal_noDrain released sequence panel), fun released drain => ⟨fun full =>
    refused _ _ (armRefusal_logFull released drain full), fun room => ⟨fun timed apart =>
    refused _ _ (armRefusal_notLocked released drain room timed apart), fun locked => ⟨fun bad =>
    refused _ _ (armRefusal_startTime released drain room locked bad), fun start linked down =>
    refused _ _ (armRefusal_peerDown released drain room locked start linked down)⟩⟩⟩, fun conditions d walk =>
    exec_arm_undefined allowed idle plan (armRefusal_of_conditions conditions) walk⟩

set_option Elab.async false in
/-- Settles O29. -/
theorem armIsRefusedInTheOrderOfItsChecks : Obligations.ArmIsRefusedInTheOrderOfItsChecks :=
  ⟨armNamesTheFirstBadParameter, armRefusedByTheFirstFailedCheck, Walk.armWalkAnswers⟩

end Sys2Proof.Proofs.ArmChecks
end

section
/-! PROOF. ARM makes a shot (O30). -/

namespace Sys2Proof.Proofs.Arming

open Sys2Proof Sys2Proof.Machine Sys2Proof.Proofs.Answering Sys2Proof.Proofs.Writing Sys2Proof.Proofs.Configuring
  Sys2Proof.Proofs.Outputs Sys2Proof.Proofs.BreakerSetting Sys2Proof.Proofs.ArmChecks Sys2Proof.Proofs.Invariants

/-! ### Records offered -/

/-- An offer changes the log, the drain channels and the ports alone. -/
theorem offer_frame (s : State) (time : Nat) (b : RecordBody) :
    ∃ dr po, s.offer time b = { s with log := s.log.offered (s.makeRecord time b), drains := dr, ports := po } := by
  obtain ⟨k1, k2, k3, k4, k5, k6, k7, k8, k9, k10, k11, k12, k13, k14, k15, k16⟩ := offer_keeps s time b
  refine ⟨(s.offer time b).drains, (s.offer time b).ports, ?_⟩
  rw [← offer_log, ← k1, ← k2, ← k3, ← k4, ← k5, ← k6, ← k7, ← k8, ← k9, ← k10, ← k11, ← k12, ← k13, ← k14, ← k15, ← k16]

/-- An offer writes the record or counts it as lost. -/
theorem offered_cases (l : ReportLog) (r : LogRecord) :
    ((l.offered r).records = l.records ++ [r] ∧ (l.offered r).lost = l.lost)
    ∨ ((l.offered r).records = l.records ∧ (l.offered r).lost ≤ l.lost + 1) := by
  unfold ReportLog.offered ReportLog.write ReportLog.lose
  split
  · exact .inl ⟨rfl, rfl⟩
  · refine .inr ?_
    split
    · exact ⟨rfl, le_rfl⟩
    · exact ⟨rfl, Nat.le_succ _⟩

/-! ### Outputs that follow a rule -/

section Refreshed

variable {src : OutputSource} {rule : OutputRole → Option Bool}

theorem refreshOne_frame (s : State) (n : Fin 4) :
    ∃ ou lg dr po, s.refreshOne src rule n = { s with outputs := ou, log := lg, drains := dr, ports := po } := by
  unfold State.refreshOne
  split
  · obtain ⟨lg, dr, po, frame⟩ := setOutput_frame (src := src) s n _
    exact ⟨_, lg, dr, po, frame⟩
  · exact ⟨s.outputs, s.log, s.drains, s.ports, rfl⟩

/-- Outputs that follow a rule change nothing but the outputs, and what their records do. -/
theorem refreshOutputs_frame (s : State) :
    ∃ ou lg dr po, s.refreshOutputs src rule = { s with outputs := ou, log := lg, drains := dr, ports := po } := by
  rewrite [refreshOutputs_eq]
  obtain ⟨_, _, _, _, zero⟩ := refreshOne_frame (src := src) (rule := rule) s 0
  rewrite [zero]
  obtain ⟨_, _, _, _, one⟩ := refreshOne_frame (src := src) (rule := rule) _ 1
  rewrite [one]
  obtain ⟨_, _, _, _, two⟩ := refreshOne_frame (src := src) (rule := rule) _ 2
  rewrite [two]
  obtain ⟨_, _, _, _, three⟩ := refreshOne_frame (src := src) (rule := rule) _ 3
  exact ⟨_, _, _, _, three⟩

/-- The log holds more records of changed outputs, of which at most `k` were made in all. -/
def OutputsLogged (src : OutputSource) (s : State) (k : Nat) (t : State) : Prop :=
  ∃ changes, t.log.records = s.log.records ++ changes
    ∧ (∀ x ∈ changes, ∃ n level, x = s.makeRecord (s.shotTime s.now) (.outputChange n level src))
    ∧ t.log.lost + changes.length ≤ s.log.lost + k

theorem OutputsLogged.refreshOne {s u : State} {k : Nat} (h : OutputsLogged src s k u) (seq : u.seq = s.seq)
    (time : u.time = s.time) (n : Fin 4) : OutputsLogged src s (k + 1) (u.refreshOne src rule n) := by
  obtain ⟨changes, records, made, few⟩ := h
  have stays : OutputsLogged src s (k + 1) u := ⟨changes, records, made, few.trans (Nat.le_succ _)⟩
  unfold State.refreshOne
  split
  next level _ =>
    unfold OutputsLogged
    rewrite [setOutput_log]
    split
    next =>
      have record : u.makeRecord (u.shotTime u.now) (.outputChange n level src)
          = s.makeRecord (s.shotTime s.now) (.outputChange n level src) := by
        simp only [State.makeRecord, State.shotTime, State.now, seq, time]
      rcases offered_cases u.log (u.makeRecord (u.shotTime u.now) (.outputChange n level src)) with
        ⟨written, lost⟩ | ⟨written, lost⟩
      · refine ⟨changes ++ [u.makeRecord (u.shotTime u.now) (.outputChange n level src)],
          by rw [written, records, List.append_assoc], fun x mem => ?_, ?_⟩
        · rcases List.mem_append.1 mem with old | new
          · exact made x old
          · exact ⟨n, level, (List.mem_singleton.1 new).trans record⟩
        · rewrite [lost, List.length_append, List.length_singleton]
          omega
      · exact ⟨changes, written.trans records, made, by omega⟩
    next => exact stays
  · exact stays

/-- Outputs that follow a rule make at most four records. -/
theorem outputsLogged_refreshOutputs (s : State) : OutputsLogged src s 4 (s.refreshOutputs src rule) := by
  have none : OutputsLogged src s 0 s := ⟨[], by simp, by simp, by simp⟩
  have one := none.refreshOne (rule := rule) rfl rfl 0
  have two := one.refreshOne (rule := rule) (by simp) (by simp) 1
  have three := two.refreshOne (rule := rule) (by simp) (by simp) 2
  have four := three.refreshOne (rule := rule) (by simp) (by simp) 3
  rewrite [refreshOutputs_eq]
  exact four

end Refreshed

/-! ### Open signals delivered before the first entry -/

theorem signals_congr {s t : State} (inputs : t.inputs = s.inputs) (breaker : t.breaker = s.breaker) (tp : t.tp = s.tp) :
    t.signals = s.signals := by
  have signal : ∀ n, t.signal n = s.signal n := fun n => by
    unfold State.signal
    rw [inputs, breaker, tp]
  unfold State.signals
  simp only [signal]

/-- The state after a delivery before the first entry: the start boundary and the context may have changed. -/
def heard (s : State) (b : Option Nat) (x : Option AssessContext) : State :=
  { s with seq := { s.seq with startBoundary := b }, assess := x }

/-- An ON_INPUT match holds, as a start asks. -/
def MatchHolds (s : State) : Prop :=
  ∃ mask value, s.seq.mode = some (.onInput mask value) ∧ masked s.signals mask value = true

theorem matchStart_cases (s : State) (n : Nat) :
    s.matchStart n = s ∨ (s.matchStart n = heard s (some s.nextBoundary) s.assess ∧ MatchHolds s) := by
  unfold State.matchStart
  split
  next mask value _ mode _ =>
    split
    next taken => exact .inr ⟨rfl, mask, value, mode, (Bool.and_eq_true_iff.1 taken).2⟩
    next => exact .inl rfl
  next => exact .inl rfl

/-- A delivery before the first entry can fix the start, where the match holds, and mark the context. -/
theorem deliver_heard {s : State} (none : s.seq.visit = none) (n : Nat) (active : Bool) (t : Nat) :
    ∃ b x, s.deliver n active t = heard s b x ∧ (b = s.seq.startBoundary ∨ (b = some s.nextBoundary ∧ MatchHolds s))
      ∧ (s.assess = .none → x = .none) := by
  have captured : ∀ u : State, ∃ x, (if active then u.capture n t else u) = { u with assess := x }
      ∧ (u.assess = .none → x = .none) := fun u => by
    cases active with
    | false => exact ⟨u.assess, rfl, id⟩
    | true => exact ⟨_, rfl, fun h => by rw [h]; rfl⟩
  rewrite [deliver_none s n active t none]
  obtain ⟨x, capture, context⟩ := captured (s.matchStart n)
  rewrite [capture]
  rcases matchStart_cases s n with same | ⟨fixed, holds⟩
  · rewrite [same] at context ⊢
    exact ⟨s.seq.startBoundary, x, rfl, .inl rfl, context⟩
  · rewrite [fixed] at context ⊢
    exact ⟨some s.nextBoundary, x, rfl, .inr ⟨rfl, holds⟩, context⟩

/-- One pole's open signal delivered, where it differs from what it was. -/
def deliverOne (before : PerPole PoleState) (s : State) (p : Pole) : State :=
  if (before.get p).openSignal = (s.breaker.poles.get p).openSignal then s
  else s.deliver (Pole.signal p) (s.breaker.poles.get p).openSignal s.now

theorem deliverPoles_fold (s : State) (before : PerPole PoleState) :
    s.deliverPoles before = allPoles.foldl (deliverOne before) s := rfl

set_option Elab.async false in
theorem deliverPoles_heard {s : State} (none : s.seq.visit = none) (before : PerPole PoleState) :
    ∃ b x, s.deliverPoles before = heard s b x ∧ (b = s.seq.startBoundary ∨ (b = some s.nextBoundary ∧ MatchHolds s))
      ∧ (s.assess = .none → x = .none) := by
  have fold : ∀ (l : List Pole) (b : Option Nat) (x : Option AssessContext),
      (b = s.seq.startBoundary ∨ (b = some s.nextBoundary ∧ MatchHolds s)) → (s.assess = .none → x = .none) →
      ∃ b' x', l.foldl (deliverOne before) (heard s b x) = heard s b' x'
        ∧ (b' = s.seq.startBoundary ∨ (b' = some s.nextBoundary ∧ MatchHolds s)) ∧ (s.assess = .none → x' = .none) := by
    intro l
    induction l with
    | nil => exact fun b x start context => ⟨b, x, rfl, start, context⟩
    | cons p rest ih =>
      intro b x start context
      rewrite [List.foldl_cons, deliverOne]
      split
      · exact ih b x start context
      · obtain ⟨b', x', delivered, start', context'⟩ :=
          deliver_heard (s := heard s b x) none (Pole.signal p) (s.breaker.poles.get p).openSignal s.now
        have signals : (heard s b x).signals = s.signals := signals_congr rfl rfl rfl
        have holds : MatchHolds (heard s b x) → MatchHolds s := by
          rintro ⟨mask, value, mode, matched⟩
          exact ⟨mask, value, mode, signals ▸ matched⟩
        obtain ⟨b'', x'', later, both⟩ := ih b' x'
          (start'.elim (fun same => same ▸ start) fun fixed => .inr ⟨fixed.1, holds fixed.2⟩)
          (fun h => context' (context h))
        refine ⟨b'', x'', ?_, both⟩
        rewrite [← later]
        exact congrArg (rest.foldl (deliverOne before)) delivered
  exact fold allPoles s.seq.startBoundary s.assess (.inl rfl) id

end Sys2Proof.Proofs.Arming
end

section
/-! PROOF. ARM makes a shot, its initial position and what it leaves (O30). -/

namespace Sys2Proof.Proofs.Arming

open Sys2Proof Sys2Proof.Machine Sys2Proof.Proofs.Answering Sys2Proof.Proofs.Writing Sys2Proof.Proofs.Configuring
  Sys2Proof.Proofs.Outputs Sys2Proof.Proofs.BreakerSetting Sys2Proof.Proofs.ArmChecks Sys2Proof.Proofs.Invariants

/-! ### The initial position (R100) -/

/-- What placing the initial position can change. -/
def placed (s : State) (b : Option Nat) (x : Option AssessContext) (po : PerPole PoleState) (ac : TimedList)
    (ou : Vector Output 4) (lg : ReportLog) (dr : PerPort Drain) (pr : PerPort PortInterface) : State :=
  { s with
    seq := { s.seq with startBoundary := b }, assess := x, breaker := { s.breaker with poles := po }, actions := ac
    outputs := ou, log := lg, drains := dr, ports := pr }

/-- The state after the initial position has been placed. -/
structure IsPlaced (s : State) (opened : Bool) (t : State) : Prop where
  start : t.seq.startBoundary = s.seq.startBoundary
    ∨ (t.seq.startBoundary = some s.nextBoundary ∧ MatchHolds t)
  context : s.assess = none → t.assess = none
  poles : ∀ q : Pole, t.breaker.poles.get q
    = if s.breaker.enabled then InitialPole opened else s.breaker.poles.get q
  actions : t.actions = { s.actions with entries :=
    if s.breaker.enabled then s.actions.entries.filter fun a => !a.work.isPole else s.actions.entries }
  outputs : ∀ n : Fin 4, (t.outputs[n]'n.isLt).role = (s.outputs[n]'n.isLt).role
    ∧ (t.outputs[n]'n.isLt).level
      = match (s.outputs[n]'n.isLt).role, s.breaker.enabled with
        | .aux52A, true => !opened
        | .aux52B, true => opened
        | _, _ => (s.outputs[n]'n.isLt).level
  logged : OutputsLogged .breaker s (if s.breaker.enabled then 4 else 0) t
  log : t.log.freed = s.log.freed ∧ t.log.reservation = s.log.reservation ∧ t.log.verdicts = s.log.verdicts

theorem initialPole_eq (opened : Bool) : PoleState.initial opened = InitialPole opened := by cases opened <;> rfl

/-- The level that the initial position gives an output. -/
theorem auxLevel_initial {b : Breaker} {opened : Bool} (poles : ∀ q, b.poles.get q = InitialPole opened) (o : Output) :
    (o.ruled b.auxLevel).level = match o.role with
      | .aux52A => !opened
      | .aux52B => opened
      | _ => o.level := by
  have closed : b.allIn .closed = !opened := by
    cases opened with
    | false => exact allIn_iff.2 fun q => by rw [poles q]; rfl
    | true =>
      refine Bool.eq_false_iff.2 fun all => ?_
      have := allIn_iff.1 all .a
      rewrite [poles] at this
      cases this
  have opens : b.allIn .opened = opened := by
    cases opened with
    | true => exact allIn_iff.2 fun q => by rw [poles q]; rfl
    | false =>
      refine Bool.eq_false_iff.2 fun all => ?_
      have := allIn_iff.1 all .a
      rewrite [poles] at this
      cases this
  unfold Output.ruled Breaker.auxLevel
  cases o.role <;> simp [closed, opens]

theorem placeInitial_eq (s : State) (opened : Bool) :
    s.placeInitial opened = { s with
      actions := { s.actions with entries := s.actions.entries.filter fun a => !a.work.isPole }
      breaker := { s.breaker with poles := s.breaker.poles.mapWith fun _ _ => .initial opened } } := by
  rw [State.placeInitial, dropPoles_eq]

set_option Elab.async false in
theorem setInitialPosition_placed {s : State} (none : s.seq.visit = none) (opened : Bool) :
    ∃ b x po ac ou lg dr pr, s.setInitialPosition opened = placed s b x po ac ou lg dr pr
      ∧ IsPlaced s opened (placed s b x po ac ou lg dr pr) := by
  unfold State.setInitialPosition
  cases enabled : s.breaker.enabled with
  | false =>
    refine ⟨s.seq.startBoundary, s.assess, s.breaker.poles, s.actions, s.outputs, s.log, s.drains, s.ports, rfl, ?_⟩
    refine ⟨.inl rfl, id, fun q => ?_, ?_, fun n => ⟨rfl, ?_⟩, ⟨[], by simp [placed], by simp, by simp [placed]⟩, rfl, rfl, rfl⟩
    · rewrite [enabled]
      rfl
    · rewrite [enabled]
      rfl
    · rewrite [enabled]
      cases (s.outputs[n]'n.isLt).role <;> rfl
  | true =>
    obtain ⟨b, x, delivered, start, context⟩ := deliverPoles_heard (s := s.placeInitial opened)
      (by rw [placeInitial_eq]; exact none) s.breaker.poles
    rewrite [if_pos rfl, delivered]
    rewrite [placeInitial_eq] at start context ⊢
    generalize middle : heard _ b x = u
    have logged := outputsLogged_refreshOutputs (src := .breaker) (rule := u.breaker.auxLevel) u
    have same := refreshOutputs_log_same u .breaker u.breaker.auxLevel
    have outputs := refreshAux_outputs u
    obtain ⟨ou, lg, dr, pr, frame⟩ := refreshOutputs_frame (src := .breaker) (rule := u.breaker.auxLevel) u
    have refreshed : u.refreshAux = _ := frame
    rewrite [refreshed] at outputs
    rewrite [frame] at logged same
    rewrite [refreshed]
    subst middle
    have poles : ∀ q, (s.breaker.poles.mapWith fun _ _ => PoleState.initial opened).get q = InitialPole opened := fun q => by
      rw [PerPole.get_mapWith, initialPole_eq]
    refine ⟨b, x, _, _, ou, lg, dr, pr, rfl, ⟨?start, context, ?poles, ?actions, ?outputs, ?logged, same⟩⟩
    case start =>
      refine start.imp_right fun fixed => ⟨fixed.1, ?_⟩
      obtain ⟨mask, value, mode, holds⟩ := fixed.2
      exact ⟨mask, value, mode, (congrArg (masked · mask value) (signals_congr rfl rfl rfl)).trans holds⟩
    case poles =>
      intro q
      rewrite [enabled]
      exact poles q
    case actions =>
      rewrite [enabled]
      rfl
    case outputs =>
      intro n
      have output : ou[n]'n.isLt = (s.outputs[n]'n.isLt).ruled
          (Breaker.auxLevel { s.breaker with poles := s.breaker.poles.mapWith fun _ _ => .initial opened }) :=
        outputs n n.isLt
      refine ⟨(congrArg Output.role output).trans rfl, (congrArg Output.level output).trans ?_⟩
      rewrite [enabled, auxLevel_initial poles]
      cases (s.outputs[n]'n.isLt).role <;> rfl
    case logged =>
      rewrite [enabled]
      exact logged

end Sys2Proof.Proofs.Arming
end

section
/-! PROOF. ARM makes a shot (O30). -/

namespace Sys2Proof.Proofs.Arming

open Sys2Proof Sys2Proof.Machine Sys2Proof.Proofs.Answering Sys2Proof.Proofs.Writing Sys2Proof.Proofs.Configuring
  Sys2Proof.Proofs.Outputs Sys2Proof.Proofs.BreakerSetting Sys2Proof.Proofs.ArmChecks Sys2Proof.Proofs.Invariants

/-! ### SHOT_START and the reserved slot (R24, R114) -/

/-- The SHOT_START record. -/
def shotStart (s : State) (p : Port) (a : ArmPlan) : LogRecord :=
  { shot := nextShotNumber s.seq.shotNumber, time := 0, degraded := false
    body := .shotStart p a.mode s.time.lock a.mode.startTime }

/-- The log of a new shot: SHOT_START written, and the slot of SHOT_END reserved. -/
def shotWritten (s : State) (p : Port) (a : ArmPlan) (dr : PerPort Drain) (po : PerPort PortInterface) : State :=
  { armedState s p a with
    log := { s.log.armed with records := s.log.records ++ [shotStart s p a], reservation := 1 }
    drains := dr, ports := po }

theorem writeShotStart_eq {s : State} (p : Port) (a : ArmPlan) (room : s.log.records.length ≤ 1022)
    (free : s.log.reservation = 0) :
    ∃ dr po, (armedState s p a).writeShotStart p a = shotWritten s p a dr po := by
  have slot : 1 ≤ (armedState s p a).log.unreserved := by
    simp only [ReportLog.unreserved, ReportLog.free, armedState, ReportLog.armed, free]
    omega
  obtain ⟨dr, po, frame⟩ := offer_frame (armedState s p a) 0
    (.shotStart p a.mode (armedState s p a).time.lock a.mode.startTime)
  rewrite [ReportLog.offered_write _ _ slot] at frame
  refine ⟨dr, po, ?_⟩
  rewrite [State.writeShotStart, frame]
  rfl

/-! ### The start that ARM fixes, and the proposal (R25, R26, R146) -/

/-- The start boundary after ARM has looked at the mode. -/
def fixedStart (s : State) : StartMode → Option Nat
  | .immediate => some s.nextBoundary
  | .onInput mask value => if masked s.signals mask value then some s.nextBoundary else s.seq.startBoundary
  | _ => s.seq.startBoundary

theorem fixStart_eq (s : State) (m : StartMode) :
    s.fixStart m = { s with seq := { s.seq with startBoundary := fixedStart s m } } := by
  cases m with
  | onInput mask value =>
    simp only [State.fixStart, fixedStart]
    split <;> rfl
  | immediate | onCommand | atTime _ | peer => rfl

theorem propose_other {s : State} (agreement : s.peer.agreement ≠ .proposing) : s.propose = s := by
  unfold State.propose
  split
  next is _ => exact absurd is agreement
  next => rfl

/-- The frames sent after ARM: a proposal where the mode is AT_TIME and the shot is peer-linked. -/
def sentAtArm (sent : List PeerFrame) (linked : Bool) : StartMode → List PeerFrame
  | .atTime u => if linked then sent ++ [.startPropose u] else sent
  | _ => sent

/-- The proposal of a new shot, if it makes one, is sent. -/
theorem propose_armed {s : State} {i : Fin 32} {m : StartMode} {linked : Bool} {period : Nat} {opened : Bool}
    (agreement : s.peer.agreement = (planOf i m linked period opened).agreement) (time : s.seq.startTime = m.startTime)
    (up : linked = true → s.peer.link = .up) :
    s.propose = { s with peer := { s.peer with sent := sentAtArm s.peer.sent linked m } } := by
  cases m with
  | atTime u =>
    cases linked with
    | true =>
      have proposing : s.peer.agreement = .proposing := agreement
      have start : s.seq.startTime = some u := time
      simp only [State.propose, proposing, start, State.send, if_pos (up rfl)]
      rfl
    | false =>
      rewrite [propose_other (by rw [agreement]; nofun)]
      rfl
  | immediate | onCommand | onInput _ _ | peer =>
    rewrite [propose_other (by rw [agreement]; nofun)]
    rfl

theorem matchHolds_congr {s t : State} (mode : t.seq.mode = s.seq.mode) (inputs : t.inputs = s.inputs)
    (breaker : t.breaker = s.breaker) (tp : t.tp = s.tp) (h : MatchHolds s) : MatchHolds t := by
  obtain ⟨mask, value, is, holds⟩ := h
  exact ⟨mask, value, mode.trans is, (congrArg (masked · mask value) (signals_congr inputs breaker tp)).trans holds⟩

/-- The start boundary that ARM leaves, from the signal vector as the initial position sets it. -/
def startAtArm (signals : Mask) (next : Nat) : StartMode → Option Nat
  | .immediate => some next
  | .onInput mask value => if signals &&& mask = value &&& mask then some next else none
  | _ => none

/-- A start fixed while the initial position was placed is that of an ON_INPUT match that holds. -/
theorem fixedStart_placed {w t : State} {m : StartMode} (mode : t.seq.mode = some m) (none : w.seq.startBoundary = none)
    (next : t.nextBoundary = w.nextBoundary)
    (start : t.seq.startBoundary = w.seq.startBoundary ∨ (t.seq.startBoundary = some w.nextBoundary ∧ MatchHolds t)) :
    fixedStart t m = startAtArm t.signals w.nextBoundary m := by
  have unmatched : (∀ mask value, m = .onInput mask value → masked t.signals mask value = false) →
      t.seq.startBoundary = .none := fun h => by
    rcases start with same | ⟨-, mask, value, is, holds⟩
    · exact same.trans none
    · rewrite [mode] at is
      rewrite [h mask value (Option.some.inj is)] at holds
      cases holds
  cases m with
  | immediate => exact congrArg some next
  | onInput mask value =>
    cases holds : masked t.signals mask value with
    | true =>
      refine (if_pos holds).trans (Eq.trans ?_ (if_pos (of_decide_eq_true holds)).symm)
      rw [next]
    | false =>
      refine (if_neg (Bool.eq_false_iff.1 holds)).trans (Eq.trans ?_ (if_neg (of_decide_eq_false holds)).symm)
      refine unmatched fun mask' value' same => ?_
      cases same
      exact holds
  | onCommand | atTime _ | peer => exact unmatched nofun

theorem arm_channel (c : SynthChannel) (cfg : ChannelConfig) (e : ChannelEntry) :
    c.arm cfg e = { c with
      acc := 0, amplitude := e.amplitude, phase := e.phase, frequency := e.frequency
      peak := peakCode e.amplitude cfg.range cfg.trim, increment := incrementOf e.frequency
      phaseOffset := angleCode e.phase, offset := 0, last := 0, silencing := .conducting
      link := e.link.resolve cfg, clip := false, clipRecorded := false, resuming := false } := rfl

set_option Elab.async false in
/-- Settles O30. -/
theorem armMakesAShot : Obligations.ArmMakesAShot := by
  intro p i mode mask value startTime linked period opened m r s allowed idle inRange known flag conditions walk active
    unreserved
  have run := exec_arm_armed (startTime := startTime) allowed idle
    (plan_armCommand (i := i) (opened := opened) inRange known flag) (armRefusal_of_conditions conditions) walk active
  obtain ⟨-, -, room, -, -, up⟩ := conditions
  obtain ⟨dr, po, written⟩ := writeShotStart_eq (s := s.takeFrame p) p (planOf i m linked period opened) room unreserved
  rewrite [armCommand, run, armShot_eq, written]
  obtain ⟨b, x, poles, ac, ou, lg, dr', pr, at_, start, context, poleStates, actions, outputs, logged, log⟩ :=
    setInitialPosition_placed (s := shotWritten (s.takeFrame p) p (planOf i m linked period opened) dr po) rfl
      (planOf i m linked period opened).opened
  have proposal := propose_armed (s := (((placed (shotWritten (s.takeFrame p) p (planOf i m linked period opened) dr po)
      b x poles ac ou lg dr' pr).armSynth r).clearAmpCounts).fixStart m) (i := i) (m := m) (linked := linked)
    (period := period) (opened := opened) (by rw [fixStart_eq]; rfl) (by rw [fixStart_eq]; rfl)
    (by rw [fixStart_eq]; exact up)
  have plan : (planOf i m linked period opened).mode = m := rfl
  rewrite [at_, plan, proposal, fixStart_eq]
  refine ⟨_, rfl, rfl, ⟨_, rfl, rfl, EditControl.respond_response _ _ _ _⟩, ?start, rfl, rfl, ?peer, rfl, poleStates, actions,
    outputs, context, rfl, ?channels, rfl, ?counts, log.2.1, log.1, log.2.2, ?records⟩
  case start =>
    refine (fixedStart_placed (w := shotWritten (s.takeFrame p) p (planOf i m linked period opened) dr po)
      (t := ((placed (shotWritten (s.takeFrame p) p (planOf i m linked period opened) dr po) b x poles ac ou lg dr'
        pr).armSynth r).clearAmpCounts) rfl rfl rfl
      (start.imp_right fun fixed => ⟨fixed.1, matchHolds_congr rfl rfl rfl rfl fixed.2⟩)).trans ?_
    cases m with
    | onInput mask value =>
      exact congrArg (fun v : Mask => if v &&& mask = value &&& mask then some s.nextBoundary else none)
        (signals_congr rfl rfl rfl)
    | immediate | onCommand | atTime _ | peer => rfl
  case peer => cases m <;> rfl
  case channels =>
    rintro c e cfg rfl rfl
    exact (PerChannel.get_mapWith _ _ c).trans (arm_channel _ _ _)
  case counts => exact fun c => PerChannel.get_mapWith _ _ c
  case records =>
    obtain ⟨changes, records, made, few⟩ := logged
    have count : lg.lost + changes.length ≤ 0 + (if s.breaker.enabled then 4 else 0) := few
    refine ⟨changes, records.trans (List.append_assoc _ _ _), made, count.trans ?_, fun disabled => ?_⟩
    · split <;> omega
    · rewrite [disabled] at count
      have both : lg.lost = 0 ∧ changes = [] := by simpa using count
      exact ⟨both.2, both.1⟩

end Sys2Proof.Proofs.Arming
end

section
/-! PROOF. START and ABORT (O31). -/

namespace Sys2Proof.Proofs.Aborting

open Sys2Proof Sys2Proof.Machine Sys2Proof.Proofs.Answering Sys2Proof.Proofs.Writing Sys2Proof.Proofs.Configuring
  Sys2Proof.Proofs.Outputs Sys2Proof.Proofs.Arming Sys2Proof.Proofs.Invariants Sys2Proof.Proofs.EditControl

/-! ### START (R25) -/

theorem startFixesTheFirstEntry : StartFixesTheFirstEntry := by
  intro p s allowed
  have ready : (s.takeFrame p).startReady = true
      ↔ s.seq.phase = .armed ∧ s.seq.mode = some .onCommand ∧ s.seq.startBoundary = none := by
    simp only [State.startReady, takeFrame_keeps, Bool.and_eq_true, decide_eq_true_iff, Option.isNone_iff_eq_none,
      and_assoc]
  refine ⟨fun armed mode first => ?_, fun refused => ?_⟩
  · rewrite [exec, execStart, gated_allowed _ allowed, if_pos (ready.2 ⟨armed, mode, first⟩)]
    rfl
  · have not : ¬ (s.takeFrame p).startReady = true := fun h => by
      obtain ⟨armed, mode, first⟩ := ready.1 h
      rcases refused with h | h | h
      · exact h armed
      · exact h mode
      · exact h first
    rewrite [exec, execStart, gated_allowed _ allowed, if_neg not]
    rfl

/-! ### Abort causes taken (R37 to R40, R148) -/

section Causes

variable (s : State) (c : AbortCause)

/-- The record of a cause. -/
def abortRecord : LogRecord := s.makeRecord (s.shotTime s.now) (.abort c false)

theorem takeEndCause_frame :
    ∃ dr po, s.takeEndCause c = { s with
      seq := { s.seq with endCause := some (.abort c), endAtExit := false }
      log := s.log.offered (abortRecord s c), peer := { s.peer with sent := SentWithAbort s c }
      drains := dr, ports := po } := by
  obtain ⟨seq, pending, store, edit, synth, amp, inputs, outputs, breaker, assess, time, actions, tp, guard, freeUsed,
    log, peer⟩ := takeEndCause_fields s c
  refine ⟨(s.takeEndCause c).drains, (s.takeEndCause c).ports, ?_⟩
  rw [abortRecord, SentWithAbort, ← log, ← peer, ← seq, ← pending, ← store, ← edit, ← synth, ← amp, ← inputs, ← outputs,
    ← breaker, ← assess, ← time, ← actions, ← tp, ← guard, ← freeUsed]

/-- What a secondary cause does to the log. -/
def secondaryLog : ReportLog := if s.seq.secondary = none then s.log.offered (abortRecord s c) else s.log

theorem takeSecondary_frame :
    ∃ dr po, s.takeSecondary c = { s with
      seq := { s.seq with secondary := some (s.seq.secondary.getD c), endAtExit := false }
      log := secondaryLog s c, drains := dr, ports := po } ∧ (s.seq.secondary ≠ none → dr = s.drains ∧ po = s.ports) := by
  unfold State.takeSecondary secondaryLog
  cases first : s.seq.secondary with
  | some _ => exact ⟨s.drains, s.ports, rfl, fun _ => ⟨rfl, rfl⟩⟩
  | none =>
    obtain ⟨dr, po, frame⟩ := offer_frame
      { s with seq := { s.seq with secondary := some c, endAtExit := false } } (s.shotTime s.now) (.abort c false)
    exact ⟨dr, po, frame, fun h => absurd rfl h⟩

end Causes

/-! ### The entry to CLOSING (R44) -/

/-- What the entry to CLOSING leaves of a state whose visit has ended. -/
theorem closingEntered_of {s u : State} (visit : u.seq.visit = none) (time : u.time = s.time)
    (guard : u.guard.period = s.guard.period) (synth : u.synth = s.synth) (breaker : u.breaker = s.breaker) (tp : u.tp = s.tp)
    (outputs : u.outputs = s.outputs) (actions : ∀ a ∈ u.actions.entries, a ∈ s.actions.entries)
    (poles : ∀ a ∈ s.actions.entries, a.work.isPole = true → a.owner = none → a ∈ u.actions.entries) :
    ClosingEntered s u.enterClosing := by
  obtain ⟨cseq, cguard, csynth, cbreaker, -, cactions, ctp, -, -⟩ := enterClosing_fields u visit
  have now : u.now = s.now := by rw [State.now, time, State.now]
  unfold ClosingEntered
  rewrite [cseq, cguard, csynth, cbreaker, cactions, ctp, now, guard, synth, breaker, tp]
  refine ⟨rfl, rfl, visit, rfl, rfl, rfl, rfl, rfl, rfl, rfl, rfl, fun c => ?_, fun q => ?_, fun a mem => ?_,
    fun a mem pole free => ?_, rfl, fun n => ?_⟩
  · exact PerChannel.get_mapWith _ _ c
  · rewrite [PerPole.get_mapWith]
    unfold PoleState.settle
    split <;> rfl
  · obtain ⟨old, pole⟩ := List.mem_filter.1 mem
    exact ⟨actions a old, pole⟩
  · exact List.mem_filter.2 ⟨poles a mem pole free, pole⟩
  · have output := enterClosing_outputs u visit n n.isLt
    have output : u.enterClosing.outputs[n]'n.isLt = { s.outputs[n]'n.isLt with level :=
      match (s.outputs[n]'n.isLt).role with
      | .stateDriven => false
      | .tpReceive => if s.tp.receive = true then false else (s.outputs[n]'n.isLt).level
      | _ => (s.outputs[n]'n.isLt).level } := by
      rewrite [outputs, tp] at output
      exact output
    rewrite [output]
    cases kind : s.outputs[n]'n.isLt with
    | mk role level =>
      cases role <;> simp only [ne_eq, reduceCtorEq, not_false_eq_true, not_true_eq_false, forall_const, true_and,
        and_self, IsEmpty.forall_iff, implies_true]
      exact ⟨fun receive => if_pos receive, trivial⟩

/-- The entry to CLOSING counts no verdicts. -/
theorem enterClosing_verdicts {u : State} (visit : u.seq.visit = none) :
    u.enterClosing.log.verdicts = u.log.verdicts := by
  obtain ⟨-, -, closing⟩ := refreshOutputs_log_same
    (u.closingMuted.refreshReceive u.now).closingCleared .close closingLevel
  rewrite [enterClosing_eq, closing]
  show (u.closingMuted.refreshReceive u.now).log.verdicts = _
  rewrite [refreshReceive_left u.closingMuted u.now visit (by simp [State.closingMuted])]
  split
  · obtain ⟨-, -, receive⟩ := refreshOutputs_log_same
      { u.closingMuted with tp := { u.closingMuted.tp with receive := false } } .teleprotection
      (Teleprotection.outputLevel { u.closingMuted.tp with receive := false })
    exact receive
  · rfl

/-- The records that stand before an event goes on stand first among its records. -/
theorem recordFirst_of {s t : State} {u : ReportLog} {time : Nat} {b : RecordBody}
    (offered : u = s.log.offered (s.makeRecord time b)) (extended : u.records <+: t.log.records) :
    RecordFirst s t time b := fun room => by
  obtain ⟨more, records⟩ := extended
  refine ⟨more, ?_⟩
  rewrite [← records, offered, ReportLog.offered_write _ _ room]
  exact List.append_assoc _ _ _

/-- The state of an abort in ARMED, ready to enter CLOSING. -/
def abortedState (s : State) (c : AbortCause) (dr : PerPort Drain) (po : PerPort PortInterface) : State :=
  { s with
    seq := { s.seq with endCause := some (.abort c), endAtExit := false }
    log := s.log.offered (abortRecord s c)
    peer := { s.peer with agreement := .none, sent := SentWithAbort s c }
    drains := dr, ports := po }

theorem abortArmed_eq (s : State) (c : AbortCause) :
    ∃ dr po, s.abortArmed c = (abortedState s c dr po).enterClosing := by
  obtain ⟨dr, po, frame⟩ := takeEndCause_frame s c
  exact ⟨dr, po, by rw [State.abortArmed, frame]; rfl⟩

/-- A cause taken in ARMED. -/
theorem abortArmed_enters {s : State} (c : AbortCause) (armed : s.seq.phase = .armed) (visit : s.seq.visit = none) :
    AbortedInArmed s (s.abortArmed c) c ∧ (s.abortArmed c).store = s.store ∧ (s.abortArmed c).edit = s.edit
    ∧ (s.abortArmed c).amp = s.amp ∧ (s.abortArmed c).inputs = s.inputs ∧ (s.abortArmed c).time = s.time
    ∧ (s.abortArmed c).pending = s.pending := by
  obtain ⟨dr, po, entered⟩ := abortArmed_eq s c
  have none : (abortedState s c dr po).seq.visit = Option.none := visit
  have active : (abortedState s c dr po).seq.phase ≠ .idle := fun idle => by
    have idle : s.seq.phase = .idle := idle
    rewrite [armed] at idle
    cases idle
  obtain ⟨seq, -, -, -, -, -, -, time, peer⟩ := enterClosing_fields _ none
  obtain ⟨pending, store, edit, amp, inputs⟩ := (Winds.enterClosing _ active).keeps
  rewrite [entered]
  refine ⟨⟨closingEntered_of none rfl rfl rfl rfl rfl rfl (fun _ => id) fun _ mem _ _ => mem, ?_, ?_, peer, ?_, ?_⟩,
    store, edit, amp, inputs, time, pending⟩
  · rewrite [seq]
    rfl
  · rewrite [seq]
    rfl
  · exact recordFirst_of rfl (Winds.enterClosing _ active).extends_
  · rewrite [enterClosing_verdicts none]
    exact s.log.offered_verdicts _

/-- A soft abort taken as the end cause in RUNNING. -/
theorem softAbort_running {s : State} (c : AbortCause) (running : s.seq.phase = .running) (first : s.seq.endCause = none) :
    SoftAbortTaken s (s.softAbort c) c
    ∧ ∃ dr po, s.softAbort c = { s with
        seq := (s.softAbort c).seq, log := (s.softAbort c).log, peer := (s.softAbort c).peer, drains := dr, ports := po } := by
  obtain ⟨dr, po, frame⟩ := takeEndCause_frame s c
  simp only [State.softAbort, running, State.takeRunningCause, first, frame]
  refine ⟨⟨?_, rfl, rfl⟩, dr, po, rfl⟩
  rw [← running]

/-- What a cause taken after the end cause does. -/
theorem takeSecondary_taken (s : State) (c : AbortCause) : SecondaryTaken s (s.takeSecondary c) c := by
  obtain ⟨dr, po, frame, quiet⟩ := takeSecondary_frame s c
  rewrite [frame]
  refine ⟨fun first => ⟨?_, ?_⟩, fun later => ⟨?_, ?_, (quiet later).1⟩⟩
  · simp only [first, Option.getD_none]
  · exact if_pos first
  · obtain ⟨x, held⟩ := Option.ne_none_iff_exists'.1 later
    simp only [held, Option.getD_some]
  · exact if_neg later

/-- A soft abort taken after the end cause in RUNNING, where a boundary has been fixed: that boundary stays. -/
theorem softAbort_again {s : State} (c : AbortCause) (running : s.seq.phase = .running) (later : s.seq.endCause ≠ none)
    (fixed : s.seq.softEnd ≠ none) : s.softAbort c = s.takeSecondary c := by
  obtain ⟨e, end_⟩ := Option.ne_none_iff_exists'.1 fixed
  obtain ⟨x, cause⟩ := Option.ne_none_iff_exists'.1 later
  obtain ⟨dr, po, frame, -⟩ := takeSecondary_frame s c
  simp only [State.softAbort, running, State.takeRunningCause, cause, end_, Option.getD_some, frame]

theorem softAbort_rampingDown {s : State} (c : AbortCause) (down : s.seq.phase = .rampingDown) :
    s.softAbort c = s.takeSecondary c := by
  rw [State.softAbort, down]

/-! ### ABORT (R42, R43) -/

section Abort

variable {s : State} {p : Port} {option : Nat}

theorem exec_abort_idle (known : option ≤ 1) (phase : s.seq.phase = .idle) :
    exec (.abort p option) s = .next (s.answered p .ok (.flag .noShot)) := by
  obtain ⟨_, code⟩ := Notify.boolOfCode_known option known
  simp only [exec, execAbort, open_eq, code, takeFrame_keeps, phase, State.answered]

theorem exec_abort_closing (known : option ≤ 1) (phase : s.seq.phase = .closing) :
    exec (.abort p option) s = .next (s.answered p .ok (.flag .alreadyEnding)) := by
  obtain ⟨_, code⟩ := Notify.boolOfCode_known option known
  simp only [exec, execAbort, open_eq, code, takeFrame_keeps, phase, State.answered]

theorem exec_abort_armed (known : option ≤ 1) (phase : s.seq.phase = .armed) :
    exec (.abort p option) s = .next (((s.takeFrame p).abortArmed .aborted).respond p .ok (.flag .none)) := by
  obtain ⟨_, code⟩ := Notify.boolOfCode_known option known
  simp only [exec, execAbort, open_eq, code, takeFrame_keeps, phase, State.softAbort]

theorem exec_abort_rampingDown (known : option ≤ 1) (phase : s.seq.phase = .rampingDown) :
    exec (.abort p option) s = .next (((s.takeFrame p).takeSecondary .aborted).respond p .ok (.flag .alreadyEnding)) := by
  obtain ⟨_, code⟩ := Notify.boolOfCode_known option known
  simp only [exec, execAbort, open_eq, code, takeFrame_keeps, phase, State.softAbort]

theorem exec_abort_running (phase : s.seq.phase = .running) :
    exec (.abort p 0) s = .next (((s.takeFrame p).softAbort .aborted).respond p .ok (.flag .none)) := by
  simp only [exec, execAbort, open_eq, boolOfCode, takeFrame_keeps, phase, if_false, Bool.false_eq_true]

theorem exec_abort_atEnd (phase : s.seq.phase = .running) :
    exec (.abort p 1) s = .next ((s.takeFrame p).endAtStateExit.respond p .ok (.flag .none)) := by
  simp only [exec, execAbort, open_eq, boolOfCode, takeFrame_keeps, phase, if_true]

theorem exec_abort_unknown (unknown : 1 < option) :
    exec (.abort p option) s = .next (s.answered p .range (.param .option)) := by
  rewrite [exec, execAbort, open_eq, Notify.boolOfCode_unknown option unknown]
  rfl

/-- The state that ABORT with AT_STATE_END leaves, but for the copies of its record. -/
theorem endAtStateExit_frame (first : s.seq.endAtExit = false) :
    ∃ dr po, s.endAtStateExit = { s with
      seq := { s.seq with
        endAtExit := true, deferring := false
        chosen := s.seq.chosen.map fun ch => Chosen.toEnd ch s.nextBoundary }
      log := s.log.offered (s.makeRecord (s.shotTime s.now) (.abort .aborted true))
      drains := dr, ports := po } := by
  obtain ⟨dr, po, frame⟩ := offer_frame { s with seq := { s.seq with
    endAtExit := true, chosen := s.seq.chosen.map fun ch => Chosen.toEnd ch s.nextBoundary, deferring := false } }
    (s.shotTime s.now) (.abort .aborted true)
  exact ⟨dr, po, by rw [State.endAtStateExit, if_neg (Bool.eq_false_iff.1 first), frame]; rfl⟩

end Abort

theorem abortedInArmed_answered {s t : State} {c : AbortCause} {p : Port} {st : Status} {d : RespData}
    (h : AbortedInArmed (s.takeFrame p) t c) : AbortedInArmed s (t.respond p st d) c := h

theorem abortInArmed (p : Port) (option : Nat) (s : State) (known : option ≤ 1) (armed : s.seq.phase = .armed)
    (visit : s.seq.visit = none) :
    ∃ t, exec (.abort p option) s = .next t ∧ AbortedInArmed s t .aborted
      ∧ (t.ports.get p).response = { status := .ok, data := .flag .none }
      ∧ t.store = s.store ∧ t.edit = s.edit ∧ t.amp = s.amp ∧ t.inputs = s.inputs
      ∧ t.time = s.time ∧ t.pending = s.pending := by
  obtain ⟨entered, store, edit, amp, inputs, time, pending⟩ :=
    abortArmed_enters (s := s.takeFrame p) .aborted armed visit
  refine ⟨_, exec_abort_armed known armed, abortedInArmed_answered entered, respond_response _ _ _ _, ?_⟩
  simp only [respond_keeps]
  exact ⟨store, edit, amp, inputs, time, pending⟩

theorem abortInRampingDown (p : Port) (option : Nat) (s : State) (known : option ≤ 1)
    (down : s.seq.phase = .rampingDown) :
    (s.seq.secondary ≠ none → exec (.abort p option) s = .next (State.answered
      { s with seq := { s.seq with endAtExit := false } } p .ok (.flag .alreadyEnding)))
    ∧ (s.seq.secondary = none →
      ∃ t, exec (.abort p option) s = .next t
        ∧ t = { (s.takeFrame p) with
            seq := { s.seq with secondary := some .aborted, endAtExit := false }
            log := s.log.offered (s.makeRecord (s.shotTime s.now) (.abort .aborted false))
            drains := t.drains, ports := t.ports }
        ∧ (t.ports.get p).response = { status := .ok, data := .flag .alreadyEnding }) := by
  obtain ⟨dr, po, frame, quiet⟩ := takeSecondary_frame (s.takeFrame p) .aborted
  refine ⟨fun later => ?_, fun first => ⟨_, exec_abort_rampingDown known down, ?_, respond_response _ _ _ _⟩⟩
  · obtain ⟨c, held⟩ := Option.ne_none_iff_exists'.1 later
    rewrite [exec_abort_rampingDown known down]
    simp only [State.takeSecondary, takeFrame_keeps, held, Option.getD_some]
    rfl
  · have log : secondaryLog (s.takeFrame p) .aborted
        = s.log.offered (s.makeRecord (s.shotTime s.now) (.abort .aborted false)) := if_pos first
    rewrite [frame, log]
    simp only [takeFrame_keeps, first, Option.getD_none]
    rfl

theorem abortInRunning (p : Port) (s : State) (running : s.seq.phase = .running) :
    (s.seq.endCause = none →
      ∃ t, exec (.abort p 0) s = .next t ∧ SoftAbortTaken s t .aborted
        ∧ t = { (s.takeFrame p) with
            seq := t.seq, log := t.log, drains := t.drains, peer := t.peer, ports := t.ports }
        ∧ (t.ports.get p).response = { status := .ok, data := .flag .none })
    ∧ (s.seq.endCause ≠ none → s.seq.softEnd ≠ none →
      ∃ t, exec (.abort p 0) s = .next t ∧ SecondaryTaken s t .aborted
        ∧ t = { (s.takeFrame p) with seq := t.seq, log := t.log, drains := t.drains, ports := t.ports }
        ∧ (t.ports.get p).response = { status := .ok, data := .flag .none }) := by
  refine ⟨fun first => ⟨_, exec_abort_running running, ?_⟩, fun later fixed => ⟨_, exec_abort_running running, ?_⟩⟩
  · obtain ⟨taken, dr, po, frame⟩ := softAbort_running (s := s.takeFrame p) .aborted running first
    refine ⟨taken, ?_, respond_response _ _ _ _⟩
    generalize (s.takeFrame p).softAbort .aborted = t at frame
    rewrite [frame]
    rfl
  · rewrite [softAbort_again (s := s.takeFrame p) .aborted running later fixed]
    refine ⟨takeSecondary_taken (s.takeFrame p) .aborted, ?_, respond_response _ _ _ _⟩
    obtain ⟨dr, po, frame, -⟩ := takeSecondary_frame (s.takeFrame p) .aborted
    rewrite [frame]
    rfl

theorem abortAtStateExit (p : Port) (s : State) (running : s.seq.phase = .running) :
    (s.seq.endAtExit = true → exec (.abort p 1) s = .next (s.answered p .ok (.flag .none)))
    ∧ (s.seq.endAtExit = false →
      ∃ t, exec (.abort p 1) s = .next t
        ∧ t = { (s.takeFrame p) with
            seq := { s.seq with
              endAtExit := true, deferring := false
              chosen := s.seq.chosen.map fun ch => Chosen.toEnd ch s.nextBoundary }
            log := s.log.offered (s.makeRecord (s.shotTime s.now) (.abort .aborted true))
            drains := t.drains, ports := t.ports }
        ∧ (t.ports.get p).response = { status := .ok, data := .flag .none }) := by
  refine ⟨fun again => ?_, fun first => ⟨_, exec_abort_atEnd running, ?_, respond_response _ _ _ _⟩⟩
  · have again : (s.takeFrame p).seq.endAtExit = true := again
    rewrite [exec_abort_atEnd running, State.endAtStateExit, if_pos again]
    rfl
  · obtain ⟨dr, po, frame⟩ := endAtStateExit_frame (s := s.takeFrame p) first
    rewrite [frame]
    rfl

theorem abortActsByPhase : AbortActsByPhase := fun p option s =>
  ⟨exec_abort_unknown,
    fun known => ⟨exec_abort_idle known, exec_abort_closing known, abortInArmed p option s known,
      abortInRampingDown p option s known⟩,
    fun running => ⟨(abortInRunning p s running).1, (abortInRunning p s running).2, abortAtStateExit p s running⟩⟩

set_option Elab.async false in
/-- Settles O31. -/
theorem startAndAbortActByPhase : Obligations.StartAndAbortActByPhase := ⟨startFixesTheFirstEntry, abortActsByPhase⟩

end Sys2Proof.Proofs.Aborting
end

section
/-! PROOF. ADJUST (O32). -/

namespace Sys2Proof.Proofs.Adjusting

open Sys2Proof Sys2Proof.Machine Sys2Proof.Proofs.Answering Sys2Proof.Proofs.Checking Sys2Proof.Proofs.EditControl
  Sys2Proof.Proofs.Arming

theorem adjustChannels_channel (s : State) (t : Target) (q : Quantity) (delta : Bool) (v : Int) (c : Channel) :
    (s.adjustChannels t q delta v).synth.channels.get c
      = if t.covers c then AdjustedChannel s t q delta v c else s.synth.channels.get c := by
  simp only [State.adjustChannels, PerChannel.get_mapWith]
  split
  · cases q <;> rfl
  · rfl

/-- An ADJUST changes the working sets, and records it. -/
theorem adjust_frame (s : State) (p : Port) (t : Target) (q : Quantity) (delta : Bool) (v : Int) :
    ∃ ch dr po, s.adjust p t q delta v = { s with
      synth := { s.synth with channels := ch }
      log := s.log.offered (s.makeRecord (s.shotTime s.now) (.adjust t q ((ch.get t.lead).quantity q) p))
      drains := dr, ports := po }
      ∧ ∀ c, ch.get c = if t.covers c then AdjustedChannel s t q delta v c else s.synth.channels.get c := by
  obtain ⟨dr, po, frame⟩ := offer_frame (s.adjustChannels t q delta v) (s.shotTime s.now)
    (.adjust t q (((s.adjustChannels t q delta v).synth.channels.get t.lead).quantity q) p)
  exact ⟨(s.adjustChannels t q delta v).synth.channels, dr, po, frame, adjustChannels_channel s t q delta v⟩

theorem onRamp_iff (s : State) (t : Target) (q : Quantity) :
    s.onRamp t q = true ↔ ∃ vis rmp, s.seq.visit = some vis ∧ vis.record.ramp = some rmp ∧ rmp.quantity = q
      ∧ ∃ ch, t.covers ch = true ∧ rmp.target.covers ch = true := by
  have overlap (u : Target) : t.overlaps u = true ↔ ∃ ch, t.covers ch = true ∧ u.covers ch = true := by
    simp [Target.overlaps, Target.covers]
  unfold State.onRamp
  cases visit : s.seq.visit with
  | none => simp
  | some vis =>
    cases ramp : vis.record.ramp with
    | none => simp [ramp]
    | some rmp => simp [ramp, overlap]

section Commands

variable {s : State} {p : Port} {target quantity mode : Nat} {v : Int}

theorem exec_adjust_running (allowed : s.excluded p = false) (running : s.seq.phase = .running) :
    exec (.adjust p target quantity mode v) s = .next
      (match (generalizing := false) Target.ofCode target, Quantity.ofCode quantity, boolOfCode mode with
      | none, _, _ => s.answered p .range (.param .target)
      | some _, none, _ => s.answered p .range (.param .quantity)
      | some _, some _, none => s.answered p .range (.param .mode)
      | some t, some q, some delta =>
          if s.onRamp t q then s.answered p .conflict .none
          else ((s.takeFrame p).adjust p t q delta v).respond p .ok
            (.working (t.channels.map ((s.takeFrame p).adjust p t q delta v).workingValues))) := by
  have running : ¬ (s.takeFrame p).seq.phase ≠ .running := fun h => h running
  rewrite [exec, execAdjust, gated_allowed _ allowed, if_neg running]
  rfl

theorem exec_adjust_busy (allowed : s.excluded p = false) (outside : s.seq.phase ≠ .running) :
    exec (.adjust p target quantity mode v) s = .next (s.answered p .busy .none) := by
  have outside : (s.takeFrame p).seq.phase ≠ .running := outside
  rewrite [exec, execAdjust, gated_allowed _ allowed, if_pos outside]
  rfl

end Commands

set_option Elab.async false in
/-- Settles O32. -/
theorem adjustChangesTheWorkingSet : Obligations.AdjustChangesTheWorkingSet := by
  rintro p target quantity mode v s allowed _ rfl
  refine ⟨exec_adjust_busy allowed, fun running => ?_⟩
  rewrite [exec_adjust_running allowed running]
  refine ⟨fun unknown => ?_, fun known unknown => ?_, fun known known₂ unknown => ?_, fun t q isTarget isQuantity known => ?_⟩
  · rw [target_unknown.2 unknown]
  · obtain ⟨t, isTarget⟩ := Option.ne_none_iff_exists'.1 (mt (target_unknown (n := target)).1 (by omega))
    rw [isTarget, quantity_unknown.2 unknown]
  · obtain ⟨t, isTarget⟩ := Option.ne_none_iff_exists'.1 (mt (target_unknown (n := target)).1 (by omega))
    obtain ⟨q, isQuantity⟩ := Option.ne_none_iff_exists'.1 (mt (quantity_unknown (n := quantity)).1 (by omega))
    rw [isTarget, isQuantity, Notify.boolOfCode_unknown mode unknown]
  · have code : boolOfCode mode = some (decide (mode = 1)) := by
      interval_cases mode <;> rfl
    rewrite [isTarget, isQuantity, code]
    refine ⟨fun ramp => ?_, fun free => ?_⟩
    · simp only [(onRamp_iff s t q).2 ramp, if_true]
    · have free : ¬ s.onRamp t q = true := fun ramp => by
        obtain ⟨vis, rmp, visit, isRamp, same, ch, own, its⟩ := (onRamp_iff s t q).1 ramp
        rewrite [free vis rmp visit isRamp same ch own] at its
        cases its
      obtain ⟨ch, dr, po, frame, channels⟩ := adjust_frame (s.takeFrame p) p t q (decide (mode = 1)) v
      simp only [if_neg free, frame]
      exact ⟨_, rfl, rfl, channels, rfl, respond_response _ _ _ _⟩

end Sys2Proof.Proofs.Adjusting
end

section
/-! PROOF. Copying into pages, DRAIN_ENABLE (O33) and the flush timer (O35). -/

namespace Sys2Proof.Proofs.Copying

open Sys2Proof Sys2Proof.Machine Sys2Proof.Proofs.Answering Sys2Proof.Proofs.EditControl

/-! ### Copying into a page (R120, R121) -/

section Fill

variable {now : Nat} {d : Drain}

/-- The channel with records copied into the page of its toggle. -/
def filledWith (d : Drain) (now : Nat) (w : List LogRecord) : Drain :=
  { d.setPage d.toggle { d.page d.toggle with records := (d.page d.toggle).records ++ w } with
    copyPos := d.copyPos.map (· + w.length)
    flush := if (d.page d.toggle).records = [] ∧ w ≠ [] then some (now + 20000) else d.flush }

theorem filledWith_nil (d : Drain) (now : Nat) : filledWith d now [] = d := by
  obtain ⟨_, copy, _, _, _, toggle, _, _⟩ := d
  cases copy <;> cases toggle <;> simp [filledWith, Drain.setPage, Drain.page]

theorem filledWith_copyOne (d : Drain) (now : Nat) (r : LogRecord) (w : List LogRecord) :
    filledWith (d.copyOne now r) now w = filledWith d now (r :: w) := by
  obtain ⟨_, copy, _, _, _, toggle, _, _⟩ := d
  cases copy <;> cases toggle <;>
    simp [filledWith, Drain.copyOne, Drain.setPage, Drain.page, Nat.add_assoc, Nat.add_comm 1]

theorem canCopy_iff : d.canCopy = true
    ↔ d.enabled = true ∧ (d.page d.toggle).owner = .part ∧ (d.page d.toggle).records.length < 16 := by
  simp only [Drain.canCopy, Bool.and_eq_true, decide_eq_true_eq, and_assoc]

theorem fill_stopped (w : List LogRecord) (h : d.enabled = false ∨ (d.page d.toggle).owner = .port) :
    d.fill now w = (d, 0) := by
  cases w with
  | nil => rfl
  | cons r rest =>
    refine if_neg fun can => ?_
    obtain ⟨enabled, owner, -⟩ := canCopy_iff.1 can
    rcases h with h | h
    · rewrite [h] at enabled
      cases enabled
    · rewrite [h] at owner
      cases owner

/-- A record that calls for no handover is copied, and copying goes on. -/
theorem fill_next {r : LogRecord} (rest : List LogRecord) (enabled : d.enabled = true)
    (part : (d.page d.toggle).owner = .part) (room : (d.page d.toggle).records.length < 15)
    (other : r.body.isShotEnd = false) : d.fill now (r :: rest) = (d.copyOne now r).fill now rest := by
  have cause : (d.copyOne now r).causeAfter r = none := by
    have length : ((d.copyOne now r).page d.toggle).records.length ≠ 16 := by
      rewrite [(d.copyOne_pages now r).1]
      simp only [List.length_append, List.length_singleton]
      omega
    rw [Drain.causeAfter, other, (d.copyOne_keeps now r).2.2.1, if_neg Bool.false_ne_true, if_neg length]
  rewrite [Drain.fill, if_pos (canCopy_iff.2 ⟨enabled, part, by omega⟩)]
  dsimp only
  rw [cause]

/-- A record that calls for a handover is copied, the page is handed over, and copying goes on. -/
theorem fill_handover {r : LogRecord} {cause : HandoverCause} (rest : List LogRecord) (enabled : d.enabled = true)
    (part : (d.page d.toggle).owner = .part)
    (calls : r.body.isShotEnd = true ∧ (d.page d.toggle).records.length < 16 ∧ cause = .shotEnd
      ∨ r.body.isShotEnd = false ∧ (d.page d.toggle).records.length = 15 ∧ cause = .pageFull) :
    d.fill now (r :: rest) = ((((d.copyOne now r).handOver cause).fill now rest).1,
      (((d.copyOne now r).handOver cause).fill now rest).2 + 1) := by
  have after : (d.copyOne now r).causeAfter r = some cause := by
    rewrite [Drain.causeAfter, (d.copyOne_keeps now r).2.2.1]
    rcases calls with ⟨shotEnd, -, rfl⟩ | ⟨other, full, rfl⟩
    · rw [if_pos shotEnd]
    · have length : ((d.copyOne now r).page d.toggle).records.length = 16 := by
        rewrite [(d.copyOne_pages now r).1]
        simp only [List.length_append, List.length_singleton, full]
      rw [other, if_neg Bool.false_ne_true, if_pos length]
  have room : (d.page d.toggle).records.length < 16 := by
    rcases calls with ⟨-, room, -⟩ | ⟨-, full, -⟩
    · exact room
    · omega
  rewrite [Drain.fill, if_pos (canCopy_iff.2 ⟨enabled, part, room⟩)]
  dsimp only
  rw [after]

/-- Records that call for no handover are all copied, and copying goes on behind them. -/
theorem fill_append {w rest : List LogRecord} (enabled : d.enabled = true) (part : (d.page d.toggle).owner = .part)
    (room : (d.page d.toggle).records.length + w.length < 16) (others : ∀ r ∈ w, r.body.isShotEnd = false) :
    d.fill now (w ++ rest) = (filledWith d now w).fill now rest := by
  induction w generalizing d with
  | nil => rw [filledWith_nil, List.nil_append]
  | cons r w ih =>
    obtain ⟨page, -, -⟩ := d.copyOne_pages now r
    obtain ⟨keepsEnabled, -, toggle, -⟩ := d.copyOne_keeps now r
    rewrite [List.length_cons] at room
    rewrite [List.cons_append, fill_next _ enabled part (by omega) (others r List.mem_cons_self), ← filledWith_copyOne]
    refine ih (keepsEnabled.trans enabled) ?_ ?_ fun x mem => others x (List.mem_cons_of_mem _ mem)
    · rewrite [toggle, page]
      exact part
    · rewrite [toggle, page]
      simp only [List.length_append, List.length_singleton]
      omega

/-- Copying leaves a channel enabled or not, and what it has consumed. -/
theorem fill_keeps (d : Drain) (now : Nat) (w : List LogRecord) :
    (d.fill now w).1.enabled = d.enabled ∧ (d.fill now w).1.consumedPos = d.consumedPos := by
  induction w generalizing d with
  | nil => exact ⟨rfl, rfl⟩
  | cons r rest ih =>
    obtain ⟨enabled, consumed, -, -⟩ := d.copyOne_keeps now r
    unfold Drain.fill
    split
    · dsimp only
      split
      next c _ =>
        obtain ⟨enabled₂, -, consumed₂⟩ := (d.copyOne now r).handOver_keeps c
        obtain ⟨enabled₃, consumed₃⟩ := ih ((d.copyOne now r).handOver c)
        exact ⟨enabled₃.trans (enabled₂.trans enabled), consumed₃.trans (consumed₂.trans consumed)⟩
      next =>
        obtain ⟨enabled₂, consumed₂⟩ := ih (d.copyOne now r)
        exact ⟨enabled₂.trans enabled, consumed₂.trans consumed⟩
    · exact ⟨rfl, rfl⟩

end Fill

/-! ### A channel that copies -/

section CopyFor

variable (s : State) (p : Port)

theorem copyFor_drain (q : Port) : (s.copyFor p).drains.get q
    = if q = p then ((s.drains.get p).fill s.now (s.log.awaiting (s.drains.get p))).1 else s.drains.get q :=
  PerPort.get_set _ _ _ _

theorem copyFor_frame : ∃ po, s.copyFor p = { s with
    drains := s.drains.set p ((s.drains.get p).fill s.now (s.log.awaiting (s.drains.get p))).1, ports := po } :=
  ⟨_, rfl⟩

theorem copyFor_quiet (h : s.log.awaiting (s.drains.get p) = []) : s.copyFor p = s := by
  unfold State.copyFor
  rewrite [h]
  simp only [Drain.fill, PortInterface.raiseTimes, PerPort.set_get]

end CopyFor

/-! ### DRAIN_ENABLE (R126, R127) -/

/-- While a channel enabled anew copies, its page X is the older one. -/
def XIsOlder (d : Drain) : Prop :=
  (d.toggle = .x ∧ d.y.owner = .part ∧ d.y.records = []) ∨ (d.toggle = .x ∧ d.x.owner = .port)
    ∨ (d.toggle = .y ∧ d.x.owner = .port ∧ d.y.owner = .part)

theorem xIsOlder_copyOne {d : Drain} (h : XIsOlder d) (can : d.canCopy = true) (now : Nat) (r : LogRecord) :
    XIsOlder (d.copyOne now r) ∧ ((d.copyOne now r).page (d.copyOne now r).toggle).owner = .part := by
  obtain ⟨-, part, -⟩ := canCopy_iff.1 can
  obtain ⟨page, -, -⟩ := d.copyOne_pages now r
  obtain ⟨-, -, same, -⟩ := d.copyOne_keeps now r
  refine ⟨?_, by rw [same, page]; exact part⟩
  unfold XIsOlder Drain.copyOne
  rcases h with ⟨toggle, y, empty⟩ | ⟨toggle, x⟩ | ⟨toggle, x, y⟩
  · simp only [toggle, Drain.setPage]
    exact .inl ⟨trivial, y, empty⟩
  · rewrite [toggle, Drain.page, x] at part
    cases part
  · simp only [toggle, Drain.setPage]
    exact .inr (.inr ⟨trivial, x, y⟩)

theorem xIsOlder_handOver {d : Drain} (h : XIsOlder d) (part : (d.page d.toggle).owner = .part) (c : HandoverCause) :
    XIsOlder (d.handOver c) := by
  unfold XIsOlder Drain.handOver
  rcases h with ⟨toggle, y, empty⟩ | ⟨toggle, x⟩ | ⟨toggle, x, y⟩
  · simp only [toggle, Drain.setPage, PageName.other]
    exact .inr (.inr ⟨trivial, trivial, y⟩)
  · rewrite [toggle, Drain.page, x] at part
    cases part
  · simp only [toggle, Drain.setPage, PageName.other]
    exact .inr (.inl ⟨trivial, x⟩)

theorem xIsOlder_fill {d : Drain} (h : XIsOlder d) (now : Nat) (w : List LogRecord) : XIsOlder (d.fill now w).1 := by
  induction w generalizing d with
  | nil => exact h
  | cons r rest ih =>
    unfold Drain.fill
    split
    next can =>
      obtain ⟨older, part⟩ := xIsOlder_copyOne h can now r
      dsimp only
      split
      · exact ih (xIsOlder_handOver older part _)
      · exact ih older
    · exact h

theorem held_of_xIsOlder {d : Drain} (h : XIsOlder d) : d.held = d.x.records ++ d.y.records := by
  rcases h with ⟨toggle, y, empty⟩ | ⟨toggle, x⟩ | ⟨toggle, x, y⟩
  · cases own : (d.page d.toggle).owner with
    | port =>
      rewrite [d.held_port own, toggle]
      rfl
    | part =>
      rewrite [d.held_part own, toggle]
      show d.y.records ++ d.x.records = _
      rw [empty, List.nil_append, List.append_nil]
  · rewrite [d.held_port (by rw [toggle]; exact x), toggle]
    rfl
  · rewrite [d.held_part (by rw [toggle]; exact y), toggle]
    rfl

section Enable

variable {s : State} {p : Port}

theorem exec_drainEnable {off : Bool} {sel : Nat} (code : boolOfCode sel = some off) :
    exec (.drainEnable p sel) s = .next
      (if off then
        if !(s.drains.get p).enabled then s.answered p .ok .none
        else if !(s.drains.get p.other).enabled && s.shotActive then s.answered p .noDrain .none
        else (((s.takeFrame p).setDrain p (s.drains.get p).disable).freeLog).respond p .ok .none
      else if (s.drains.get p).enabled then s.answered p .ok .none
      else (((s.takeFrame p).setDrain p ((s.drains.get p).enableAt s.log.freed)).copyFor p).respond p .ok .none) := by
  rewrite [exec, execDrainEnable, open_eq, code]
  rfl

theorem consumedBy_setDrain_none (s : State) (p : Port) {d : Drain} (h : d.consumedPos = none) :
    (s.setDrain p d).consumedBy = (s.drains.get p.other).consumedPos.getD (s.log.freed + s.log.records.length) := by
  cases p with
  | sequence =>
    show State.consumedBy { s with drains := ⟨d, s.drains.panel⟩ } = s.drains.panel.consumedPos.getD _
    unfold State.consumedBy
    simp only [h]
    cases s.drains.panel.consumedPos <;> rfl
  | panel =>
    show State.consumedBy { s with drains := ⟨s.drains.sequence, d⟩ } = s.drains.sequence.consumedPos.getD _
    unfold State.consumedBy
    simp only [h]
    cases s.drains.sequence.consumedPos <;> rfl

/-- What a channel enabled anew has copied. -/
theorem fill_enabledAt (d : Drain) (l : ReportLog) (now : Nat) :
    ∃ k, ((d.enableAt l.freed).fill now l.records).1.copyPos = some (l.freed + k) ∧ k ≤ l.records.length
      ∧ ((d.enableAt l.freed).fill now l.records).1.x.records ++ ((d.enableAt l.freed).fill now l.records).1.y.records
          = l.records.take k
      ∧ (k = l.records.length ∨ (((d.enableAt l.freed).fill now l.records).1.page
          ((d.enableAt l.freed).fill now l.records).1.toggle).owner = .port) := by
  have waits : l.awaiting (d.enableAt l.freed) = l.records := by
    simp [ReportLog.awaiting, Drain.enableAt]
  have older := xIsOlder_fill (d := d.enableAt l.freed) (.inl ⟨rfl, rfl, rfl⟩) now l.records
  obtain ⟨enabled, consumed⟩ := fill_keeps (d.enableAt l.freed) now l.records
  obtain ⟨holds, waitsForPort⟩ := Drain.fill_consistent now l l.records _ (d.enableAt_holds l) waits
  generalize ((d.enableAt l.freed).fill now l.records).1 = e at *
  obtain ⟨c, copy, isConsumed, isCopy, -, above, below, held, -⟩ := holds.enabled enabled
  obtain rfl : l.freed = c := Option.some.inj (consumed.symm.trans isConsumed)
  refine ⟨copy - l.freed, ?_, by omega, ?_, ?_⟩
  · rewrite [isCopy]
    congr 1
    omega
  · rw [← held_of_xIsOlder older, held, Nat.sub_self, List.drop_zero]
  · by_cases all : copy - l.freed = l.records.length
    · exact .inl all
    · refine .inr (waitsForPort ?_)
      rewrite [ReportLog.awaiting, isCopy]
      intro none
      have := List.drop_eq_nil_iff.1 none
      omega

end Enable

/-- Settles O33. -/
theorem drainEnableSwitchesAChannel : Obligations.DrainEnableSwitchesAChannel := by
  rintro p s _ rfl
  refine ⟨fun sel unknown => ?_, fun enabled => ?_, fun disabled => ?_, fun enabled other active => ?_,
    fun enabled allowed => ?_, fun disabled => ?_⟩
  · rewrite [exec, execDrainEnable, open_eq, Notify.boolOfCode_unknown sel unknown]
    rfl
  · rw [exec_drainEnable (off := false) rfl, if_neg Bool.false_ne_true, if_pos enabled]
  · rw [exec_drainEnable (off := true) rfl, if_pos rfl, disabled, if_pos (by rfl)]
  · have last : (!(s.drains.get p.other).enabled && s.shotActive) = true := by
      rewrite [other, (shotActive_iff s).2 active]
      rfl
    rw [exec_drainEnable (off := true) rfl, if_pos rfl, enabled, if_neg (by decide), if_pos last]
  · have notLast : ¬ (!(s.drains.get p.other).enabled && s.shotActive) = true := fun last => by
      rewrite [Bool.and_eq_true, Bool.not_eq_true', shotActive_iff] at last
      rcases allowed with other | idle
      · rewrite [last.1] at other
        cases other
      · exact last.2 idle
    rewrite [exec_drainEnable (off := true) rfl, if_pos rfl, enabled, if_neg (by decide), if_neg notLast, State.freeLog,
      consumedBy_setDrain_none _ p rfl]
    rfl
  · obtain ⟨k, copy, le, pages, stops⟩ := fill_enabledAt (s.drains.get p) s.log s.now
    have waits : s.log.awaiting ((s.drains.get p).enableAt s.log.freed) = s.log.records := by
      simp [ReportLog.awaiting, Drain.enableAt]
    obtain ⟨po, frame⟩ := copyFor_frame ((s.takeFrame p).setDrain p ((s.drains.get p).enableAt s.log.freed)) p
    have own : ((s.takeFrame p).setDrain p ((s.drains.get p).enableAt s.log.freed)).drains.get p
        = (s.drains.get p).enableAt s.log.freed := PerPort.get_set_same _ _ _
    have sameLog : ((s.takeFrame p).setDrain p ((s.drains.get p).enableAt s.log.freed)).log = s.log := rfl
    have sameNow : ((s.takeFrame p).setDrain p ((s.drains.get p).enableAt s.log.freed)).now = s.now := rfl
    rewrite [own, sameLog, waits, sameNow] at frame
    obtain ⟨enabled, consumed⟩ := fill_keeps ((s.drains.get p).enableAt s.log.freed) s.now s.log.records
    generalize (((s.drains.get p).enableAt s.log.freed).fill s.now s.log.records).1 = e at *
    have drain : (((s.takeFrame p).setDrain p ((s.drains.get p).enableAt s.log.freed)).drains.set p e).get p = e :=
      PerPort.get_set_same _ _ _
    have other : (((s.takeFrame p).setDrain p ((s.drains.get p).enableAt s.log.freed)).drains.set p e).get p.other
        = s.drains.get p.other := (PerPort.get_set_other _ _ _).trans (PerPort.get_set_other _ _ _)
    rewrite [exec_drainEnable (off := false) rfl, if_neg Bool.false_ne_true, disabled, if_neg Bool.false_ne_true, frame]
    refine ⟨_, k, rfl, rfl, respond_response _ _ _ _, other, ?_⟩
    simp only [respond_keeps, drain]
    exact ⟨enabled, consumed, copy, le, pages, stops⟩

/-! ### FLUSH_TIMER_EXPIRY (R120 to R122) -/

theorem handOver_eq (d : Drain) (c : HandoverCause) : d.handOver c =
    { d.setPage d.toggle { d.page d.toggle with owner := .port, number := (d.count + 1) % 65536, cause := some c } with
      count := (d.count + 1) % 65536, flush := none, toggle := d.toggle.other } := rfl

theorem awaiting_handOver (l : ReportLog) (d : Drain) (c : HandoverCause) : l.awaiting (d.handOver c) = l.awaiting d := by
  obtain ⟨-, copy, -⟩ := d.handOver_keeps c
  rw [ReportLog.awaiting, copy, ReportLog.awaiting]

set_option Elab.async false in
/-- Settles O35. -/
theorem flushHandsOverThePage : Obligations.FlushHandsOverThePage := by
  rintro p s _ rfl
  refine ⟨fun early => ?_, fun e flush reached none => ?_⟩
  · have notDue : ¬ s.flushDue p = true := fun due => by
      unfold State.flushDue at due
      split at due
      next e flush => exact absurd (of_decide_eq_true due) (Nat.not_le.2 (early e flush))
      next => cases due
    rw [exec, execFlushTimerExpiry, if_neg notDue]
  · have due : s.flushDue p = true := by
      rewrite [State.flushDue, flush]
      exact decide_eq_true reached
    have quiet : ((s.setDrain p ((s.drains.get p).handOver .flush)).raiseFor p .pageReady).log.awaiting
        (((s.setDrain p ((s.drains.get p).handOver .flush)).raiseFor p .pageReady).drains.get p) = [] := by
      show s.log.awaiting ((s.drains.set p ((s.drains.get p).handOver .flush)).get p) = []
      rw [PerPort.get_set_same, awaiting_handOver, none]
    rewrite [exec, execFlushTimerExpiry, if_pos due, copyFor_quiet _ _ quiet]
    rfl

end Sys2Proof.Proofs.Copying
end

section
/-! PROOF. READ_PAGE and RELEASE_PAGE (O34). -/

namespace Sys2Proof.Proofs.Pages

open Sys2Proof Sys2Proof.Machine Sys2Proof.Proofs.Answering Sys2Proof.Proofs.EditControl Sys2Proof.Proofs.Copying

section Commands

variable {s : State} {p : Port} {page first : Nat} {n : PageName}

theorem handed_iff {d : Drain} : d.handed n = true ↔ d.enabled = true ∧ (d.page n).owner = .port := by
  rw [Drain.handed, Bool.and_eq_true, decide_eq_true_iff]

theorem not_handed {d : Drain} (h : d.enabled = false ∨ (d.page n).owner = .part) : d.handed n = false := by
  refine Bool.eq_false_iff.2 fun handed => ?_
  obtain ⟨enabled, port⟩ := handed_iff.1 handed
  rcases h with h | h
  · rewrite [h] at enabled
    cases enabled
  · rewrite [h] at port
    cases port

theorem pageName_unknown (h : 1 < page) : PageName.ofCode page = none := by
  match page, h with
  | n + 2, _ => rfl

theorem bothHanded_iff {d : Drain} : d.bothHanded = true ↔ d.handed n = true ∧ d.handed n.other = true := by
  rewrite [Drain.bothHanded, Bool.and_eq_true]
  cases n
  · exact Iff.rfl
  · exact And.comm

/-! ### READ_PAGE (R123) -/

theorem exec_readPage (known : PageName.ofCode page = some n) :
    exec (.readPage p page first) s = .next
      (if 15 < first then s.answered p .range (.param .first)
      else if !(s.drains.get p).handed n then s.answered p .notReady .none
      else s.answered p .ok (.page n ((s.drains.get p).page n).number ((s.drains.get p).page n).cause
        ((s.drains.get p).page n).records.length ((((s.drains.get p).page n).records.drop first).take 8))) := by
  rewrite [exec, execReadPage, open_eq, known]
  rfl

theorem readPageAnswersRecords : ReadPageAnswersRecords := by
  rintro p s _ rfl
  refine ⟨wrongLengthRefused p rfl, fun page first unknown => ?_, fun page n first known => ⟨fun bad => ?_,
    fun good denied => ?_, fun good enabled owned => ?_⟩⟩
  · rewrite [exec, execReadPage, open_eq, pageName_unknown unknown]
    rfl
  · rw [exec_readPage known, if_pos bad]
  · rw [exec_readPage known, if_neg (by omega), not_handed denied, if_pos (by rfl)]
  · rw [exec_readPage known, if_neg (by omega), handed_iff.2 ⟨enabled, owned⟩, if_neg (by decide)]

/-! ### RELEASE_PAGE (R124, R125) -/

/-- The log after a release: freed up to what every enabled channel has consumed. -/
def logAfter (s : State) (p : Port) (consumed : Nat) : ReportLog :=
  s.log.freeTo (match (s.drains.get p.other).consumedPos with
    | some other => min consumed other
    | none => consumed)

/-- The state in which a page has been returned, before copying resumes. -/
def pageReturned (s : State) (p : Port) (n : PageName) (consumed : Nat) : State :=
  { (s.takeFrame p) with log := logAfter s p consumed, drains := s.drains.set p ((s.drains.get p).release n) }

theorem release_keeps (d : Drain) (n : PageName) :
    (d.release n).page n = { owner := .part, records := [], number := (d.page n).number, cause := none }
    ∧ (d.release n).page n.other = d.page n.other ∧ (d.release n).enabled = d.enabled
    ∧ (d.release n).toggle = d.toggle ∧ (d.release n).flush = d.flush ∧ (d.release n).copyPos = d.copyPos
    ∧ (d.release n).consumedPos = d.consumedPos.map (· + (d.page n).records.length) := by
  cases n <;> exact ⟨rfl, rfl, rfl, rfl, rfl, rfl, rfl⟩

theorem freeLog_release {consumed : Nat} (isConsumed : (s.drains.get p).consumedPos = some consumed) :
    (((s.takeFrame p).setDrain p ((s.drains.get p).release n)).freeLog)
      = pageReturned s p n (consumed + ((s.drains.get p).page n).records.length) := by
  have own : ((s.drains.get p).release n).consumedPos = some (consumed + ((s.drains.get p).page n).records.length) := by
    obtain ⟨-, -, -, -, -, -, consumedPos⟩ := release_keeps (s.drains.get p) n
    rewrite [consumedPos, isConsumed]
    rfl
  have consumedBy : ((s.takeFrame p).setDrain p ((s.drains.get p).release n)).consumedBy
      = match (s.drains.get p.other).consumedPos with
        | some other => min (consumed + ((s.drains.get p).page n).records.length) other
        | none => consumed + ((s.drains.get p).page n).records.length := by
    cases p with
    | sequence =>
      show (match ((s.drains.get .sequence).release n).consumedPos, s.drains.panel.consumedPos with
        | some a, some b => min a b | some a, none => a | none, some b => b | none, none => _) = _
      rewrite [own]
      cases h : s.drains.panel.consumedPos <;> simp only [Port.other, PerPort.get, h]
    | panel =>
      show (match s.drains.sequence.consumedPos, ((s.drains.get .panel).release n).consumedPos with
        | some a, some b => min a b | some a, none => a | none, some b => b | none, none => _) = _
      rewrite [own]
      cases h : s.drains.sequence.consumedPos <;> simp only [Port.other, PerPort.get, h, Nat.min_comm]
  rewrite [State.freeLog, consumedBy]
  rfl

theorem exec_releasePage_refused (known : PageName.ofCode page = some n) (denied : (s.drains.get p).handed n = false) :
    exec (.releasePage p page) s = .next (s.answered p .notOwner .none) := by
  have denied : (!((s.takeFrame p).drains.get p).handed n) = true := by
    show (!(s.drains.get p).handed n) = true
    rewrite [denied]
    rfl
  rewrite [exec, execReleasePage, open_eq, known]
  dsimp only
  rewrite [if_pos denied]
  rfl

theorem exec_releasePage_younger (known : PageName.ofCode page = some n) (handed : (s.drains.get p).handed n = true)
    (both : (s.drains.get p).handed n.other = true) (younger : n ≠ (s.drains.get p).toggle) :
    exec (.releasePage p page) s = .next (s.answered p .notOwner (.olderPage (s.drains.get p).toggle)) := by
  have owned : ¬ (!((s.takeFrame p).drains.get p).handed n) = true := by
    show ¬ (!(s.drains.get p).handed n) = true
    rewrite [handed]
    decide
  have second : (((s.takeFrame p).drains.get p).bothHanded && decide (n ≠ ((s.takeFrame p).drains.get p).toggle)) = true :=
    Bool.and_eq_true_iff.2 ⟨bothHanded_iff.2 ⟨handed, both⟩, decide_eq_true younger⟩
  rewrite [exec, execReleasePage, open_eq, known]
  dsimp only
  rewrite [if_neg owned, if_pos second]
  rfl

theorem exec_releasePage {consumed : Nat} (known : PageName.ofCode page = some n)
    (handed : (s.drains.get p).handed n = true)
    (older : n = (s.drains.get p).toggle ∨ ((s.drains.get p).page n.other).owner = .part)
    (isConsumed : (s.drains.get p).consumedPos = some consumed) :
    exec (.releasePage p page) s = .next (((pageReturned s p n
      (consumed + ((s.drains.get p).page n).records.length)).copyFor p).respond p .ok .none) := by
  have owned : ¬ (!((s.takeFrame p).drains.get p).handed n) = true := by
    show ¬ (!(s.drains.get p).handed n) = true
    rewrite [handed]
    decide
  have notSecond : ¬ (((s.takeFrame p).drains.get p).bothHanded && decide (n ≠ ((s.takeFrame p).drains.get p).toggle)) = true :=
    fun second => by
      obtain ⟨both, younger⟩ := Bool.and_eq_true_iff.1 second
      rcases older with same | other
      · exact of_decide_eq_true younger same
      · have both : (s.drains.get p).handed n.other = true := (bothHanded_iff.1 both).2
        rewrite [not_handed (.inr other)] at both
        cases both
  rewrite [exec, execReleasePage, open_eq, known]
  dsimp only
  rewrite [if_neg owned, if_neg notSecond, ← freeLog_release isConsumed]
  rfl

end Commands

/-- Records freed up to any place leave none waiting where none did. -/
theorem awaiting_freeTo_nil {l : ReportLog} {d e : Drain} (pos : Nat) (copy : e.copyPos = d.copyPos)
    (h : l.awaiting d = []) : (l.freeTo pos).awaiting e = [] := by
  unfold ReportLog.awaiting at h ⊢
  rewrite [copy]
  cases place : d.copyPos with
  | none => rfl
  | some c =>
    simp only [place] at h ⊢
    have all := List.drop_eq_nil_iff.1 h
    simp only [ReportLog.freeTo, List.drop_drop, List.drop_eq_nil_iff]
    omega

theorem releasePageConsumesRecords : ReleasePageConsumesRecords := by
  rintro p s _ rfl
  refine ⟨fun page unknown => ?_, fun page n known => ⟨fun denied => exec_releasePage_refused known (not_handed denied),
    fun enabled own both younger => exec_releasePage_younger known (handed_iff.2 ⟨enabled, own⟩)
      (handed_iff.2 ⟨enabled, both⟩) younger,
    fun consumed enabled own older isConsumed => ?_⟩⟩
  · rewrite [exec, execReleasePage, open_eq, pageName_unknown unknown]
    rfl
  · rewrite [exec_releasePage known (handed_iff.2 ⟨enabled, own⟩) older isConsumed]
    obtain ⟨page, other, -, toggle, -, copy, consumedPos⟩ := release_keeps (s.drains.get p) n
    rewrite [isConsumed] at consumedPos
    have drain : (pageReturned s p n (consumed + ((s.drains.get p).page n).records.length)).drains.get p
        = (s.drains.get p).release n := PerPort.get_set_same _ _ _
    have otherDrain : (pageReturned s p n (consumed + ((s.drains.get p).page n).records.length)).drains.get p.other
        = s.drains.get p.other := PerPort.get_set_other _ _ _
    refine ⟨_, rfl, rfl, respond_response _ _ _ _, ?_, ?_, fun waits => ?_⟩
    · simp only [respond_keeps]
      rw [copyFor_drain, if_neg (by cases p <;> decide), otherDrain]
    · simp only [respond_keeps]
      rewrite [copyFor_drain, if_pos rfl, (fill_keeps _ _ _).2, drain, consumedPos]
      rfl
    · have quiet : (pageReturned s p n (consumed + ((s.drains.get p).page n).records.length)).log.awaiting
          ((pageReturned s p n (consumed + ((s.drains.get p).page n).records.length)).drains.get p) = [] := by
        rewrite [drain]
        exact awaiting_freeTo_nil _ copy waits
      rewrite [copyFor_quiet _ _ quiet]
      simp only [respond_keeps, drain]
      exact ⟨page, other, copy, toggle⟩

/-! ### Copying resumes into the page returned (R120, R121, R124) -/

theorem raiseTimes_requests (q : PortInterface) (c : NotifyCause) (n : Nat) :
    (q.raiseTimes c (n + 1)).requests &&& c.bit = c.bit := by
  obtain ⟨grows, -⟩ := PortInterface.Grows.raiseTimes (q.raise c) c n
  have own : (q.raise c).requests &&& c.bit = c.bit := by
    show (q.requests ||| c.bit) &&& c.bit = c.bit
    rewrite [BitVec.and_comm, BitVec.or_comm]
    exact and_or_self _ _
  rewrite [BitVec.and_comm] at own grows ⊢
  exact and_absorb_trans _ _ _ own ((BitVec.and_comm _ _).trans grows)

/-- A page handed over while the port owns the other one ends the copying. -/
theorem fill_handover_last {d : Drain} {now : Nat} {r : LogRecord} {cause : HandoverCause} (rest : List LogRecord)
    (enabled : d.enabled = true) (part : (d.page d.toggle).owner = .part)
    (other : (d.page d.toggle.other).owner = .port)
    (calls : r.body.isShotEnd = true ∧ (d.page d.toggle).records.length < 16 ∧ cause = .shotEnd
      ∨ r.body.isShotEnd = false ∧ (d.page d.toggle).records.length = 15 ∧ cause = .pageFull) :
    d.fill now (r :: rest) = ((d.copyOne now r).handOver cause, 1) := by
  have stopped : (((d.copyOne now r).handOver cause).page ((d.copyOne now r).handOver cause).toggle).owner = .port := by
    obtain ⟨toggle, -, -, -, same⟩ := (d.copyOne now r).handOver_pages cause
    obtain ⟨-, -, sameToggle, -⟩ := d.copyOne_keeps now r
    obtain ⟨-, sameOther, -⟩ := d.copyOne_pages now r
    rw [toggle, same, sameToggle, sameOther, other]
  rw [fill_handover rest enabled part calls, fill_stopped rest (.inr stopped)]

/-- What a release of the older page leaves of its channel, with records copied into the page. -/
theorem filledWith_release {d : Drain} {consumed copy : Nat} (now : Nat) (w : List LogRecord) (flush : d.flush = none)
    (isConsumed : d.consumedPos = some consumed) (isCopy : d.copyPos = some copy) :
    filledWith (d.release d.toggle) now w
      = { d.setPage d.toggle { owner := .part, records := w, number := (d.page d.toggle).number, cause := none } with
          copyPos := some (copy + w.length)
          consumedPos := some (consumed + (d.page d.toggle).records.length)
          flush := if w = [] then none else some (now + 20000) } := by
  obtain ⟨_, copyPos, consumedPos, x, y, toggle, fl, _⟩ := d
  obtain rfl : copyPos = some copy := isCopy
  obtain rfl : consumedPos = some consumed := isConsumed
  obtain rfl : fl = none := flush
  cases toggle <;>
    simp only [filledWith, Drain.release, Drain.setPage, Drain.page, Option.map_some, List.nil_append, ne_eq, true_and,
      ite_not]

theorem copyOne_filledWith {d : Drain} (now : Nat) (w : List LogRecord) (r : LogRecord) :
    (filledWith d now w).copyOne now r = filledWith d now (w ++ [r]) := by
  induction w generalizing d with
  | nil => rw [filledWith_nil, List.nil_append, ← filledWith_copyOne, filledWith_nil]
  | cons a w ih => rw [← filledWith_copyOne, ih, filledWith_copyOne, List.cons_append]

section Resume

variable {s : State} {p : Port} {consumed copy : Nat} {w : List LogRecord}

/-- The state in which the older of two handed pages has been returned. -/
def olderReturned (s : State) (p : Port) (consumed : Nat) : State :=
  pageReturned s p (s.drains.get p).toggle (consumed + ((s.drains.get p).page (s.drains.get p).toggle).records.length)

theorem olderReturned_drain : (olderReturned s p consumed).drains.get p
    = (s.drains.get p).release (s.drains.get p).toggle := PerPort.get_set_same _ _ _

/-- The records that wait are those that waited before the release. -/
theorem olderReturned_waits (holds : (s.drains.get p).HoldsItsRecords s.log) (enabled : (s.drains.get p).enabled = true)
    (own : ((s.drains.get p).page (s.drains.get p).toggle).owner = .port)
    (isConsumed : (s.drains.get p).consumedPos = some consumed) :
    (olderReturned s p consumed).log.awaiting ((s.drains.get p).release (s.drains.get p).toggle)
      = s.log.awaiting (s.drains.get p) := by
  obtain ⟨-, -, -, -, -, copyPos, consumedPos⟩ := release_keeps (s.drains.get p) (s.drains.get p).toggle
  refine ((Drain.release_holds holds _ enabled own (.inl rfl)).freeTo _ fun c isC => ?_).2.trans ?_
  · rewrite [consumedPos, isConsumed] at isC
    obtain rfl := Option.some.inj isC
    split
    · exact Nat.min_le_left _ _
    · exact le_rfl
  · rw [ReportLog.awaiting, copyPos, ReportLog.awaiting]

theorem resumed_drain (waits : (olderReturned s p consumed).log.awaiting
      ((s.drains.get p).release (s.drains.get p).toggle) = w) (st : Status) (d : RespData) :
    (((olderReturned s p consumed).copyFor p).respond p st d).drains.get p
      = (((s.drains.get p).release (s.drains.get p).toggle).fill s.now w).1 := by
  simp only [respond_keeps]
  rewrite [copyFor_drain, if_pos rfl, olderReturned_drain, waits]
  rfl

theorem resumed_requests (waits : (olderReturned s p consumed).log.awaiting
      ((s.drains.get p).release (s.drains.get p).toggle) = w) (st : Status) (d : RespData) :
    ((((olderReturned s p consumed).copyFor p).respond p st d).ports.get p).requests
      = ((s.ports.get p).raiseTimes .pageReady
          (((s.drains.get p).release (s.drains.get p).toggle).fill s.now w).2).requests := by
  rewrite [respond_requests]
  show (((s.ports.set p _).get p : PortInterface)).requests = _
  rewrite [PerPort.get_set_same, olderReturned_drain, waits]
  rfl

end Resume

theorem filledWith_keeps (d : Drain) (now : Nat) (w : List LogRecord) :
    (filledWith d now w).enabled = d.enabled ∧ (filledWith d now w).toggle = d.toggle
    ∧ (filledWith d now w).page d.toggle = { d.page d.toggle with records := (d.page d.toggle).records ++ w }
    ∧ (filledWith d now w).page d.toggle.other = d.page d.toggle.other := by
  obtain ⟨_, _, _, _, _, toggle, _, _⟩ := d
  cases toggle <;> exact ⟨rfl, rfl, rfl, rfl⟩

theorem releaseResumesCopying : ReleaseResumesCopying := by
  rintro p s _ page consumed copy w rfl consistent enabled x y known isConsumed isCopy waiting
  have own : ∀ n, ((s.drains.get p).page n).owner = .port := fun n => by cases n <;> assumption
  obtain ⟨holds, -⟩ : (s.drains.get p).Consistent s.log := by
    cases p
    · exact consistent.1
    · exact consistent.2
  have flush : (s.drains.get p).flush = none := by
    obtain ⟨_, _, -, -, -, -, -, -, -, -, handed, -⟩ := holds.enabled enabled
    exact (handed (own _)).2
  obtain ⟨returned, other, keepsEnabled, toggle, -⟩ := release_keeps (s.drains.get p) (s.drains.get p).toggle
  have waits : (olderReturned s p consumed).log.awaiting ((s.drains.get p).release (s.drains.get p).toggle) = w := by
    rewrite [olderReturned_waits holds enabled (own _) isConsumed, ReportLog.awaiting, isCopy]
    exact waiting
  have page : ((s.drains.get p).release (s.drains.get p).toggle).page
      ((s.drains.get p).release (s.drains.get p).toggle).toggle
      = { owner := .part, records := [], number := ((s.drains.get p).page (s.drains.get p).toggle).number
          cause := none } := by rw [toggle, returned]
  have part : (((s.drains.get p).release (s.drains.get p).toggle).page
      ((s.drains.get p).release (s.drains.get p).toggle).toggle).owner = .part := by rw [page]
  have empty : (((s.drains.get p).release (s.drains.get p).toggle).page
      ((s.drains.get p).release (s.drains.get p).toggle).toggle).records.length = 0 := by rw [page]; rfl
  refine ⟨_, exec_releasePage known (handed_iff.2 ⟨enabled, own _⟩) (.inl rfl) isConsumed, fun few others => ?_,
    fun k r cause le others last calls => ?_⟩
  · have copied := fill_append (now := s.now) (rest := []) (keepsEnabled.trans enabled) part (by omega) others
    rewrite [List.append_nil, Drain.fill] at copied
    refine (resumed_drain waits _ _).trans ?_
    rewrite [copied]
    exact filledWith_release s.now w flush isConsumed isCopy
  · obtain ⟨lt, rfl⟩ := List.getElem?_eq_some_iff.1 last
    have whole : w = w.take k ++ w[k] :: w.drop (k + 1) := by
      rw [← List.drop_eq_getElem_cons lt, List.take_append_drop]
    have taken : (w.take k).length = k := List.length_take_of_le (Nat.le_of_lt lt)
    have first := fill_append (now := s.now) (rest := w[k] :: w.drop (k + 1)) (keepsEnabled.trans enabled) part
      (by omega) others
    obtain ⟨fEnabled, fToggle, fPage, fOther⟩ :=
      filledWith_keeps ((s.drains.get p).release (s.drains.get p).toggle) s.now (w.take k)
    have length : ((filledWith ((s.drains.get p).release (s.drains.get p).toggle) s.now (w.take k)).page
        (filledWith ((s.drains.get p).release (s.drains.get p).toggle) s.now (w.take k)).toggle).records.length = k := by
      rw [fToggle, fPage, List.length_append, empty, taken, Nat.zero_add]
    have final := fill_handover_last (now := s.now) (cause := cause) (w.drop (k + 1))
      (fEnabled.trans (keepsEnabled.trans enabled)) (by rw [fToggle, fPage]; exact part)
      (by rw [fToggle, fOther, toggle, other]; exact own _)
      (by rw [length]; exact calls.imp (fun h => ⟨h.1, le, h.2⟩) id)
    have copied := (congrArg (Drain.fill ((s.drains.get p).release (s.drains.get p).toggle) s.now) whole).trans
      (first.trans final)
    rewrite [copyOne_filledWith, List.take_append_getElem lt] at copied
    refine ⟨(resumed_drain waits _ _).trans ?_, ?_⟩
    · rewrite [copied]
      dsimp only
      rewrite [filledWith_release s.now _ flush isConsumed isCopy, List.length_take_of_le lt, handOver_eq]
      generalize s.drains.get p = d
      obtain ⟨_, _, _, _, _, toggle, _, _⟩ := d
      cases toggle <;> rfl
    · refine (congrArg (· &&& NotifyCause.pageReady.bit) (resumed_requests waits .ok .none)).trans ?_
      rewrite [copied]
      exact raiseTimes_requests _ _ 0

set_option Elab.async false in
/-- Settles O34. -/
theorem pagesAreReadAndReleased : Obligations.PagesAreReadAndReleased :=
  ⟨readPageAnswersRecords, releasePageConsumesRecords, releaseResumesCopying⟩

end Sys2Proof.Proofs.Pages
end

section
/-! PROOF. Records written, counted and copied (O36). -/

namespace Sys2Proof.Proofs.Records

open Sys2Proof Sys2Proof.Machine Sys2Proof.Proofs.Answering Sys2Proof.Proofs.Copying Sys2Proof.Proofs.Pages
  Sys2Proof.Proofs.DueActions Sys2Proof.Proofs.Outputs Sys2Proof.Proofs.Arming Sys2Proof.Proofs.EditControl

/-! ### The log takes a record or loses it (R111, R114) -/

theorem unreserved_iff (l : ReportLog) : 1 ≤ l.unreserved ↔ l.records.length + l.reservation < 1024 := by
  unfold ReportLog.unreserved ReportLog.free
  omega

theorem logTakesOrLoses : LogTakesOrLoses := by
  intro time b s
  refine ⟨offer_log s time b, fun r room => s.log.offered_write r ((unreserved_iff _).2 room), fun r full => ?_,
    writeShotEnd_log s time b, ?_⟩
  · have full : ¬ 1 ≤ s.log.unreserved := fun h => by
      have := (unreserved_iff _).1 h
      omega
    rw [ReportLog.offered, if_neg full, ReportLog.lose]
  · obtain ⟨dr, po, frame⟩ := offer_frame s time b
    rw [frame]

/-! ### Both channels copy a record at its write (R116, R120, R121) -/

section Both

variable (s : State) (p : Port)

theorem copyBoth_drain : s.copyBoth.drains.get p
    = ((s.drains.get p).fill s.now (s.log.awaiting (s.drains.get p))).1 := by
  cases p <;> rfl

theorem copyBoth_port : s.copyBoth.ports.get p
    = (s.ports.get p).raiseTimes .pageReady ((s.drains.get p).fill s.now (s.log.awaiting (s.drains.get p))).2 := by
  cases p <;> rfl

end Both

section Written

variable {s : State} {l : ReportLog} {r : LogRecord}

/-- A channel makes of a record at its write what the rules say. -/
theorem recordCopied_of (records : l.records = s.log.records ++ [r]) (freed : l.freed = s.log.freed) (d : Drain) :
    RecordCopied s r d (d.fill s.now (l.awaiting d)).1 := by
  rintro _ rfl
  refine ⟨fun stopped => ?_, fun enabled part copy => ?_⟩
  · rw [fill_stopped _ stopped]
  · have waits : l.awaiting d = [r] := by
      rewrite [ReportLog.awaiting, copy, records, freed]
      simp
    rewrite [waits]
    have copyOne : d.copyOne s.now r = { d.setPage d.toggle
          { d.page d.toggle with records := (d.page d.toggle).records ++ [r] } with
        copyPos := some (s.log.freed + s.log.records.length + 1)
        flush := if (d.page d.toggle).records = [] then some (s.now + 20000) else d.flush } := by
      simp only [Drain.copyOne, copy, Option.map_some, List.isEmpty_iff]
    refine ⟨fun other room => ?_, fun cause calls => ?_⟩
    · rw [fill_next [] enabled part room other, Drain.fill, copyOne]
    · rewrite [fill_handover [] enabled part calls, Drain.fill, copyOne, handOver_eq]
      obtain ⟨_, _, _, _, _, toggle, _, _⟩ := d
      cases toggle <;> rfl

end Written

section Offered

variable {s : State} {time : Nat} {b : RecordBody}

theorem offer_room (room : 1 ≤ s.log.unreserved) :
    s.offer time b = State.copyBoth { s with log := s.log.write (s.makeRecord time b) } := if_pos room

theorem recordCopied_offer (room : 1 ≤ s.log.unreserved) (p : Port) :
    RecordCopied s (s.makeRecord time b) (s.drains.get p) ((s.offer time b).drains.get p) := by
  rewrite [offer_room room, copyBoth_drain]
  exact recordCopied_of (s := s) (l := s.log.write (s.makeRecord time b)) rfl rfl _

theorem recordCopied_writeShotEnd (p : Port) :
    RecordCopied s (s.makeRecord time b) (s.drains.get p) ((s.writeShotEnd time b).drains.get p) := by
  rewrite [State.writeShotEnd, copyBoth_drain]
  exact recordCopied_of (s := s) (l := { s.log.write (s.makeRecord time b) with reservation := 0 }) rfl rfl _

theorem offer_full (full : s.log.unreserved = 0) : s.offer time b = { s with log := s.log.lose } :=
  if_neg (by omega)

end Offered

/-! ### PAGE_READY (R121) -/

/-- One record at most makes one handover at most, which the page count shows. -/
theorem fill_short {d : Drain} (now : Nat) {w : List LogRecord} (short : w.length ≤ 1) :
    ((d.fill now w).2 = 0 ∧ (d.fill now w).1.count = d.count)
    ∨ ((d.fill now w).2 = 1 ∧ (d.fill now w).1.count = (d.count + 1) % 65536) := by
  cases w with
  | nil => exact .inl ⟨rfl, rfl⟩
  | cons r rest =>
    obtain rfl : rest = [] := List.eq_nil_of_length_eq_zero (by rw [List.length_cons] at short; omega)
    have copied : (d.copyOne now r).count = d.count := by
      obtain ⟨_, _, _, _, _, toggle, _, _⟩ := d
      cases toggle <;> rfl
    cases can : d.canCopy with
    | false =>
      have fill : d.fill now [r] = (d, 0) := if_neg (Bool.eq_false_iff.1 can)
      rewrite [fill]
      exact .inl ⟨rfl, rfl⟩
    | true =>
      rewrite [Drain.fill, if_pos can]
      dsimp only
      cases (d.copyOne now r).causeAfter r with
      | none => exact .inl ⟨rfl, copied⟩
      | some c =>
        obtain ⟨-, -, count, -⟩ := (d.copyOne now r).handOver_pages c
        rewrite [copied] at count
        exact .inr ⟨rfl, count⟩

theorem raised_of_fill {d e : Drain} {q : PortInterface} {n : Nat}
    (h : (n = 0 ∧ e.count = d.count) ∨ (n = 1 ∧ e.count = (d.count + 1) % 65536)) :
    (q.raiseTimes .pageReady n).requests
      = if e.count = d.count then q.requests else q.requests ||| NotifyCause.pageReady.bit := by
  rcases h with ⟨rfl, same⟩ | ⟨rfl, next⟩
  · rewrite [if_pos same]
    rfl
  · rewrite [if_neg (by omega)]
    rfl

theorem awaiting_written {l : ReportLog} {d : Drain} (r : LogRecord) (h : l.awaiting d = []) :
    ((l.write r).awaiting d).length ≤ 1 := by
  unfold ReportLog.awaiting at h ⊢
  cases copy : d.copyPos with
  | none => exact Nat.zero_le _
  | some c =>
    simp only [copy, List.drop_eq_nil_iff] at h
    simp only [ReportLog.write, List.length_drop, List.length_append, List.length_singleton]
    omega

theorem pageReadyRaised_offer {s : State} (time : Nat) (b : RecordBody) (room : 1 ≤ s.log.unreserved)
    (ready : ∀ p : Port, s.log.awaiting (s.drains.get p) = []
      ∨ ((s.drains.get p).page (s.drains.get p).toggle).owner = .port) :
    PageReadyRaised s (s.offer time b) := fun p => by
  rewrite [offer_room room, copyBoth_drain, copyBoth_port]
  refine raised_of_fill ?_
  rcases ready p with none | port
  · exact fill_short _ (awaiting_written _ none)
  · exact .inl (by rw [fill_stopped _ (.inr port)]; exact ⟨rfl, rfl⟩)

/-! ### Two events that write a record -/

theorem setOutput_changes {s : State} {n : Fin 4} {level : Bool} {src : OutputSource}
    (changes : (s.outputs[n]'n.isLt).level ≠ level) (active : s.shotActive = true) :
    s.setOutput n level src = State.offer { s with outputs := s.outputs.set n { s.outputs[n]'n.isLt with level := level } n.isLt }
      (s.shotTime s.now) (.outputChange n level src) := by
  have active : State.shotActive { s with outputs := s.outputs.set n { s.outputs[n]'n.isLt with level := level } n.isLt } = true :=
    active
  simp only [State.setOutput, if_neg changes, if_pos active]
  rfl

theorem stateOutputIsCopied {s : State} {a : TimedAction} {n : Fin 4} {level : Bool} (due : s.dueAction = some a)
    (work : a.work = .stateOutput n level) (changes : (s.outputs[n]'n.isLt).level ≠ level) (active : s.seq.phase ≠ .idle)
    (room : 1 ≤ s.log.unreserved) :
    ∃ t, exec .stateOutputDue s = .next t
      ∧ ∀ p, RecordCopied s (s.makeRecord (s.shotTime s.now) (.outputChange n level .state))
          (s.drains.get p) (t.drains.get p) := by
  obtain ⟨t, i, w, o⟩ := a
  obtain rfl : w = .stateOutput n level := work
  refine ⟨s.dropDue.setOutput n level .state, by rw [exec, execStateOutputDue, due], fun p => ?_⟩
  rewrite [setOutput_changes (s := s.dropDue) changes ((shotActive_iff _).2 active)]
  exact recordCopied_offer (s := { s.dropDue with
    outputs := s.dropDue.outputs.set n { s.dropDue.outputs[n]'n.isLt with level := level } n.isLt }) room p

/-- The state of the return to IDLE, but for what its application point does. -/
def idleAgain (s : State) (st : ProgramStore) (po : PerPort PortInterface) : State :=
  { s with
    seq := { s.seq with phase := .idle, closingAt := none }
    synth := { s.synth with ramp := .powerOn }
    amp := { s.amp with channels := s.amp.channels.mapWith fun _ c => AmpChannel.returnToIdle c }
    peer := { s.peer with agreement := .none }
    store := st, ports := po }

theorem returnToIdle_frame (s : State) : ∃ st po, s.returnToIdle = idleAgain s st po := by
  obtain ⟨st, po, frame⟩ := applyPoint_frame (State.raiseBoth (idleAgain s s.store s.ports) .shotEnded)
  exact ⟨st, po, frame⟩

theorem shotEndIsCopied {s : State} (due : s.lingerDue = true) :
    ∃ t r, exec .closingLingerEnd s = .next t ∧ t.log.records = s.log.records ++ [r]
      ∧ r.body.isShotEnd = true ∧ ∀ p, RecordCopied s r (s.drains.get p) (t.drains.get p) := by
  obtain ⟨st, po, frame⟩ := returnToIdle_frame (s.writeShotEnd (s.shotTime s.now) s.shotEndBody)
  refine ⟨_, s.makeRecord (s.shotTime s.now) s.shotEndBody, by rw [exec, execClosingLingerEnd, if_pos due], ?_, rfl,
    fun p => ?_⟩
  · rewrite [frame]
    show (s.writeShotEnd (s.shotTime s.now) s.shotEndBody).log.records = _
    rw [writeShotEnd_log]
  · rewrite [frame]
    exact recordCopied_writeShotEnd p

theorem recordsAreCopied : RecordsAreCopied := fun s =>
  ⟨fun time b _ room => ⟨pageReadyRaised_offer time b room, recordCopied_offer room⟩,
    fun time b full => by rw [offer_full full]; exact ⟨rfl, rfl⟩,
    fun time b p _ => recordCopied_writeShotEnd p,
    fun a n level due work changes active room => stateOutputIsCopied due work changes active room,
    fun cause due _ => shotEndIsCopied due⟩

set_option Elab.async false in
/-- Settles O36. -/
theorem recordsAreWrittenOrCounted : Obligations.RecordsAreWrittenOrCounted := ⟨logTakesOrLoses, recordsAreCopied⟩

end Sys2Proof.Proofs.Records
end

section
/-! PROOF. SOFT_RESET (O37). -/

namespace Sys2Proof.Proofs.SoftReset

open Sys2Proof Sys2Proof.Machine Sys2Proof.Proofs.Answering Sys2Proof.Proofs.Invariants Sys2Proof.Proofs.EditControl

/-- The frames sent once SOFT_RESET has discarded a shot. -/
def sentAtReset (s : State) : List PeerFrame :=
  if s.seq.phase ≠ .idle ∧ s.seq.peerLinked = true ∧ s.peer.link = .up
  then s.peer.sent ++ [.abort .aborted] else s.peer.sent

theorem discard_eq (s : State) :
    (if s.peerShot then s.send (.abort .aborted) else s) = { s with peer := { s.peer with sent := sentAtReset s } } := by
  have peerShot : s.peerShot = true ↔ s.seq.phase ≠ .idle ∧ s.seq.peerLinked = true := by
    rw [State.peerShot, Bool.and_eq_true, shotActive_iff]
  unfold sentAtReset
  by_cases peer : s.seq.phase ≠ .idle ∧ s.seq.peerLinked = true
  · rewrite [if_pos (peerShot.2 peer)]
    by_cases up : s.peer.link = .up
    · rw [State.send, if_pos up, if_pos ⟨peer.1, peer.2, up⟩]
    · rw [State.send, if_neg up, if_neg fun h => up h.2.2]
  · rw [if_neg (mt peerShot.1 peer), if_neg fun h => peer ⟨h.1, h.2.1⟩]

/-- The state after soft reset, but for the components that hold many. -/
def resetWith (s : State) (sl : Vector Slot 32) (ch : PerChannel AmpChannel) (ou : Vector Output 4) (dr : PerPort Drain)
    (po : PerPort PortInterface) : State :=
  { s with
    store := { s.store with slots := sl }, edit := { s.edit with hold := { sequence := false, panel := false } }
    seq := { Sequencer.powerOn with shotNumber := s.seq.shotNumber }
    synth := Synthesizer.powerOn s.store.config
    amp := { s.amp with channels := ch }
    outputs := ou
    breaker := { s.breaker with poles := { a := .powerOn, b := .powerOn, c := .powerOn } }
    assess := none, log := .empty, drains := dr
    time := s.time.softReset
    actions := { s.actions with entries := [] }
    peer := s.peer.softReset
    tp := s.tp.softReset
    guard := { s.guard with period := 0, expiry := none, latches := FaultLatches.allClear }
    ports := po }

theorem softReset_output (s : State) (n : Fin 4) :
    (s.outputs.map Output.softReset)[n]'n.isLt = { role := (s.outputs[n]'n.isLt).role, level := ResetLevel (s.outputs[n]'n.isLt) } := by
  have output : (s.outputs.map Output.softReset)[n]'n.isLt = (s.outputs[n]'n.isLt).softReset := Vector.getElem_map _ n.isLt
  rewrite [output]
  cases s.outputs[n]'n.isLt with
  | mk role level => cases role <;> rfl

/-- What soft reset gives each slot, amplifier channel, output, drain channel and port. -/
theorem softReset_frame (s : State) : ∃ sl ch ou dr po, s.softReset = resetWith s sl ch ou dr po
    ∧ (∀ i : Fin 32, sl[i]'i.isLt = { s.store.slots[i]'i.isLt with staged := none })
    ∧ (∀ c, ch.get c = { s.amp.channels.get c with status := .ok, overload := 0, missing := 0 })
    ∧ (∀ n : Fin 4, ou[n]'n.isLt = { role := (s.outputs[n]'n.isLt).role, level := ResetLevel (s.outputs[n]'n.isLt) })
    ∧ (∀ q, dr.get q = if (s.drains.get q).enabled then Drain.powerOn
            else { Drain.powerOn with enabled := false, copyPos := none, consumedPos := none })
    ∧ ∀ q, po.get q = { s.ports.get q with requests := 0, repeated := 0 } := by
  refine ⟨_, _, _, _, _, rfl, fun i => ?_, fun c => ?_, fun n => softReset_output s n, fun q => ?_, fun q => ?_⟩
  · exact mapSlots_fin _ _ i
  · exact PerChannel.get_mapWith _ _ c
  · exact PerPort.get_map _ _ q
  · exact PerPort.get_map _ _ q

theorem exec_softReset {s : State} {p : Port} (allowed : s.excluded p = false) :
    exec (.softReset p) s = .next ((State.softReset { s.takeFrame p with
      peer := { s.peer with sent := sentAtReset s } }).respond p .ok
        (.flag (if s.seq.phase = .idle then .none else .shotDiscarded))) := by
  have flag : (if (s.takeFrame p).shotActive = true then ResponseFlag.shotDiscarded else ResponseFlag.none)
      = if s.seq.phase = .idle then .none else .shotDiscarded := by
    rewrite [shotActive_takeFrame]
    by_cases idle : s.seq.phase = .idle
    · rw [if_pos idle, if_neg fun active => (shotActive_iff s).1 active idle]
    · rw [if_neg idle, if_pos ((shotActive_iff s).2 idle)]
  rewrite [exec, execSoftReset, gated_allowed _ allowed]
  dsimp only
  rewrite [flag, discard_eq]
  rfl

set_option Elab.async false in
/-- Settles O37. -/
theorem softResetTakesEffect : Obligations.SoftResetTakesEffect := by
  intro p s allowed
  obtain ⟨sl, ch, ou, dr, po, frame, slots, channels, outputs, drains, ports⟩ :=
    softReset_frame { s.takeFrame p with peer := { s.peer with sent := sentAtReset s } }
  rewrite [exec_softReset allowed, frame]
  refine ⟨_, rfl, rfl, rfl, slots, channels, outputs, drains, ?_, ?_⟩
  · simp only [resetWith, respond_ports, PerPort.get_set_same, ports]
    rfl
  · simp only [resetWith, respond_ports, PerPort.get_set_other, ports]
    rfl

end Sys2Proof.Proofs.SoftReset
end

section
/-! PROOF. The end of a visit in the log, and hard aborts. -/

namespace Sys2Proof.Proofs.Ending

open Sys2Proof Sys2Proof.Machine Sys2Proof.Proofs.Answering Sys2Proof.Proofs.Arming Sys2Proof.Proofs.Aborting
  Sys2Proof.Proofs.Records

/-! ### The log after the end of a visit (R29, R107, R108, R115) -/

theorem offerAll_log_eq (l : List RecordBody) (s : State) (time : Nat) :
    (s.offerAll time l).log = l.foldl (fun m b => m.offered (s.makeRecord time b)) s.log := by
  induction l generalizing s with
  | nil => rfl
  | cons b rest ih =>
    obtain ⟨dr, po, frame⟩ := offer_frame s time b
    rewrite [State.offerAll, ih, frame, List.foldl_cons]
    rfl

/-- The log that the end of the visit leaves. -/
def endLog (s : State) (byAbort : Bool) : ReportLog :=
  match s.seq.visit with
  | none => s.log
  | some v => (s.visitBodies byAbort v).foldl (fun m b => m.offered (s.makeRecord (s.shotTime s.now) b))
      (s.visitClosed byAbort).log

theorem endVisit_log (s : State) (byAbort : Bool) : (s.endVisit byAbort).log = endLog s byAbort := by
  unfold endLog
  split
  next visit => rw [endVisit_none s byAbort visit]
  next v visit =>
    rewrite [endVisit_some s byAbort v visit, offerAll_log_eq]
    rfl

theorem foldl_offered_verdicts {α : Type} (f : α → LogRecord) (l : List α) (m : ReportLog) :
    (l.foldl (fun m b => m.offered (f b)) m).verdicts = m.verdicts := by
  induction l generalizing m with
  | nil => rfl
  | cons b rest ih => rw [List.foldl_cons, ih, ReportLog.offered_verdicts]

theorem offered_unreserved {m : ReportLog} (r : LogRecord) (room : 1 ≤ m.unreserved) :
    (m.offered r).unreserved + 1 = m.unreserved := by
  rewrite [m.offered_write r room]
  simp only [ReportLog.unreserved, ReportLog.free, List.length_append, List.length_singleton] at room ⊢
  omega

theorem foldl_offered_records {α : Type} (f : α → LogRecord) (l : List α) {m : ReportLog}
    (room : l.length ≤ m.unreserved) :
    (l.foldl (fun m b => m.offered (f b)) m).records = m.records ++ l.map f := by
  induction l generalizing m with
  | nil => rw [List.foldl_nil, List.map_nil, List.append_nil]
  | cons b rest ih =>
    rewrite [List.length_cons] at room
    have first : 1 ≤ m.unreserved := by omega
    have left := offered_unreserved (f b) first
    rewrite [List.foldl_cons, ih (by omega), m.offered_write _ first, List.map_cons, List.append_assoc]
    rfl

theorem assessmentBodies_length (state : Fin 32) (byAbort : Bool) (entry n : Nat) (l : List Capturing) :
    (assessmentBodies state byAbort entry n l).length = l.length := by
  induction l generalizing n with
  | nil => rfl
  | cons c rest ih => rw [assessmentBodies, List.length_cons, ih, List.length_cons]

theorem insertAt_length (b : RecordBody) (k : Nat) (l : List RecordBody) : (insertAt b k l).length = l.length + 1 := by
  induction l generalizing k with
  | nil => cases k <;> rfl
  | cons x rest ih =>
    cases k with
    | zero => rfl
    | succ k => rw [insertAt, List.length_cons, ih, List.length_cons]

theorem visitBodies_length (s : State) (byAbort : Bool) (v : Visit) :
    (s.visitBodies byAbort v).length ≤ CaptureCount s + 1 := by
  have captures : ((s.assess.map (·.captures)).getD []).length = CaptureCount s := by
    unfold CaptureCount
    cases s.assess <;> rfl
  unfold State.visitBodies
  dsimp only
  split
  · rw [insertAt_length, assessmentBodies_length, captures]
  · rewrite [assessmentBodies_length, captures]
    exact Nat.le_succ _

/-! ### A visit that ends after a cause has been taken -/

/-- A state with a cause taken and its record offered. -/
def caused (s : State) (e : Option EndCause) (k : Option AbortCause) (l : ReportLog) (pe : PeerLink)
    (dr : PerPort Drain) (po : PerPort PortInterface) : State :=
  { s with
    seq := { s.seq with endCause := e, secondary := k, endAtExit := false }
    log := l, peer := pe, drains := dr, ports := po }

section Caused

variable {s : State} {e : Option EndCause} {k : Option AbortCause} {l : ReportLog} {pe : PeerLink} {dr : PerPort Drain}
  {po : PerPort PortInterface} {byAbort : Bool}

/-- The verdicts and the records of the visit's end are those that it would have without the cause. -/
theorem visitEndLogged_caused {t : State} {first : List LogRecord} (sameVerdicts : l.verdicts = s.log.verdicts)
    (logged : first.length ≤ s.log.unreserved → l.records = s.log.records ++ first
      ∧ l.unreserved + first.length = s.log.unreserved)
    (verdicts : t.log.verdicts = ((caused s e k l pe dr po).endVisit byAbort).log.verdicts)
    (extended : ((caused s e k l pe dr po).endVisit byAbort).log.records <+: t.log.records) :
    VisitEndLogged s t byAbort first := by
  unfold VisitEndLogged
  rewrite [endVisit_log] at verdicts extended ⊢
  unfold endLog at verdicts extended ⊢
  cases visit : s.seq.visit with
  | none =>
    have visit' : (caused s e k l pe dr po).seq.visit = none := visit
    simp only [visit'] at verdicts extended
    refine ⟨verdicts.trans sameVerdicts, fun room => ?_⟩
    obtain ⟨records, -⟩ := logged (by omega)
    obtain ⟨more, extended⟩ := extended
    refine ⟨[], more, (List.append_nil _).symm, ?_⟩
    rewrite [← extended, List.append_nil, ← records]
    rfl
  | some v =>
    have visit' : (caused s e k l pe dr po).seq.visit = some v := visit
    simp only [visit'] at verdicts extended
    refine ⟨?_, fun room => ?_⟩
    · rewrite [verdicts, foldl_offered_verdicts, foldl_offered_verdicts]
      exact congrArg (fun w => countVerdicts byAbort _ w _) sameVerdicts
    · obtain ⟨records, left⟩ := logged (by omega)
      have length := visitBodies_length s byAbort v
      obtain ⟨more, extended⟩ := extended
      refine ⟨(s.visitBodies byAbort v).map (s.makeRecord (s.shotTime s.now)), more, ?_, ?_⟩
      · refine foldl_offered_records _ _ ?_
        show _ ≤ s.log.unreserved
        omega
      · rw [← extended, foldl_offered_records]
        · show l.records ++ _ ++ more = _
          rewrite [records]
          rfl
        · show (s.visitBodies byAbort v).length ≤ l.unreserved
          omega

/-- What the end of the visit and the entry to CLOSING leave once a cause has been taken. -/
theorem caused_closes {u : State} (taken : u = caused s e k l pe dr po) (active : s.seq.phase ≠ .idle) :
    ClosingEntered s (u.endVisit byAbort).enterClosing
    ∧ (u.endVisit byAbort).enterClosing.seq.endCause = e ∧ (u.endVisit byAbort).enterClosing.seq.secondary = k
    ∧ (u.endVisit byAbort).enterClosing.peer = pe
    ∧ (u.endVisit byAbort).enterClosing.log.verdicts = (u.endVisit byAbort).log.verdicts
    ∧ (u.endVisit byAbort).log.records <+: (u.endVisit byAbort).enterClosing.log.records
    ∧ (s.seq.visit ≠ none → (u.endVisit byAbort).enterClosing.assess = none)
    ∧ (u.endVisit byAbort).enterClosing.time = s.time
    ∧ (u.endVisit byAbort).enterClosing.guard = { s.guard with expiry := none } := by
  subst taken
  obtain ⟨-, -, -, synth, -, -, outputs, breaker, time, peer, tp, guard, visit, phase, endCause, secondary⟩ :=
    endVisit_fields (caused s e k l pe dr po) byAbort
  obtain ⟨actions, assess⟩ : ((∀ a ∈ ((caused s e k l pe dr po).endVisit byAbort).actions.entries, a ∈ s.actions.entries)
      ∧ ∀ a ∈ s.actions.entries, a.work.isPole = true → a.owner = none →
        a ∈ ((caused s e k l pe dr po).endVisit byAbort).actions.entries)
      ∧ (s.seq.visit ≠ none → ((caused s e k l pe dr po).endVisit byAbort).assess = none) := by
    cases visit : s.seq.visit with
    | none =>
      rewrite [endVisit_none (caused s e k l pe dr po) byAbort visit]
      exact ⟨⟨fun _ mem => mem, fun _ mem _ _ => mem⟩, fun h => absurd rfl h⟩
    | some v =>
      obtain ⟨-, assess, actions⟩ := endVisit_seq (caused s e k l pe dr po) byAbort v visit
      rewrite [actions]
      refine ⟨⟨fun a mem => List.mem_of_mem_filter mem, fun a mem _ free => ?_⟩, fun _ => assess⟩
      exact List.mem_filter.2 ⟨mem, Option.isNone_iff_eq_none.2 free⟩
  have active : ((caused s e k l pe dr po).endVisit byAbort).seq.phase ≠ .idle := by
    rewrite [phase]
    exact active
  obtain ⟨closingSeq, closingGuard, -, -, closingAssess, -, -, closingTime, closingPeer⟩ := enterClosing_fields _ visit
  rewrite [closingSeq, closingGuard, closingAssess, closingTime, closingPeer]
  refine ⟨closingEntered_of visit time ?_ synth breaker tp outputs actions.1 actions.2, endCause, secondary, peer,
    enterClosing_verdicts visit, (Winds.enterClosing _ active).extends_, assess, time, ?_⟩
  · rewrite [guard]
    rfl
  · rewrite [guard]
    rfl

end Caused

/-! ### Hard aborts (R38 to R40) -/

section Hard

variable {s : State} (c : AbortCause)

/-- The records and the room of a log to which one record has been offered with a slot free. -/
theorem offered_logged (m : ReportLog) (r : LogRecord) (room : [r].length ≤ m.unreserved) :
    (m.offered r).records = m.records ++ [r] ∧ (m.offered r).unreserved + [r].length = m.unreserved :=
  ⟨by rw [m.offered_write r room], offered_unreserved r room⟩

/-- A first cause ends the visit, where there is one, and CLOSING begins. -/
theorem closes_firstCause {pe : PeerLink} {dr : PerPort Drain} {po : PerPort PortInterface} {t : State}
    (closes : t = ((caused s (some (.abort c)) s.seq.secondary (s.log.offered (abortRecord s c)) pe dr po).endVisit
      true).enterClosing) (active : s.seq.phase ≠ .idle) :
    RecordFirst s t (s.shotTime s.now) (.abort c false)
    ∧ VisitEndLogged s t true [s.makeRecord (s.shotTime s.now) (.abort c false)] := by
  subst closes
  obtain ⟨-, -, -, -, verdicts, extended, -⟩ := caused_closes (byAbort := true) (s := s) rfl active
  refine ⟨recordFirst_of rfl ?_, visitEndLogged_caused (s.log.offered_verdicts _) (offered_logged _ _) verdicts extended⟩
  exact (Winds.endVisit _ true).extends_.trans extended

/-- The link once a first cause has been taken. -/
def peerAfter (s : State) (c : AbortCause) : PeerLink :=
  { s.peer with agreement := if s.seq.phase = .armed then .none else s.peer.agreement, sent := SentWithAbort s c }

theorem hardAbort_first
    (phase : s.seq.phase = .armed ∧ s.seq.visit = none ∨ s.seq.phase = .running ∧ s.seq.endCause = none) :
    ∃ dr po, s.hardAbort c = ((caused s (some (.abort c)) s.seq.secondary (s.log.offered (abortRecord s c))
      (peerAfter s c) dr po).endVisit true).enterClosing := by
  rcases phase with ⟨armed, visit⟩ | ⟨running, first⟩
  · obtain ⟨dr, po, closes⟩ := abortArmed_eq s c
    refine ⟨dr, po, ?_⟩
    rewrite [endVisit_none (caused s _ _ _ _ dr po) true visit, State.hardAbort, armed]
    dsimp only
    rewrite [closes, peerAfter, armed, if_pos rfl]
    rfl
  · obtain ⟨dr, po, frame⟩ := takeEndCause_frame s c
    refine ⟨dr, po, ?_⟩
    rewrite [State.hardAbort, running]
    dsimp only
    rewrite [State.takeRunningCause, first]
    dsimp only
    rewrite [frame, peerAfter, running, if_neg (by decide)]
    rfl

theorem hardAbort_later
    (phase : s.seq.phase = .rampingDown ∧ s.seq.visit = none ∨ s.seq.phase = .running ∧ s.seq.endCause ≠ none) :
    ∃ dr po, s.hardAbort c = ((caused s s.seq.endCause (some (s.seq.secondary.getD c)) (secondaryLog s c) s.peer
      dr po).endVisit true).enterClosing := by
  obtain ⟨dr, po, frame, -⟩ := takeSecondary_frame s c
  refine ⟨dr, po, ?_⟩
  rcases phase with ⟨down, visit⟩ | ⟨running, later⟩
  · rewrite [endVisit_none (caused s _ _ _ _ dr po) true visit, State.hardAbort, down]
    dsimp only
    rewrite [frame]
    rfl
  · obtain ⟨x, cause⟩ := Option.ne_none_iff_exists'.1 later
    rewrite [State.hardAbort, running]
    dsimp only
    rewrite [State.takeRunningCause, cause]
    dsimp only
    rewrite [frame, ← cause]
    rfl

/-- A hard abort that closes the shot. -/
def HardAborts (s t : State) (c : AbortCause) : Prop :=
  HardAborted s t c ∧ t.time = s.time ∧ t.guard = { s.guard with expiry := none }

theorem hardAborts_first
    (phase : s.seq.phase = .armed ∧ s.seq.visit = none ∨ s.seq.phase = .running ∧ s.seq.endCause = none) :
    HardAborts s (s.hardAbort c) c := by
  have active : s.seq.phase ≠ .idle := by
    rcases phase with ⟨phase, -⟩ | ⟨phase, -⟩ <;> rw [phase] <;> decide
  obtain ⟨dr, po, closes⟩ := hardAbort_first c phase
  obtain ⟨record, logged⟩ := closes_firstCause c closes active
  obtain ⟨entered, endCause, secondary, peer, -, -, assess, time, guard⟩ := caused_closes (byAbort := true) (s := s)
    (e := some (.abort c)) (k := s.seq.secondary) (l := s.log.offered (abortRecord s c)) (pe := peerAfter s c)
    (dr := dr) (po := po) rfl active
  rewrite [← closes] at entered endCause secondary peer assess time guard
  refine ⟨⟨entered, fun _ _ => ⟨endCause, secondary, peer, record, logged⟩, fun later => ?_, fun _ => assess⟩, time, guard⟩
  rcases phase with ⟨armed, -⟩ | ⟨running, none⟩
  · rewrite [armed] at later
    rcases later with h | ⟨h, -⟩ <;> cases h
  · rewrite [running] at later
    rcases later with h | ⟨-, h⟩
    · cases h
    · exact absurd none h

theorem hardAborts_later
    (phase : s.seq.phase = .rampingDown ∧ s.seq.visit = none ∨ s.seq.phase = .running ∧ s.seq.endCause ≠ none) :
    HardAborts s (s.hardAbort c) c := by
  have active : s.seq.phase ≠ .idle := by
    rcases phase with ⟨phase, -⟩ | ⟨phase, -⟩ <;> rw [phase] <;> decide
  obtain ⟨dr, po, closes⟩ := hardAbort_later c phase
  obtain ⟨entered, endCause, secondary, peer, verdicts, extended, assess, time, guard⟩ := caused_closes (byAbort := true)
    (s := s) (e := s.seq.endCause) (k := some (s.seq.secondary.getD c)) (l := secondaryLog s c) (pe := s.peer)
    (dr := dr) (po := po) rfl active
  have earlier := (Winds.endVisit (caused s s.seq.endCause (some (s.seq.secondary.getD c)) (secondaryLog s c) s.peer
    dr po) true).extends_.trans extended
  have logged : ∀ first : List LogRecord, (secondaryLog s c).verdicts = s.log.verdicts →
      (first.length ≤ s.log.unreserved → (secondaryLog s c).records = s.log.records ++ first
        ∧ (secondaryLog s c).unreserved + first.length = s.log.unreserved) →
      VisitEndLogged s (s.hardAbort c) true first := fun first same logged => by
    rewrite [closes]
    exact visitEndLogged_caused same logged verdicts extended
  rewrite [← closes] at entered endCause secondary peer assess time guard earlier
  refine ⟨⟨entered, fun _ none => ?_, fun _ => ⟨endCause, secondary, peer, fun first => ?_, fun later => ?_⟩, fun _ => assess⟩,
    time, guard⟩
  · rcases phase with ⟨down, -⟩ | ⟨-, later⟩
    · next early =>
      rewrite [down] at early
      rcases early with h | h <;> cases h
    · exact absurd none later
  · have log : secondaryLog s c = s.log.offered (abortRecord s c) := if_pos first
    rewrite [log] at logged
    exact ⟨recordFirst_of log earlier, logged _ (s.log.offered_verdicts _) (offered_logged _ _)⟩
  · have log : secondaryLog s c = s.log := if_neg later
    rewrite [log] at logged
    exact logged [] rfl fun _ => ⟨(List.append_nil _).symm, rfl⟩

theorem hardAborts
    (phase : s.seq.phase = .running ∨ s.seq.visit = none ∧ (s.seq.phase = .armed ∨ s.seq.phase = .rampingDown)) :
    HardAborts s (s.hardAbort c) c := by
  rcases phase with running | ⟨visit, armed | down⟩
  · by_cases first : s.seq.endCause = none
    · exact hardAborts_first c (.inr ⟨running, first⟩)
    · exact hardAborts_later c (.inr ⟨running, first⟩)
  · exact hardAborts_first c (.inl ⟨armed, visit⟩)
  · exact hardAborts_later c (.inl ⟨down, visit⟩)

end Hard

/-! ### What stands beside the shot -/

section Beside

variable {s t : State} {g : Guard} {am : AmplifierLink} {po : PerPort PortInterface} {c : AbortCause}

/-- A state with another guard, amplifier link and ports. -/
def beside (s : State) (g : Guard) (am : AmplifierLink) (po : PerPort PortInterface) : State :=
  { s with guard := g, amp := am, ports := po }

theorem closingEntered_beside (period : g.period = s.guard.period) (h : ClosingEntered (beside s g am po) t) :
    ClosingEntered s t := by
  obtain ⟨h1, h2, h3, h4, h5, h6, h7, h8, h9, h10, samePeriod, rest⟩ := h
  exact ⟨h1, h2, h3, h4, h5, h6, h7, h8, h9, h10, samePeriod.trans period, rest⟩

theorem abortedInArmed_beside (period : g.period = s.guard.period) (h : AbortedInArmed (beside s g am po) t c) :
    AbortedInArmed s t c := ⟨closingEntered_beside period h.1, h.2⟩

set_option Elab.async false in
theorem hardAborted_beside (period : g.period = s.guard.period) (h : HardAborted (beside s g am po) t c) :
    HardAborted s t c := by
  have log : ((beside s g am po).endVisit true).log = (s.endVisit true).log := by
    rewrite [endVisit_log, endVisit_log]
    rfl
  obtain ⟨entered, taken⟩ := h
  refine ⟨closingEntered_beside period entered, ?_⟩
  unfold HardAbortTaken VisitEndLogged at taken ⊢
  rewrite [log] at taken
  exact taken

end Beside

end Sys2Proof.Proofs.Ending
end

section
/-! PROOF. The E-STOP line and the keepalive timer (O38). -/

namespace Sys2Proof.Proofs.Guarding

open Sys2Proof Sys2Proof.Machine Sys2Proof.Proofs.Answering Sys2Proof.Proofs.Arming Sys2Proof.Proofs.Aborting
  Sys2Proof.Proofs.Ending Sys2Proof.Proofs.Pages

/-! ### GUARD_ABORT (R163, R171) -/

/-- Causes raised stay raised. -/
theorem raised_of_grows {s t : State} {c : NotifyCause} (grows : ∀ q, ((s.ports.get q).raise c).Grows (t.ports.get q)) :
    Raised s t c := fun q => by
  obtain ⟨requests, repeated, -⟩ := grows q
  have own (a b : CauseSet) : (a ||| b) &&& b = b := by
    rewrite [BitVec.and_comm, BitVec.or_comm]
    exact and_or_self _ _
  have keeps {a b x : CauseSet} (mem : a &&& x = x) (grows : a &&& b = a) : b &&& x = x := by
    rewrite [BitVec.and_comm] at mem ⊢
    exact and_absorb_trans _ _ _ mem grows
  refine ⟨keeps (own _ _) requests, fun held => keeps ?_ repeated⟩
  show ((s.ports.get q).repeated ||| ((s.ports.get q).requests &&& c.bit)) &&& c.bit = c.bit
  rewrite [held]
  exact own _ _

/-- The state in which the guard hands a cause to the sequencer, its own items and the amplifier link already
changed. -/
def handing (s : State) (g : Guard) (am : AmplifierLink) : State :=
  beside s g am (s.ports.map fun q => q.raise .guardAbort)

section Handing

variable {s : State} {g : Guard} {am : AmplifierLink}

theorem raised_handing {t : State} (grows : ∀ q, ((handing s g am).ports.get q).Grows (t.ports.get q)) :
    Raised s t .guardAbort := raised_of_grows fun q => by
  have port : (handing s g am).ports.get q = (s.ports.get q).raise .guardAbort := PerPort.get_map _ _ q
  rewrite [← port]
  exact grows q

/-- What a hard abort that the guard hands over leaves as it was. -/
structure HandedKeeps (s : State) (g : Guard) (am : AmplifierLink) (t : State) : Prop where
  pending : t.pending = s.pending
  store : t.store = s.store
  edit : t.edit = s.edit
  amp : t.amp = am
  inputs : t.inputs = s.inputs
  time : t.time = s.time
  guard : t.guard = { g with expiry := none }

theorem hardAbort_handed (c : AbortCause) (period : g.period = s.guard.period)
    (ends : s.seq.phase = .running ∨ s.seq.visit = none ∧ (s.seq.phase = .armed ∨ s.seq.phase = .rampingDown)) :
    HardAborted s ((handing s g am).hardAbort c) c ∧ Raised s ((handing s g am).hardAbort c) .guardAbort
    ∧ HandedKeeps s g am ((handing s g am).hardAbort c) := by
  have visit : ((handing s g am).seq.phase = .armed ∨ (handing s g am).seq.phase = .rampingDown) →
      (handing s g am).seq.visit = none := fun h => by
    rcases ends with running | ⟨none, -⟩
    · have running : (handing s g am).seq.phase = .running := running
      rewrite [running] at h
      rcases h with h | h <;> cases h
    · exact none
  obtain ⟨aborted, time, guard⟩ := hardAborts (s := handing s g am) c ends
  obtain ⟨pending, store, edit, amp, inputs⟩ := (Ends.hardAbort (handing s g am) c visit).keeps
  exact ⟨hardAborted_beside period aborted, raised_handing (Ends.hardAbort (handing s g am) c visit).ports,
    pending, store, edit, amp, inputs, time, guard⟩

end Handing

theorem guardCause_eq {s : State} {c : AbortCause}
    (phase : s.seq.phase = .armed ∨ s.seq.phase = .running ∨ s.seq.phase = .rampingDown) :
    s.guardCause c = (s.raiseBoth .guardAbort).abortWith c := by
  unfold State.guardCause
  rcases phase with h | h | h <;> rw [h]

theorem guardCause_quiet {s : State} {c : AbortCause} (phase : s.seq.phase = .idle ∨ s.seq.phase = .closing) :
    s.guardCause c = s := by
  unfold State.guardCause
  rcases phase with h | h <;> rw [h]

/-! ### The E-STOP line (R166) -/

theorem eStopEndsTheShot : EStopEndsTheShot := by
  intro s
  refine ⟨rfl, fun asserted => ?_, fun released quiet => ?_, fun released ends => ?_⟩
  · rw [exec, execEStopAsserted, asserted]
  · rewrite [exec, execEStopAsserted, released]
    exact congrArg Host.Outcome.next (guardCause_quiet (s := s.setEStop .asserted) quiet)
  · have phase : s.seq.phase = .armed ∨ s.seq.phase = .running ∨ s.seq.phase = .rampingDown := by
      rcases ends with h | ⟨-, h | h⟩
      · exact .inr (.inl h)
      · exact .inl h
      · exact .inr (.inr h)
    obtain ⟨aborted, raised, keeps⟩ := hardAbort_handed (s := s) (g := { s.guard with eStop := .asserted })
      (am := s.amp) .eStop rfl ends
    refine ⟨_, ?_, aborted, raised, ?_, ?_, keeps.store, keeps.edit, keeps.amp, keeps.inputs, keeps.time, keeps.pending⟩
    · rewrite [exec, execEStopAsserted, released]
      exact congrArg Host.Outcome.next (guardCause_eq (s := s.setEStop .asserted) phase)
    · rw [keeps.guard]
    · rw [keeps.guard]

/-! ### KEEPALIVE_EXPIRY (R164, R165) -/

theorem keepaliveDue_iff {s : State} : s.keepaliveDue = true ↔ ∃ e, s.guard.expiry = some e ∧ e ≤ s.now := by
  unfold State.keepaliveDue
  cases s.guard.expiry with
  | none => simp
  | some e => simp only [decide_eq_true_eq, Option.some.injEq, exists_eq_left']

theorem exec_keepaliveExpiry {s : State} {e : Nat} (expiry : s.guard.expiry = some e) (due : e ≤ s.now)
    (running : s.seq.phase = .running) :
    exec .keepaliveExpiry s = .next ((handing s { s.guard with expiry := none } s.amp).softAbort .guardExpired) := by
  rewrite [exec, execKeepaliveExpiry, if_pos (keepaliveDue_iff.2 ⟨e, expiry, due⟩)]
  exact congrArg Host.Outcome.next (guardCause_eq (s := { s with guard := { s.guard with expiry := none } }) (.inr (.inl running)))

theorem keepaliveExpiryAborts : KeepaliveExpiryAborts := by
  intro s
  refine ⟨fun early => ?_, fun e expiry due running first => ?_, fun e expiry due running later fixed => ?_⟩
  · have notDue : ¬ s.keepaliveDue = true := fun due => by
      obtain ⟨e, expiry, reached⟩ := keepaliveDue_iff.1 due
      exact absurd reached (Nat.not_le.2 (early e expiry))
    rw [exec, execKeepaliveExpiry, if_neg notDue]
  · let u := handing s { s.guard with expiry := none } s.amp
    have grows := (Ends.softAbort u .guardExpired fun armed => absurd (armed.symm.trans running) (by decide)).ports
    obtain ⟨taken, dr, po, frame⟩ := softAbort_running (s := u) .guardExpired running first
    refine ⟨_, exec_keepaliveExpiry expiry due running, taken, raised_handing grows, ?_⟩
    generalize u.softAbort .guardExpired = t at frame ⊢
    rewrite [frame]
    rfl
  · let u := handing s { s.guard with expiry := none } s.amp
    have again := softAbort_again (s := u) .guardExpired running later fixed
    have grows := (Ends.takeSecondary u .guardExpired).ports
    refine ⟨_, (exec_keepaliveExpiry expiry due running).trans (congrArg Host.Outcome.next again),
      takeSecondary_taken u .guardExpired, raised_handing grows, ?_⟩
    obtain ⟨dr, po, frame, -⟩ := takeSecondary_frame u .guardExpired
    rewrite [frame]
    rfl

set_option Elab.async false in
/-- Settles O38. -/
theorem guardEndsTheShot : Obligations.GuardEndsTheShot := ⟨eStopEndsTheShot, keepaliveExpiryAborts⟩

end Sys2Proof.Proofs.Guarding
end

section
/-! PROOF. INPUT_SAMPLE (O39). -/

namespace Sys2Proof.Proofs.Sampling

open Sys2Proof Sys2Proof.Machine

theorem sample_eq (i : Input) (pin : Bool) (now : Moment) : i.sample pin now = SampledInput i true pin now := by
  unfold Input.sample SampledInput
  simp only [Bool.true_eq_false, if_false]
  by_cases same : pin = i.level
  · rw [if_pos same, if_pos same]
  · rewrite [if_neg same, if_neg same]
    cases candidate : i.candidate <;> rfl

theorem input_sample (t : InputTimer) (now : Moment) (n : Fin 12) :
    (t.sample now).inputs[n]'n.isLt = SampledInput (t.inputs[n]'n.isLt) t.sampled (t.pins.getLsbD n) now := by
  have input : (t.sample now).inputs[n]'n.isLt = if t.sampled then (t.inputs[n]'n.isLt).sample (t.pins.getLsbD n) now
      else (t.inputs[n]'n.isLt).firstSample (t.pins.getLsbD n) := by
    unfold InputTimer.sample
    simp only [Fin.getElem_fin, Vector.getElem_ofFn]
  rewrite [input, sample_eq]
  cases t.sampled <;> rfl

theorem sampleDue_of {s : State} (tick : s.time.counter % 10 = 0) (fresh : s.time.inputsDone = false)
    (none : ∀ n : Fin 12, (s.inputs.inputs[n]'n.isLt).ready = false) : s.sampleDue = true := by
  have quiet : s.inputs.inputs.toList.any (·.ready) = false := by
    refine List.any_eq_false.2 fun i mem => ?_
    obtain ⟨k, lt, rfl⟩ := List.mem_iff_getElem.1 mem
    have lt : k < 12 := by simpa using lt
    have ready := none ⟨k, lt⟩
    simpa using ready
  rewrite [State.sampleDue, fresh, quiet, decide_eq_true tick]
  rfl

set_option Elab.async false in
/-- Settles O39. -/
theorem inputSampleDebounces : Obligations.InputSampleDebounces := by
  intro pins s
  refine ⟨fun early => ?_, fun tick fresh none => ?_⟩
  · have early : ¬ State.sampleDue { s with inputs := { s.inputs with pins := pins } } = true :=
      Bool.eq_false_iff.1 early
    rewrite [exec, execInputSample]
    dsimp only
    rw [if_neg early]
  · have due : State.sampleDue { s with inputs := { s.inputs with pins := pins } } = true := sampleDue_of tick fresh none
    rewrite [exec, execInputSample]
    dsimp only
    rewrite [if_pos due]
    exact ⟨_, rfl, rfl, rfl, rfl, fun n => input_sample { s.inputs with pins := pins } _ n⟩

end Sys2Proof.Proofs.Sampling
end

section
/-! PROOF. AMPLIFIER_RETURN (O46) and RAMP_STEP (O47). -/

namespace Sys2Proof.Proofs.Amplifier

open Sys2Proof Sys2Proof.Machine Sys2Proof.Proofs.Answering Sys2Proof.Proofs.Arming Sys2Proof.Proofs.Aborting
  Sys2Proof.Proofs.Ending Sys2Proof.Proofs.Guarding

theorem endsPhase {s : State}
    (ends : s.seq.phase = .running ∨ s.seq.visit = none ∧ (s.seq.phase = .armed ∨ s.seq.phase = .rampingDown)) :
    s.seq.phase = .armed ∨ s.seq.phase = .running ∨ s.seq.phase = .rampingDown := by
  rcases ends with h | ⟨-, h | h⟩
  · exact .inr (.inl h)
  · exact .inl h
  · exact .inr (.inr h)

/-! ### Causes raised for a channel (R167) -/

section Raise

variable {s : State} {c : Channel} {cause : AbortCause}

/-- The guard with the latch of a cause set. -/
def latched (s : State) (c : Channel) (cause : AbortCause) : Guard :=
  { s.guard with latches := s.guard.latches.set c ((s.guard.latches.get c).set cause) }

theorem handing_phase (phase : s.seq.phase = .armed ∨ s.seq.phase = .running ∨ s.seq.phase = .rampingDown) :
    decide (s.seq.phase ≠ .idle ∧ s.seq.phase ≠ .closing) = true := by
  rcases phase with h | h | h <;> rw [h] <;> rfl

/-- A cause with its latch clear is handed to the sequencer. -/
theorem raiseFault_handed (phase : s.seq.phase = .armed ∨ s.seq.phase = .running ∨ s.seq.phase = .rampingDown)
    (clear : (s.guard.latches.get c).has cause = false) :
    s.raiseFault c cause = (handing s (latched s c cause) s.amp).abortWith cause := by
  unfold State.raiseFault
  rewrite [handing_phase phase, clear, if_pos (by rfl)]
  exact guardCause_eq (s := { s with guard := latched s c cause }) phase

theorem raiseFault_quiet (h : s.seq.phase = .idle ∨ s.seq.phase = .closing ∨ (s.guard.latches.get c).has cause = true) :
    s.raiseFault c cause = s := by
  unfold State.raiseFault
  refine if_neg fun raised => ?_
  obtain ⟨handed, clear⟩ := Bool.and_eq_true_iff.1 raised
  obtain ⟨active, open_⟩ := of_decide_eq_true handed
  rcases h with h | h | h
  · exact active h
  · exact open_ h
  · rewrite [h] at clear
    cases clear

end Raise

/-! ### AMPLIFIER_RETURN (R70, Table 3-7) -/

section Return

variable {s : State} {c : Channel} {st : AmpStatus}

theorem exec_return_ignored (h : s.seq.phase = .idle ∨ 5 ≤ (s.amp.channels.get c).overload
      ∨ 3 ≤ (s.amp.channels.get c).missing) :
    exec (.amplifierReturn c st) s
      = .next (s.setAmp c { s.amp.channels.get c with status := st, returned := true }) := by
  rewrite [exec, execAmplifierReturn]
  dsimp only
  rw [if_neg]
  intro counted
  obtain ⟨active, counting⟩ := Bool.and_eq_true_iff.1 counted
  obtain ⟨overload, missing⟩ := of_decide_eq_true counting
  dsimp only at overload missing
  rcases h with h | h | h
  · exact (shotActive_iff s).1 active h
  · omega
  · omega

theorem exec_return_counted (active : s.seq.phase ≠ .idle) (overload : (s.amp.channels.get c).overload < 5)
    (missing : (s.amp.channels.get c).missing < 3) :
    exec (.amplifierReturn c st) s = .next (s.takeCount c
      (AmpChannel.count { s.amp.channels.get c with status := st, returned := true } st)) := by
  rewrite [exec, execAmplifierReturn]
  dsimp only
  rw [if_pos]
  exact Bool.and_eq_true_iff.2 ⟨(shotActive_iff s).2 active, decide_eq_true ⟨overload, missing⟩⟩

theorem takeCount_none {a : AmpChannel} : s.takeCount c (a, none) = s.setAmp c a := rfl

theorem takeCount_some {a : AmpChannel} {cause : AbortCause} :
    s.takeCount c (a, some cause) = (s.setAmp c a).raiseFault c cause := rfl

theorem count_overload (a : AmpChannel) : a.count .overload
    = ({ a with overload := a.overload + 1, missing := 0 }, if a.overload + 1 = 5 then some .overload else none) := rfl

/-- A hard cause of a channel with its latch clear, in a phase in which it ends the shot. -/
theorem raiseFault_hard {a : AmpChannel} {cause : AbortCause} (hard : AbortCause.isHard cause = true)
    (clear : (s.guard.latches.get c).has cause = false)
    (ends : s.seq.phase = .running ∨ s.seq.visit = none ∧ (s.seq.phase = .armed ∨ s.seq.phase = .rampingDown)) :
    HardAborted s ((s.setAmp c a).raiseFault c cause) cause
    ∧ Raised s ((s.setAmp c a).raiseFault c cause) .guardAbort
    ∧ ((s.setAmp c a).raiseFault c cause).amp = (s.setAmp c a).amp
    ∧ ((s.setAmp c a).raiseFault c cause).guard.latches
        = s.guard.latches.set c ((s.guard.latches.get c).set cause)
    ∧ ((s.setAmp c a).raiseFault c cause).store = s.store ∧ ((s.setAmp c a).raiseFault c cause).time = s.time
    ∧ ((s.setAmp c a).raiseFault c cause).inputs = s.inputs := by
  obtain ⟨aborted, raised, keeps⟩ := hardAbort_handed (s := s) (g := latched s c cause) (am := (s.setAmp c a).amp) cause
    rfl ends
  have handed : (s.setAmp c a).raiseFault c cause
      = (handing s (latched s c cause) (s.setAmp c a).amp).hardAbort cause :=
    (raiseFault_handed (s := s.setAmp c a) (endsPhase ends) clear).trans (if_pos hard)
  rewrite [handed]
  exact ⟨aborted, raised, keeps.amp, by rw [keeps.guard]; rfl, keeps.store, keeps.time, keeps.inputs⟩

theorem softAbort_armed (cause : AbortCause) (armed : s.seq.phase = .armed) : s.softAbort cause = s.abortArmed cause := by
  rw [State.softAbort, armed]

/-- A soft abort outside ARMED leaves the guard and the channels. -/
theorem softAbort_frame (cause : AbortCause) (notArmed : s.seq.phase ≠ .armed) :
    ∃ sq lg pe dr po, s.softAbort cause = { s with seq := sq, log := lg, peer := pe, drains := dr, ports := po } := by
  obtain ⟨dr₁, po₁, first⟩ := takeEndCause_frame s cause
  obtain ⟨dr₂, po₂, later, -⟩ := takeSecondary_frame s cause
  unfold State.softAbort State.takeRunningCause
  rewrite [first, later]
  cases phase : s.seq.phase with
  | armed => exact absurd phase notArmed
  | running => cases s.seq.endCause <;> exact ⟨_, _, _, _, _, rfl⟩
  | rampingDown => exact ⟨_, _, _, _, _, rfl⟩
  | closing => exact ⟨s.seq, s.log, s.peer, s.drains, s.ports, rfl⟩
  | idle => exact ⟨s.seq, s.log, s.peer, s.drains, s.ports, rfl⟩

/-- What a soft abort that the guard hands over leaves. -/
theorem softAbort_handed {g : Guard} {am : AmplifierLink} (cause : AbortCause) (period : g.period = s.guard.period)
    (visit : s.seq.phase = .armed → s.seq.visit = none) {t : State} (t_eq : t = (handing s g am).softAbort cause) :
    Raised s t .guardAbort ∧ t.amp = am ∧ t.guard.latches = g.latches ∧ t.store = s.store ∧ t.time = s.time
    ∧ t.inputs = s.inputs
    ∧ (s.seq.phase = .armed → AbortedInArmed s t cause)
    ∧ (s.seq.phase ≠ .armed → t.guard = g ∧ t.synth = s.synth)
    ∧ (s.seq.phase = .running → s.seq.endCause = none → SoftAbortTaken s t cause)
    ∧ ((s.seq.phase = .rampingDown
          ∨ (s.seq.phase = .running ∧ s.seq.endCause ≠ none ∧ s.seq.softEnd ≠ none)) →
        SecondaryTaken s t cause ∧ t.peer = s.peer) := by
  have ends := Ends.softAbort (handing s g am) cause visit
  rewrite [← t_eq] at ends
  obtain ⟨-, store, -, amp, inputs⟩ := ends.keeps
  have latches : t.guard.latches = g.latches := by rw [ends.guard]; rfl
  refine ⟨raised_handing ends.ports, amp, latches, store, ?_, inputs, fun armed => ?_, fun notArmed => ?_,
    fun running first => ?_, fun later => ?_⟩
  · by_cases armed : s.seq.phase = .armed
    · obtain ⟨-, -, -, -, -, time, -⟩ := abortArmed_enters (s := handing s g am) cause armed (visit armed)
      rewrite [t_eq, softAbort_armed (s := handing s g am) cause armed, time]
      rfl
    · obtain ⟨_, _, _, _, _, frame⟩ := softAbort_frame (s := handing s g am) cause armed
      rewrite [t_eq, frame]
      rfl
  · obtain ⟨entered, -⟩ := abortArmed_enters (s := handing s g am) cause armed (visit armed)
    rewrite [t_eq, softAbort_armed (s := handing s g am) cause armed]
    exact abortedInArmed_beside period entered
  · obtain ⟨_, _, _, _, _, frame⟩ := softAbort_frame (s := handing s g am) cause notArmed
    rewrite [t_eq, frame]
    exact ⟨rfl, rfl⟩
  · rewrite [t_eq]
    exact (softAbort_running (s := handing s g am) cause running first).1
  · have secondary : t = (handing s g am).takeSecondary cause := by
      rcases later with down | ⟨running, second, fixed⟩
      · exact t_eq.trans (softAbort_rampingDown (s := handing s g am) cause down)
      · exact t_eq.trans (softAbort_again (s := handing s g am) cause running second fixed)
    obtain ⟨_, _, frame, -⟩ := takeSecondary_frame (handing s g am) cause
    refine ⟨?_, ?_⟩
    · rewrite [secondary]
      exact takeSecondary_taken (handing s g am) cause
    · rewrite [secondary, frame]
      rfl

end Return

/-- Settles O46. -/
theorem amplifierReturnsAreCounted : Obligations.AmplifierReturnsAreCounted := by
  rintro c st s _ rfl
  refine ⟨exec_return_ignored, fun active overload missing => ?_⟩
  have counted : ∀ st, exec (.amplifierReturn c st) s = .next (s.takeCount c
      (AmpChannel.count { s.amp.channels.get c with status := st, returned := true } st)) := fun st =>
    exec_return_counted active overload missing
  refine ⟨counted .ok, fun few => ?_, fun fifth clear ends => ?_, fun fifth quiet => ?_, fun clear ends => ?_,
    fun quiet => ?_⟩
  · rewrite [counted, count_overload, if_neg (by dsimp only; omega)]
    rfl
  · rewrite [counted, count_overload, if_pos (by dsimp only; omega), takeCount_some, fifth]
    obtain ⟨aborted, raised, amp, latches, rest⟩ := raiseFault_hard (s := s) (c := c) (cause := .overload)
      (a := { status := .overload, returned := true, overload := 5, missing := 0 }) rfl clear ends
    exact ⟨_, rfl, aborted, raised, amp, latches, rest⟩
  · rw [counted, count_overload, if_pos (by dsimp only; omega), takeCount_some, fifth,
      raiseFault_quiet (.inr quiet)]
  · rewrite [counted]
    refine ⟨(s.setAmp c { status := .overtemp, returned := true, overload := 0, missing := 0 }).raiseFault c .overtemp,
      rfl, ?_⟩
    have clear : ((s.setAmp c { status := .overtemp, returned := true, overload := 0, missing := 0 }).guard.latches.get
        c).has .overtemp = false := clear
    obtain ⟨raised, amp, latches, store, time, inputs, armed, others, rest⟩ := softAbort_handed (s := s)
      (g := latched s c .overtemp)
      (am := (s.setAmp c { status := .overtemp, returned := true, overload := 0, missing := 0 }).amp) .overtemp rfl
      (fun armed => ends.elim (fun running => absurd (armed.symm.trans running) (by decide)) (·.1))
      ((raiseFault_handed (s := s.setAmp c _) (endsPhase ends) clear).trans (if_neg (by decide)))
    refine ⟨raised, amp, latches, store, time, inputs, armed, fun notArmed => ?_, rest⟩
    obtain ⟨guard, synth⟩ := others notArmed
    exact ⟨by rw [guard]; rfl, synth⟩
  · rewrite [counted]
    exact congrArg Host.Outcome.next (raiseFault_quiet (s := s.setAmp c _) (.inr quiet))

/-! ### RAMP_STEP (R61, R62) -/

theorem settleChoice_quiet {s : State} (h : s.choiceOfState = none ∨ s.seq.deferring = true) : s.settleChoice = s := by
  unfold State.settleChoice
  rcases h with none | deferring
  · rw [none]
  · split
    · rw [deferring, Bool.or_true, if_pos rfl]
    · rfl

/-- Phases B and C of a group keep their spacing; every other channel of the target takes the value. -/
theorem channelValue_of_covers {r : Ramp} {c : Channel} (entries : PerChannel ChannelEntry) (v : Int)
    (covers : r.target.covers c = true) :
    r.channelValue entries c v = if r.quantity = .phase ∧ c ≠ r.target.lead then
        wrapAngle ((entries.get c).phase + v - (entries.get r.target.lead).phase)
      else v := by
  unfold Ramp.channelValue
  cases quantity : r.quantity with
  | amplitude => rw [if_neg fun h => by cases h.1]
  | frequency => rw [if_neg fun h => by cases h.1]
  | phase =>
    cases target : r.target with
    | channel c' =>
      rewrite [target] at covers
      have same : c = c' := by simpa [Target.covers, Target.channels] using covers
      exact (if_neg fun h => h.2 same).symm
    | group g =>
      by_cases lead : c = g.phaseA
      · exact (if_pos lead).trans (if_neg fun h => h.2 lead).symm
      · exact (if_neg lead).trans (if_pos ⟨rfl, lead⟩).symm

set_option Elab.async false in
/-- Settles O47. -/
theorem rampStepMovesTheValue : Obligations.RampStepMovesTheValue := by
  intro s
  refine ⟨fun early => ?_, fun v r due choice visit ramp value isValue => ?_⟩
  · rw [exec, execRampStep, if_neg (Bool.eq_false_iff.1 early)]
  · subst isValue
    rewrite [exec, execRampStep, if_pos due, settleChoice_quiet choice]
    unfold State.rampStep
    simp only [visit, ramp]
    refine ⟨_, rfl, rfl, fun c => ?_⟩
    refine (PerChannel.get_mapWith _ _ c).trans ?_
    by_cases covers : r.target.covers c = true
    · rw [if_pos covers, if_pos covers, channelValue_of_covers _ _ covers]
    · rw [if_neg covers, if_neg covers]

end Sys2Proof.Proofs.Amplifier
end

section
/-! PROOF. The samples of a boundary while the channels inject (O44). -/

namespace Sys2Proof.Proofs.Injecting

open Sys2Proof Sys2Proof.Machine Sys2Proof.Proofs.Answering Sys2Proof.Proofs.Arming

/-! ### The samples of the channels taken one after another -/

/-- A state with channels sampled. -/
def sampled (s : State) (ch : PerChannel SynthChannel) (fr : PerChannel Subframe) (lg : ReportLog) (dr : PerPort Drain)
    (po : PerPort PortInterface) : State :=
  { s with
    synth := { s.synth with channels := ch }, amp := { s.amp with frame := fr }, log := lg, drains := dr, ports := po }

/-- A channel after its sample. -/
def sampledChannel (s : State) (c : Channel) : SynthChannel :=
  { s.synth.channels.get c with
    acc := (s.synth.channels.get c).acc + (s.synth.channels.get c).increment
    silencing := if CutNow s c then .silenced else (s.synth.channels.get c).silencing
    last := if CutNow s c then 0 else clampCode (AcNow s c + OffsetNow s c)
    offset := if CutNow s c then 0 else decayOffset (OffsetNow s c) (s.synth.channels.get c).decay
    resuming := false
    clip := (s.synth.channels.get c).clip || ClippedNow s c
    clipRecorded := (s.synth.channels.get c).clipRecorded || ClippedNow s c }

/-- The subframe of a channel. -/
def sampledFrame (s : State) (c : Channel) : Subframe :=
  { code := if CutNow s c then 0 else clampCode (AcNow s c + OffsetNow s c)
    valid := decide (PeakNow s c ≠ 0), mute := false }

/-- What a channel's sample does to the log. -/
def clipLog (s : State) (l : ReportLog) (c : Channel) : ReportLog :=
  match s.seq.lastEntry with
  | some e =>
      if ClippedNow s c && !(s.synth.channels.get c).clipRecorded then
        l.offered (s.makeRecord (s.shotTime s.now) (.clip c e.state))
      else l
  | none => l

section One

variable {s : State} {ch : PerChannel SynthChannel} {fr : PerChannel Subframe} {lg : ReportLog} {dr : PerPort Drain}
  {po : PerPort PortInterface} {c : Channel}

theorem form_eq (s : State) (c : Channel) :
    (s.synth.channels.get c).form (s.peakInUse (s.synth.channels.get c).peak) (decide (s.seq.phase = .rampingDown))
      (s.tauOf c) = { offset := OffsetNow s c, sum := AcNow s c + OffsetNow s c } := by
  unfold SynthChannel.form SynthChannel.offsetNow OffsetNow
  by_cases down : s.seq.phase = .rampingDown
  · simp only [down, decide_true, if_true]
    rfl
  · simp only [down, decide_false, if_false, Bool.false_eq_true]
    rfl

theorem cutNow_iff (s : State) (c : Channel) : CutNow s c = true ↔ (s.synth.channels.get c).silencing = .silenced
    ∨ (s.synth.channels.get c).silencing = .interrupting
        ∧ passesZero (AcNow s c + OffsetNow s c) (s.synth.channels.get c).last = true := decide_eq_true_iff

/-- A sample taken where the channel has its own state still. -/
theorem sampleInjecting_eq (own : ch.get c = s.synth.channels.get c) :
    (sampled s ch fr lg dr po).sampleInjecting c
      = if CutNow s c then
          ((sampled s ch fr lg dr po).setSynth c (s.synth.channels.get c).silence.advance).setSubframe c
            { code := 0, valid := decide (PeakNow s c ≠ 0), mute := false }
        else
          ((if ClippedNow s c then (sampled s ch fr lg dr po).offerClip c (s.synth.channels.get c).clipRecorded
            else sampled s ch fr lg dr po).setSynth c
              ((s.synth.channels.get c).emit (clampCode (AcNow s c + OffsetNow s c)) (OffsetNow s c)
                (ClippedNow s c)).advance).setSubframe c
            { code := clampCode (AcNow s c + OffsetNow s c), valid := decide (PeakNow s c ≠ 0), mute := false } := by
  have read : (sampled s ch fr lg dr po).synth.channels.get c = s.synth.channels.get c := own
  have formed : (s.synth.channels.get c).form ((sampled s ch fr lg dr po).peakInUse (s.synth.channels.get c).peak)
      (decide ((sampled s ch fr lg dr po).seq.phase = .rampingDown)) ((sampled s ch fr lg dr po).tauOf c)
      = { offset := OffsetNow s c, sum := AcNow s c + OffsetNow s c } := form_eq s c
  have peak : (sampled s ch fr lg dr po).peakInUse (s.synth.channels.get c).peak = PeakNow s c := rfl
  unfold State.sampleInjecting
  simp only [read, formed]
  simp only [peak]
  by_cases silenced : (s.synth.channels.get c).silencing = .silenced
  · rw [if_pos silenced, if_pos ((cutNow_iff s c).2 (.inl silenced))]
  · rewrite [if_neg silenced]
    by_cases passes : (s.synth.channels.get c).silencing = .interrupting
        ∧ passesZero (AcNow s c + OffsetNow s c) (s.synth.channels.get c).last = true
    · rw [if_pos passes, if_pos ((cutNow_iff s c).2 (.inr passes))]
    · have notCut : CutNow s c = false :=
        Bool.eq_false_iff.2 fun cut => ((cutNow_iff s c).1 cut).elim silenced passes
      have clipped : decide (clampCode (AcNow s c + OffsetNow s c) ≠ AcNow s c + OffsetNow s c) = ClippedNow s c := by
        rewrite [ClippedNow, notCut]
        rfl
      rw [if_neg passes, notCut, if_neg Bool.false_ne_true, clipped]

/-- The sample of one channel, taken where the channel has its own state still. -/
theorem sampleInjecting_sampled (own : ch.get c = s.synth.channels.get c) :
    ∃ dr' po', (sampled s ch fr lg dr po).sampleInjecting c
      = sampled s (ch.set c (sampledChannel s c)) (fr.set c (sampledFrame s c)) (clipLog s lg c) dr' po' := by
  rewrite [sampleInjecting_eq own]
  by_cases cut : CutNow s c = true
  · have log : clipLog s lg c = lg := by
      unfold clipLog ClippedNow
      rewrite [cut]
      split <;> rfl
    have channel : sampledChannel s c = (s.synth.channels.get c).silence.advance := by
      unfold sampledChannel ClippedNow
      rewrite [cut]
      simp only [if_true, Bool.not_true, Bool.false_and, Bool.or_false]
      rfl
    have frame : sampledFrame s c = { code := 0, valid := decide (PeakNow s c ≠ 0), mute := false } := by
      unfold sampledFrame
      rw [if_pos cut]
    rewrite [if_pos cut, log, channel, frame]
    exact ⟨dr, po, rfl⟩
  · have channel : sampledChannel s c = ((s.synth.channels.get c).emit (clampCode (AcNow s c + OffsetNow s c))
        (OffsetNow s c) (ClippedNow s c)).advance := by
      unfold sampledChannel
      simp only [if_neg cut]
      rfl
    have frame : sampledFrame s c = { code := clampCode (AcNow s c + OffsetNow s c)
                                      valid := decide (PeakNow s c ≠ 0), mute := false } := by
      unfold sampledFrame
      rw [if_neg cut]
    have log : ∃ dr' po', (if ClippedNow s c then (sampled s ch fr lg dr po).offerClip c (s.synth.channels.get c).clipRecorded
        else sampled s ch fr lg dr po) = sampled s ch fr (clipLog s lg c) dr' po' := by
      unfold clipLog State.offerClip
      show ∃ dr' po', (if ClippedNow s c then (match s.seq.lastEntry with
        | some e => if (s.synth.channels.get c).clipRecorded then sampled s ch fr lg dr po
            else (sampled s ch fr lg dr po).offer (s.shotTime s.now) (.clip c e.state)
        | none => sampled s ch fr lg dr po) else sampled s ch fr lg dr po) = _
      cases s.seq.lastEntry with
      | none => exact ⟨dr, po, ite_self _⟩
      | some e =>
        dsimp only
        cases ClippedNow s c with
        | false => exact ⟨dr, po, rfl⟩
        | true =>
          cases (s.synth.channels.get c).clipRecorded with
          | true => exact ⟨dr, po, rfl⟩
          | false => exact offer_frame (sampled s ch fr lg dr po) (s.shotTime s.now) (.clip c e.state)
    obtain ⟨dr', po', log⟩ := log
    rewrite [if_neg cut, log, channel, frame]
    exact ⟨dr', po', rfl⟩

end One

/-- Channels of a list sampled one after another. -/
theorem samples_foldl {s : State} (injecting : s.injecting = true) {done rest : List Channel} (nodup : (done ++ rest).Nodup)
    {ch : PerChannel SynthChannel} {fr : PerChannel Subframe} {dr : PerPort Drain} {po : PerPort PortInterface}
    (channels : ∀ c, ch.get c = if c ∈ done then sampledChannel s c else s.synth.channels.get c)
    (frame : ∀ c ∈ done, fr.get c = sampledFrame s c) :
    ∃ ch' fr' dr' po', rest.foldl (fun s c => s.sampleChannel c) (sampled s ch fr (done.foldl (clipLog s) s.log) dr po)
        = sampled s ch' fr' ((done ++ rest).foldl (clipLog s) s.log) dr' po'
      ∧ (∀ c, ch'.get c = if c ∈ done ++ rest then sampledChannel s c else s.synth.channels.get c)
      ∧ ∀ c ∈ done ++ rest, fr'.get c = sampledFrame s c := by
  induction rest generalizing done ch fr dr po with
  | nil =>
    rewrite [List.append_nil]
    exact ⟨ch, fr, dr, po, rfl, channels, frame⟩
  | cons c rest ih =>
    have fresh : c ∉ done := fun mem => List.disjoint_of_nodup_append nodup mem List.mem_cons_self
    have own : ch.get c = s.synth.channels.get c := by rw [channels, if_neg fresh]
    obtain ⟨dr₁, po₁, one⟩ := sampleInjecting_sampled (s := s) (fr := fr) (lg := done.foldl (clipLog s) s.log) (dr := dr)
      (po := po) own
    have step : (sampled s ch fr (done.foldl (clipLog s) s.log) dr po).sampleChannel c
        = sampled s (ch.set c (sampledChannel s c)) (fr.set c (sampledFrame s c))
            ((done ++ [c]).foldl (clipLog s) s.log) dr₁ po₁ := by
      rewrite [State.sampleChannel, if_pos (show (sampled s ch fr _ dr po).injecting = true from injecting), one,
        List.foldl_append]
      rfl
    rewrite [List.foldl_cons, step, List.append_cons done c rest]
    refine ih (by rwa [← List.append_cons]) (fun d => ?_) fun d mem => ?_
    · rewrite [PerChannel.get_set]
      by_cases same : d = c
      · rw [if_pos same, if_pos (by simp [same]), same]
      · rewrite [if_neg same, channels]
        simp only [List.mem_append, List.mem_singleton, same, or_false]
    · rewrite [PerChannel.get_set]
      by_cases same : d = c
      · rw [if_pos same, same]
      · rewrite [if_neg same]
        refine frame d ?_
        simpa only [List.mem_append, List.mem_singleton, same, or_false] using mem

/-! ### The boundary -/

theorem takeMissing_returned {s : State} {c : Channel} (h : (s.amp.channels.get c).returned = true) :
    s.takeMissing c = s := by
  unfold State.takeMissing
  dsimp only
  rewrite [h]
  exact if_neg (by simp)

theorem missing_foldl {s : State} {l : List Channel} (h : ∀ c ∈ l, (s.amp.channels.get c).returned = true) :
    l.foldl (fun s c => s.takeMissing c) s = s := by
  induction l with
  | nil => rfl
  | cons c rest ih =>
    rewrite [List.foldl_cons, takeMissing_returned (h c List.mem_cons_self)]
    exact ih fun d mem => h d (List.mem_cons_of_mem _ mem)

theorem mem_allChannels (c : Channel) : c ∈ allChannels := by cases c <;> decide

theorem allChannels_nodup : allChannels.Nodup := by decide

theorem allSilenced_iff (s : State) (q : Pole) : s.allSilenced q = true
    ↔ ∀ c, (s.synth.channels.get c).link = some q → (s.synth.channels.get c).silencing = .silenced := by
  simp only [State.allSilenced, SynthChannel.linkedTo, List.all_eq_true, Bool.or_eq_true, Bool.not_eq_true',
    decide_eq_false_iff_not, decide_eq_true_eq]
  constructor
  · exact fun h c link => (h c (mem_allChannels c)).resolve_left fun not => not link
  · exact fun h c _ => or_iff_not_imp_left.2 fun link => h c (not_not.1 link)

/-- What settling the interruptions does to a pole (R95). -/
theorem settle_pole (s : State) (q : Pole) : (s.settleInterruptions.breaker.poles.get q)
    = if (s.breaker.poles.get q).interruption = .inProgress && s.allSilenced q then
        { s.breaker.poles.get q with interruption := .complete }
      else s.breaker.poles.get q := PerPole.get_mapWith _ _ q

theorem settle_interruption (s : State) (q : Pole) :
    (s.settleInterruptions.breaker.poles.get q = { s.breaker.poles.get q with
        interruption := (s.settleInterruptions.breaker.poles.get q).interruption })
    ∧ ((s.breaker.poles.get q).interruption ≠ .inProgress →
        (s.settleInterruptions.breaker.poles.get q).interruption = (s.breaker.poles.get q).interruption)
    ∧ ((s.breaker.poles.get q).interruption = .inProgress →
        ((s.settleInterruptions.breaker.poles.get q).interruption = .complete
          ↔ ∀ c, (s.synth.channels.get c).link = some q → (s.synth.channels.get c).silencing = .silenced)
        ∧ (s.settleInterruptions.breaker.poles.get q).interruption ≠ .none) := by
  rewrite [settle_pole, ← allSilenced_iff]
  by_cases progress : (s.breaker.poles.get q).interruption = .inProgress
  · cases all : s.allSilenced q with
    | true =>
      simp only [progress, decide_true, Bool.and_self, if_true]
      exact ⟨trivial, fun h => absurd rfl h, fun _ => ⟨by simp, by simp⟩⟩
    | false =>
      simp only [progress, decide_true, Bool.and_false, Bool.false_eq_true, if_false]
      exact ⟨by rw [← progress], fun h => absurd rfl h, fun _ => ⟨by simp, by simp⟩⟩
  · simp only [progress, decide_false, Bool.false_and, Bool.false_eq_true, if_false]
    exact ⟨trivial, fun _ => trivial, fun h => absurd h (by simp)⟩

theorem settleInterruptions_frame (s : State) : s.settleInterruptions
    = { s with breaker := { s.breaker with poles := s.settleInterruptions.breaker.poles } } := rfl

set_option Elab.async false in
/-- Settles O44. -/
theorem injectingChannelsAreSampled : Obligations.InjectingChannelsAreSampled := by
  intro s due phase returned
  have injecting : s.injecting = true := decide_eq_true phase
  obtain ⟨ch, fr, dr, po, samples, channels, frame⟩ := samples_foldl (s := s) injecting (done := []) (rest := allChannels)
    allChannels_nodup (ch := s.synth.channels) (fr := s.amp.frame) (dr := s.drains) (po := s.ports)
    (fun c => (if_neg List.not_mem_nil).symm) (fun c mem => absurd mem List.not_mem_nil)
  rewrite [exec, execSampleBoundary, if_pos due, State.sampleBoundary, missing_foldl fun c _ => returned c]
  have samples : allChannels.foldl (fun s c => s.sampleChannel c) s
      = sampled s ch fr (allChannels.foldl (clipLog s) s.log) dr po := samples
  rewrite [samples]
  dsimp only
  rewrite [settleInterruptions_frame]
  have channel : ∀ c, ch.get c = sampledChannel s c := fun c => (channels c).trans (if_pos (mem_allChannels c))
  refine ⟨_, rfl, rfl, fun c => ⟨channel c, frame c (mem_allChannels c), PerChannel.get_mapWith _ _ c⟩,
    fun q => settle_interruption (sampled s ch fr (allChannels.foldl (clipLog s) s.log) dr po).awaitReturns q,
    fun e last => ?_⟩
  have each : clipLog s = fun l c => if ClippedNow s c && !(s.synth.channels.get c).clipRecorded then
      l.offered (s.makeRecord (s.shotTime s.now) (.clip c e.state)) else l := by
    funext l c
    unfold clipLog
    rw [last]
  show allChannels.foldl (clipLog s) s.log = _
  rw [each]

end Sys2Proof.Proofs.Injecting
end

section
/-! PROOF. Boundaries with muted channels, and with a return missing (O45). -/

namespace Sys2Proof.Proofs.Muted

open Sys2Proof Sys2Proof.Machine Sys2Proof.Proofs.Answering Sys2Proof.Proofs.Injecting Sys2Proof.Proofs.Amplifier
  Sys2Proof.Proofs.Guarding

/-! ### The samples of muted channels (R49, R54, R69) -/

/-- A state with muted channels sampled. -/
def mutedState (s : State) (ch : PerChannel SynthChannel) (fr : PerChannel Subframe) : State :=
  { s with synth := { s.synth with channels := ch }, amp := { s.amp with frame := fr } }

/-- A muted channel after its sample. -/
def mutedChannel (s : State) (c : Channel) : SynthChannel :=
  { s.synth.channels.get c with
    offset := 0, last := 0
    acc := if s.seq.phase = .idle then (s.synth.channels.get c).acc
           else (s.synth.channels.get c).acc + (s.synth.channels.get c).increment }

section Muted

variable {s : State}

theorem sampleMuted_eq {ch : PerChannel SynthChannel} {fr : PerChannel Subframe} {c : Channel}
    (own : ch.get c = s.synth.channels.get c) :
    (mutedState s ch fr).sampleMuted c = mutedState s (ch.set c (mutedChannel s c)) (fr.set c .muted) := by
  have read : (mutedState s ch fr).synth.channels.get c = s.synth.channels.get c := own
  have channel : (if s.shotActive then
      SynthChannel.advance { s.synth.channels.get c with offset := 0, last := 0 }
      else { s.synth.channels.get c with offset := 0, last := 0 }) = mutedChannel s c := by
    unfold mutedChannel
    by_cases idle : s.seq.phase = .idle
    · rw [if_pos idle, if_neg fun active => (shotActive_iff s).1 active idle]
    · rewrite [if_neg idle, if_pos ((shotActive_iff s).2 idle)]
      rfl
  unfold State.sampleMuted
  simp only [read]
  rewrite [show (mutedState s ch fr).shotActive = s.shotActive from rfl, channel]
  rfl

theorem mutes_foldl (muted : s.injecting = false) {done rest : List Channel} (nodup : (done ++ rest).Nodup)
    {ch : PerChannel SynthChannel} {fr : PerChannel Subframe}
    (channels : ∀ c, ch.get c = if c ∈ done then mutedChannel s c else s.synth.channels.get c)
    (frame : ∀ c ∈ done, fr.get c = .muted) :
    ∃ ch' fr', rest.foldl (fun s c => s.sampleChannel c) (mutedState s ch fr) = mutedState s ch' fr'
      ∧ (∀ c, ch'.get c = if c ∈ done ++ rest then mutedChannel s c else s.synth.channels.get c)
      ∧ ∀ c ∈ done ++ rest, fr'.get c = .muted := by
  induction rest generalizing done ch fr with
  | nil =>
    rewrite [List.append_nil]
    exact ⟨ch, fr, rfl, channels, frame⟩
  | cons c rest ih =>
    have fresh : c ∉ done := fun mem => List.disjoint_of_nodup_append nodup mem List.mem_cons_self
    have step : (mutedState s ch fr).sampleChannel c
        = mutedState s (ch.set c (mutedChannel s c)) (fr.set c .muted) := by
      rw [State.sampleChannel, if_neg (show ¬ (mutedState s ch fr).injecting = true from Bool.eq_false_iff.1 muted),
        sampleMuted_eq (by rw [channels, if_neg fresh])]
    rewrite [List.foldl_cons, step, List.append_cons done c rest]
    refine ih (by rwa [← List.append_cons]) (fun d => ?_) fun d mem => ?_
    · rewrite [PerChannel.get_set]
      by_cases same : d = c
      · rw [if_pos same, if_pos (by simp [same]), same]
      · rewrite [if_neg same, channels]
        simp only [List.mem_append, List.mem_singleton, same, or_false]
    · rewrite [PerChannel.get_set]
      by_cases same : d = c
      · rw [if_pos same]
      · rewrite [if_neg same]
        refine frame d ?_
        simpa only [List.mem_append, List.mem_singleton, same, or_false] using mem

end Muted

/-! ### What follows the missing returns at a boundary -/

/-- The samples of a boundary, and what follows them. -/
def boundaryRest (s : State) : State :=
  { (allChannels.foldl (fun s c => s.sampleChannel c) s).awaitReturns.settleInterruptions with
    time := { (allChannels.foldl (fun s c => s.sampleChannel c) s).awaitReturns.settleInterruptions.time with
      boundaryPassed := true, sampleDone := true } }

theorem sampleBoundary_eq (s : State) :
    s.sampleBoundary = boundaryRest (allChannels.foldl (fun s c => s.takeMissing c) s) := rfl

theorem boundaryRest_muted {s : State} (muted : s.injecting = false) :
    ∃ ch fr am po, boundaryRest s = { s with
        synth := { s.synth with channels := ch }, amp := { s.amp with channels := am, frame := fr }
        breaker := { s.breaker with poles := po }
        time := { s.time with boundaryPassed := true, sampleDone := true } }
      ∧ (∀ c, ch.get c = mutedChannel s c) ∧ (∀ c, fr.get c = .muted)
      ∧ (∀ c, am.get c = { s.amp.channels.get c with returned := false })
      ∧ ((∀ q, (s.breaker.poles.get q).interruption ≠ .inProgress) → po = s.breaker.poles) := by
  obtain ⟨ch, fr, samples, channels, frame⟩ := mutes_foldl (s := s) muted (done := []) (rest := allChannels)
    allChannels_nodup (ch := s.synth.channels) (fr := s.amp.frame)
    (fun c => (if_neg List.not_mem_nil).symm) (fun c mem => absurd mem List.not_mem_nil)
  have samples : allChannels.foldl (fun s c => s.sampleChannel c) s = mutedState s ch fr := samples
  unfold boundaryRest
  rewrite [samples, settleInterruptions_frame]
  refine ⟨ch, fr, _, _, rfl, fun c => (channels c).trans (if_pos (mem_allChannels c)),
    fun c => frame c (mem_allChannels c), fun c => PerChannel.get_mapWith _ _ c, fun none => ?_⟩
  refine PerPole.ext_get fun q => ?_
  rewrite [settle_pole]
  refine if_neg fun progress => none q ?_
  exact of_decide_eq_true (Bool.and_eq_true_iff.1 progress).1

theorem boundaryRest_keeps (s : State) : (boundaryRest s).seq = s.seq ∧ (boundaryRest s).guard = s.guard
    ∧ ∀ c, (boundaryRest s).amp.channels.get c = { s.amp.channels.get c with returned := false } := by
  cases injecting : s.injecting with
  | false =>
    obtain ⟨ch, fr, am, po, frame, -, -, returned, -⟩ := boundaryRest_muted injecting
    rewrite [frame]
    exact ⟨rfl, rfl, returned⟩
  | true =>
    obtain ⟨ch, fr, dr, po, samples, -, -⟩ := samples_foldl (s := s) injecting (done := []) (rest := allChannels)
      allChannels_nodup (ch := s.synth.channels) (fr := s.amp.frame) (dr := s.drains) (po := s.ports)
      (fun c => (if_neg List.not_mem_nil).symm) (fun c mem => absurd mem List.not_mem_nil)
    have samples : allChannels.foldl (fun s c => s.sampleChannel c) s
        = sampled s ch fr (allChannels.foldl (clipLog s) s.log) dr po := samples
    unfold boundaryRest
    rewrite [samples, settleInterruptions_frame]
    exact ⟨rfl, rfl, fun c => PerChannel.get_mapWith _ _ c⟩

theorem exec_sampleBoundary {s : State} (due : s.boundaryDue = true) :
    exec .sampleBoundary s = .next (boundaryRest (allChannels.foldl (fun s c => s.takeMissing c) s)) := by
  rw [exec, execSampleBoundary, if_pos due, sampleBoundary_eq]

theorem takeMissing_idle {s : State} (idle : s.seq.phase = .idle) (l : List Channel) :
    l.foldl (fun s c => s.takeMissing c) s = s := by
  have one : ∀ c, s.takeMissing c = s := fun c => by
    have inactive : s.shotActive = false := Bool.eq_false_iff.2 fun active => (shotActive_iff s).1 active idle
    unfold State.takeMissing
    dsimp only
    rewrite [inactive]
    exact if_neg (by simp)
  induction l with
  | nil => rfl
  | cons c rest ih => rw [List.foldl_cons, one, ih]

theorem mutedChannelsEmitZero : MutedChannelsEmitZero := by
  intro s
  refine ⟨fun early => ?_, fun due phase returned => ?_⟩
  · rw [exec, execSampleBoundary, if_neg (Bool.eq_false_iff.1 early)]
  · have muted : s.injecting = false := by
      refine decide_eq_false fun injecting => ?_
      rcases phase with h | h | h <;> rw [h] at injecting <;> rcases injecting with i | i <;> cases i
    have missing : allChannels.foldl (fun s c => s.takeMissing c) s = s := by
      by_cases idle : s.seq.phase = .idle
      · exact takeMissing_idle idle _
      · exact missing_foldl fun c _ => returned idle c
    obtain ⟨ch, fr, am, po, frame, channels, frames, awaits, poles⟩ := boundaryRest_muted muted
    rewrite [exec_sampleBoundary due, missing, frame]
    exact ⟨_, rfl, rfl, fun c => ⟨channels c, frames c, awaits c⟩, poles⟩

/-! ### A return missing (R70, Table 3-7) -/

section Missing

variable {s : State} {c : Channel}

/-- Only the channel whose return is missing is counted. -/
theorem missing_one (others : ∀ d, d ≠ c → (s.amp.channels.get d).returned = true)
    (after : ∀ d, d ≠ c → ((s.takeMissing c).amp.channels.get d).returned = true) :
    allChannels.foldl (fun s c => s.takeMissing c) s = s.takeMissing c := by
  obtain ⟨before, rest, split⟩ := List.append_of_mem (mem_allChannels c)
  have nodup := allChannels_nodup
  rewrite [split] at nodup
  have notBefore : ∀ d ∈ before, d ≠ c := fun d mem same =>
    List.disjoint_of_nodup_append nodup mem (same ▸ List.mem_cons_self)
  have notRest : ∀ d ∈ rest, d ≠ c := fun d mem same =>
    (List.nodup_cons.1 (List.nodup_append.1 nodup).2.1).1 (same ▸ mem)
  rewrite [split, List.foldl_append, missing_foldl fun d mem => others d (notBefore d mem), List.foldl_cons]
  exact missing_foldl fun d mem => after d (notRest d mem)

theorem takeMissing_counted (active : s.seq.phase ≠ .idle) (missed : (s.amp.channels.get c).returned = false)
    (overload : (s.amp.channels.get c).overload < 5) (missing : (s.amp.channels.get c).missing < 3) :
    s.takeMissing c = s.takeCount c ((s.amp.channels.get c).countMissing (s.amp.frame.get c).valid) := by
  unfold State.takeMissing
  dsimp only
  refine if_pos ?_
  rewrite [missed, (shotActive_iff s).2 active]
  exact decide_eq_true ⟨overload, missing⟩

theorem setAmp_other {a : AmpChannel} {d : Channel} (h : d ≠ c) :
    (s.setAmp c a).amp.channels.get d = s.amp.channels.get d := by
  show (s.amp.channels.set c a).get d = _
  rw [PerChannel.get_set, if_neg h]

theorem setAmp_same {a : AmpChannel} : (s.setAmp c a).amp.channels.get c = a := PerChannel.get_set_same _ _ _

/-- A boundary at which a return is missing and no cause is raised. -/
theorem exec_missing_counts {a : AmpChannel} (due : s.boundaryDue = true)
    (others : ∀ d, d ≠ c → (s.amp.channels.get d).returned = true) (taken : s.takeMissing c = s.setAmp c a) :
    ∃ t, exec .sampleBoundary s = .next t ∧ (t.amp.channels.get c).overload = a.overload
      ∧ (t.amp.channels.get c).missing = a.missing ∧ t.seq = s.seq ∧ t.guard = s.guard := by
  have one := missing_one others fun d ne => by
    rewrite [taken, setAmp_other ne]
    exact others d ne
  obtain ⟨seq, guard, channels⟩ := boundaryRest_keeps (s.setAmp c a)
  refine ⟨_, exec_sampleBoundary due, ?_⟩
  rewrite [one, taken, channels, setAmp_same]
  exact ⟨rfl, rfl, seq, guard⟩

end Missing

theorem missingReturnsAreCounted : MissingReturnsAreCounted := by
  intro c s due active returned overload missing
  have missed : (s.amp.channels.get c).returned = false := by rw [returned]; simp
  have others : ∀ d, d ≠ c → (s.amp.channels.get d).returned = true := fun d ne => by
    rewrite [returned]
    exact decide_eq_true ne
  have counted := takeMissing_counted active missed overload missing
  refine ⟨fun invalid => ?_, fun valid few => ?_, fun valid second clear ends => ?_, fun valid second quiet => ?_⟩
  · rewrite [invalid] at counted
    exact exec_missing_counts due others counted
  · rewrite [valid] at counted
    have cause : (s.amp.channels.get c).countMissing true = ({ s.amp.channels.get c with
        overload := 0, missing := (s.amp.channels.get c).missing + 1 }, none) := by
      rw [AmpChannel.countMissing, if_pos rfl, if_neg (by omega)]
    rewrite [cause] at counted
    exact exec_missing_counts due others counted
  all_goals
    have cause : (s.amp.channels.get c).countMissing true = ({ s.amp.channels.get c with
        overload := 0, missing := 3 }, some .disconnected) := by
      rw [AmpChannel.countMissing, if_pos rfl, second, if_pos (by omega)]
    rewrite [valid, cause, takeCount_some] at counted
  · obtain ⟨⟨entered, taken⟩, raised, amp, latches, -⟩ := raiseFault_hard (s := s) (c := c) (cause := .disconnected)
      (a := { s.amp.channels.get c with overload := 0, missing := 3 }) rfl clear ends
    rewrite [← counted] at entered taken raised amp latches
    have one := missing_one others fun d ne => by
      rewrite [amp, setAmp_other ne]
      exact others d ne
    have phase : (s.takeMissing c).seq.phase = .closing := entered.1
    have muted : (s.takeMissing c).injecting = false := by
      rewrite [State.injecting, phase]
      rfl
    obtain ⟨ch, fr, am, po, frame, -, frames, awaits, -⟩ := boundaryRest_muted muted
    refine ⟨_, exec_sampleBoundary due, ?_⟩
    rewrite [one, frame]
    refine ⟨?_, phase, entered.2.1, entered.2.2.1, taken, latches, raised, frames⟩
    show (am.get c).missing = 3
    rw [awaits, amp, setAmp_same]
  · rewrite [raiseFault_quiet (s := s.setAmp c { s.amp.channels.get c with overload := 0, missing := 3 }) (c := c)
      (cause := .disconnected) (.inr quiet)] at counted
    obtain ⟨t, run, -, rest⟩ := exec_missing_counts due others counted
    exact ⟨t, run, rest⟩

set_option Elab.async false in
/-- Settles O45. -/
theorem boundariesWithoutInjection : Obligations.BoundariesWithoutInjection :=
  ⟨mutedChannelsEmitZero, missingReturnsAreCounted⟩

end Sys2Proof.Proofs.Muted
end

section
/-! PROOF. The choice at a boundary, and the timeout (O49). -/

namespace Sys2Proof.Proofs.Choosing

open Sys2Proof Sys2Proof.Machine

/-! ### The choice (R33, R43) -/

/-- The first candidate whose boundary has come is the one of the lowest index. -/
theorem firstCandidate_lowest {now : Nat} {c : CondState} {b : Nat} (candidate : c.candidate = some b) (come : b ≤ now)
    {l : List CondState} {k : Nat} (at_ : l[k]? = some c)
    (later : ∀ j c' b', j < k → l[j]? = some c' → c'.candidate = some b' → now < b') (i : Nat) :
    firstCandidate now i l = some (i + k, c.condition) := by
  induction l generalizing i k with
  | nil => cases at_
  | cons x rest ih =>
    cases k with
    | zero =>
      obtain rfl : x = c := Option.some.inj at_
      rewrite [firstCandidate, candidate]
      exact if_pos come
    | succ k =>
      have next := ih (k := k) at_ (fun j c' b' lt => later (j + 1) c' b' (Nat.succ_lt_succ lt)) (i + 1)
      rewrite [Nat.add_right_comm, Nat.add_assoc] at next
      cases own : x.candidate with
      | none =>
        rewrite [firstCandidate, own]
        exact next
      | some b' =>
        have notCome : ¬ b' ≤ now := Nat.not_le.2 (later 0 x b' (Nat.succ_pos k) rfl own)
        rewrite [firstCandidate, own]
        exact (if_neg notCome).trans next

theorem firstCandidate_none {now : Nat} {l : List CondState}
    (later : ∀ c ∈ l, ∀ b, c.candidate = some b → now < b) (i : Nat) : firstCandidate now i l = none := by
  induction l generalizing i with
  | nil => rfl
  | cons x rest ih =>
    have next := ih (fun c mem => later c (List.mem_cons_of_mem _ mem)) (i + 1)
    cases own : x.candidate with
    | none =>
      rewrite [firstCandidate, own]
      exact next
    | some b =>
      rewrite [firstCandidate, own]
      exact (if_neg (Nat.not_le.2 (later x List.mem_cons_self b own))).trans next

section Open

variable {s : State} {v : Visit}

theorem transition_candidate (unchosen : s.seq.chosen = none) (visit : s.seq.visit = some v) {i : Nat} {c : Condition}
    (first : firstCandidate s.now 0 v.conditions = some (i, c)) :
    s.transition = some (s.transitionTo c.next (.condition (Fin.ofNat 4 i))) := by
  simp only [State.transition, unchosen, visit, first]

theorem transition_timeout (unchosen : s.seq.chosen = none) (visit : s.seq.visit = some v)
    (first : firstCandidate s.now 0 v.conditions = none) :
    s.transition = if v.timeoutAt = some s.now then some (s.transitionTo v.record.timeoutNext .timeout) else none := by
  simp only [State.transition, unchosen, visit, first]

end Open

theorem theLowestConditionWins : TheLowestConditionWins := by
  intro s v visit
  refine ⟨fun c chosen => ?_, fun unchosen => ⟨fun k c b at_ candidate come later => ?_, fun later => ?_⟩, fun _ _ => rfl⟩
  · rw [State.transition, chosen]
  · have first := firstCandidate_lowest candidate come at_
      (fun j c' b' lt => later ⟨j, Nat.lt_trans lt k.isLt⟩ c' b' lt) 0
    have index : Fin.ofNat 4 k.val = k := Fin.ext (Nat.mod_eq_of_lt k.isLt)
    rewrite [Nat.zero_add] at first
    rw [transition_candidate unchosen visit first, index]
  · rewrite [transition_timeout unchosen visit (firstCandidate_none later 0)]
    exact ⟨fun timeout => if_pos timeout, fun other => if_neg other⟩

/-! ### STATE_TIMEOUT (R32 to R35) -/

theorem timeoutChoosesATransition : TimeoutChoosesATransition := by
  intro s
  refine ⟨fun early => ?_, fun v c _ visit unchosen timeout isOpen choice => ?_⟩
  · rw [exec, execStateTimeout, if_neg (Bool.eq_false_iff.1 early)]
  · have due : s.timeoutDue = true := by
      rewrite [State.timeoutDue, isOpen, unchosen, visit]
      exact decide_eq_true timeout
    rewrite [exec, execStateTimeout, if_pos due, choice]
    refine ⟨fun ends => ?_, fun state waits => ?_⟩
    · cases target : c.target with
      | finish => simp only [target]
      | state i =>
        have reached : s.inceptionReached c.inception = true := ends.resolve_left fun h => by
          rewrite [target] at h
          cases h
        simp only [target, reached, if_true]
    · cases target : c.target with
      | finish => exact absurd target state
      | state i =>
        simp only [target, waits, Bool.false_eq_true, if_false]
        rfl

set_option Elab.async false in
/-- Settles O49. -/
theorem theChoiceAtABoundary : Obligations.TheChoiceAtABoundary := ⟨theLowestConditionWins, timeoutChoosesATransition⟩

end Sys2Proof.Proofs.Choosing
end

section
/-! PROOF. What a delivery of a change of the signal vector does to its consumers (R26, R31, R63, R105). -/

namespace Sys2Proof.Proofs.Consumers

open Sys2Proof Sys2Proof.Machine Sys2Proof.Proofs.Arming

/-! ### Exit conditions (R31) -/

theorem holds_iff (c : Condition) (signals : Mask) :
    c.holds signals = true ↔ signals &&& c.enable = c.value &&& c.enable := decide_eq_true_iff

section Evaluate

variable {c : CondState} {i : Fin 4} {signals : Mask} {t now boundary : Nat} {deferring : Bool} {owner : Nat}
  {l : TimedList}

theorem evaluate_same (same : c.condition.holds signals = c.truth) :
    c.evaluate i signals t now boundary deferring owner l = (c, l) := by
  unfold CondState.evaluate
  rewrite [same]
  cases c.truth <;> rfl

theorem evaluate_falls (holds : c.condition.holds signals = false) (truth : c.truth = true) :
    c.evaluate i signals t now boundary deferring owner l
      = ({ c with truth := false },
         { l with entries := l.entries.filter fun a => decide (a.work ≠ .condition i) }) := by
  unfold CondState.evaluate
  rewrite [holds, truth]
  rfl

theorem evaluate_rises_later (holds : c.condition.holds signals = true) (truth : c.truth = false)
    (later : now < t + c.condition.hold * 100) :
    c.evaluate i signals t now boundary deferring owner l
      = ({ c with truth := true }, l.place (t + c.condition.hold * 100) (.condition i) (some owner)) := by
  unfold CondState.evaluate
  rewrite [holds, truth]
  exact if_neg (Nat.not_le.2 later)

theorem evaluate_rises_now (holds : c.condition.holds signals = true) (truth : c.truth = false)
    (now_ : t + c.condition.hold * 100 ≤ now) :
    c.evaluate i signals t now boundary deferring owner l
      = ({ c with
            truth := true
            candidate := if deferring then c.candidate else some (c.candidate.getD boundary) },
         { l with next := l.next + 1 }) := by
  unfold CondState.evaluate
  rewrite [holds, truth]
  refine (if_pos now_).trans (Prod.ext ?_ rfl)
  cases deferring with
  | true => rfl
  | false => cases c with
    | mk _ _ candidate => cases candidate <;> rfl

/-- The truth and the candidacy that a condition takes do not depend on the list. -/
theorem evaluate_state (l l' : TimedList) : (c.evaluate i signals t now boundary deferring owner l).1
    = (c.evaluate i signals t now boundary deferring owner l').1 := by
  by_cases same : c.condition.holds signals = c.truth
  · rw [evaluate_same same, evaluate_same same]
  · cases truth : c.truth with
    | true =>
      rewrite [truth, Bool.not_eq_true] at same
      rw [evaluate_falls same truth, evaluate_falls same truth]
    | false =>
      rewrite [truth, Bool.not_eq_false] at same
      by_cases later : now < t + c.condition.hold * 100
      · rw [evaluate_rises_later same truth later, evaluate_rises_later same truth later]
      · rw [evaluate_rises_now same truth (Nat.not_lt.1 later), evaluate_rises_now same truth (Nat.not_lt.1 later)]

end Evaluate

theorem evaluateAll_eq (signals : Mask) (t now b : Nat) (deferring : Bool) (owner : Nat) (cs : List CondState) (i : Nat)
    (l : TimedList) :
    evaluateAll signals t now b deferring owner i cs l
      = ((cs.zipIdx i).map fun x => (CondState.evaluate x.1 (Fin.ofNat 4 x.2) signals t now b deferring owner l).1,
         (cs.zipIdx i).foldl (fun m x =>
           (CondState.evaluate x.1 (Fin.ofNat 4 x.2) signals t now b deferring owner m).2) l) := by
  induction cs generalizing i l with
  | nil => rfl
  | cons c rest ih =>
    rewrite [evaluateAll, ih, List.zipIdx_cons, List.map_cons, List.foldl_cons]
    refine Prod.ext (congrArg (List.cons _) (List.map_congr_left fun x _ => evaluate_state _ _)) rfl

theorem conditionsFollowTheVector : ConditionsFollowTheVector := by
  intro c i signals t now boundary deferring owner l holds iff
  have same : c.condition.holds signals = holds := by
    rw [Bool.eq_iff_iff, holds_iff, iff]
  subst same
  exact ⟨evaluate_same, evaluate_falls, evaluate_rises_later, evaluate_rises_now⟩

/-! ### A delivery (R74) -/

section Deliver

variable (s : State) (n : Nat) (active : Bool) (t : Nat)

/-- The list once the conditions of the visit, if there is one, have followed the vector. -/
def deliveredActions : TimedList :=
  match s.seq.visit with
  | none => s.actions
  | some v => ListReevaluated s v s.signals t s.actions

/-- The visit once its conditions have followed the vector. -/
def deliveredVisit : Option Visit :=
  s.seq.visit.map fun v => { v with conditions := ConditionsReevaluated s v s.signals t s.actions }

theorem evaluateConditions_eq : s.evaluateConditions t
    = { s with seq := { s.seq with visit := deliveredVisit s t }, actions := deliveredActions s t } := by
  cases visit : s.seq.visit with
  | none =>
    have same : deliveredVisit s t = s.seq.visit := by
      rewrite [deliveredVisit, visit]
      rfl
    have list : deliveredActions s t = s.actions := by rw [deliveredActions, visit]
    rw [evaluateConditions_none s t visit, same, list]
  | some v =>
    have followed : deliveredVisit s t = some { v with conditions := ConditionsReevaluated s v s.signals t s.actions } := by
      rewrite [deliveredVisit, visit]
      rfl
    have list : deliveredActions s t = ListReevaluated s v s.signals t s.actions := by rw [deliveredActions, visit]
    rewrite [State.evaluateConditions, visit, followed, list]
    dsimp only
    rewrite [evaluateAll_eq]
    rfl

/-- The start boundary once an ON_INPUT match has been weighed. -/
def deliveredStart : Option Nat :=
  match s.seq.phase, s.seq.mode, s.seq.startBoundary with
  | .armed, some (.onInput mask value), none =>
      if mask.getLsbD n = true ∧ s.signals &&& mask = value &&& mask then some s.nextBoundary else none
  | _, _, b => b

theorem deliveredStart_match {mask value : Mask} (phase : s.seq.phase = .armed)
    (mode : s.seq.mode = some (.onInput mask value)) (start : s.seq.startBoundary = none) :
    deliveredStart s n = if mask.getLsbD n = true ∧ s.signals &&& mask = value &&& mask then some s.nextBoundary else none := by
  simp only [deliveredStart, phase, mode, start]

theorem deliveredStart_other (h : ∀ mask value, s.seq.phase = .armed → s.seq.mode = some (.onInput mask value) →
    s.seq.startBoundary ≠ none) : deliveredStart s n = s.seq.startBoundary := by
  unfold deliveredStart
  split
  next mask value phase mode start => exact absurd start (h mask value phase mode)
  next => rfl

theorem matchStart_eq : s.matchStart n = { s with seq := { s.seq with startBoundary := deliveredStart s n } } := by
  unfold State.matchStart
  split
  next mask value phase mode start =>
    rewrite [deliveredStart_match s n phase mode start]
    have weigh : (mask.getLsbD n && masked s.signals mask value) = true
        ↔ mask.getLsbD n = true ∧ s.signals &&& mask = value &&& mask := by
      simp only [masked, Bool.and_eq_true, decide_eq_true_eq]
    by_cases holds : mask.getLsbD n = true ∧ s.signals &&& mask = value &&& mask
    · rw [if_pos holds, if_pos (weigh.2 holds)]
    · rw [if_neg holds, if_neg (mt weigh.1 holds), ← start]
  next other => rw [deliveredStart_other s n fun mask value phase mode start => other mask value phase mode start]

/-- The RAMP_RESULT of a ramp stopped at a change with time `t`. -/
def pickup (v : Visit) (r : Ramp) (t : Nat) : RecordBody :=
  .rampResult v.state r.target r.quantity (some (RampValueAfter r ((max t v.entry - v.entry) / (r.dwell * 100))))

def pickupRecord (s : State) (v : Visit) (r : Ramp) (t : Nat) : LogRecord :=
  s.makeRecord (s.shotTime (max t v.entry)) (pickup v r t)

/-- Signal `n` on becoming active stops the ramp. -/
theorem freezeRamp_stops {s : State} {n t : Nat} {v : Visit} {r : Ramp} (stops : StopsTheRamp s n true v r) :
    s.freezeRamp n t = State.offer { s with synth := { s.synth with ramp := { s.synth.ramp with state := .frozen } } }
      (s.shotTime (max t v.entry)) (pickup v r t) := by
  obtain ⟨-, visit, ramp, entry, running, mask⟩ := stops
  have frozen : (decide (s.synth.ramp.state = .stepping ∨ s.synth.ramp.state = .atLimit)
      && decide (s.synth.ramp.entry = v.entry) && r.stopMask.getLsbD n) = true := by
    rewrite [decide_eq_true running, decide_eq_true entry, mask]
    rfl
  simp only [State.freezeRamp, visit, ramp, frozen, if_true]
  rfl

theorem freezeRamp_stands {s : State} {n t : Nat} (stands : ∀ v r, ¬ StopsTheRamp s n true v r) : s.freezeRamp n t = s := by
  unfold State.freezeRamp
  split
  next v r visit ramp =>
    refine if_neg fun frozen => stands v r ?_
    obtain ⟨both, mask⟩ := Bool.and_eq_true_iff.1 frozen
    obtain ⟨running, entry⟩ := Bool.and_eq_true_iff.1 both
    exact ⟨rfl, visit, ramp, of_decide_eq_true entry, of_decide_eq_true running, mask⟩
  next => rfl

/-- The context once the captures have followed the change. -/
def deliveredAssess : Option AssessContext :=
  s.assess.map fun ctx : AssessContext =>
    { ctx with captures := ctx.captures.map fun c : Capturing =>
        if active = true ∧ c.capture = .waiting ∧ c.assessment.mask.getLsbD n = true then
          { c with capture := .captured (max (s.shotTime t) ctx.entry) }
        else c }

theorem activate_eq (c : Capturing) (n at_ : Nat) : c.activate n at_
    = if c.capture = .waiting ∧ c.assessment.mask.getLsbD n = true then { c with capture := .captured at_ } else c := by
  unfold Capturing.activate
  cases capture : c.capture with
  | waiting => simp only [true_and]
  | captured x => exact (if_neg fun h => by cases h.1).symm
  | alreadyActive => exact (if_neg fun h => by cases h.1).symm

theorem capture_eq : s.capture n t = { s with assess := deliveredAssess s n true t } := by
  unfold State.capture deliveredAssess
  simp only [activate_eq, true_and]

theorem deliveredAssess_inactive : deliveredAssess s n false t = s.assess := by
  unfold deliveredAssess
  cases s.assess with
  | none => rfl
  | some ctx => simp

/-- The state after a delivery. -/
def delivered (ra : RampContext) (lg : ReportLog) (dr : PerPort Drain) (po : PerPort PortInterface) : State :=
  { s with
    seq := { s.seq with visit := deliveredVisit s t, startBoundary := deliveredStart s n }
    synth := { s.synth with ramp := ra }, assess := deliveredAssess s n active t, actions := deliveredActions s t
    log := lg, drains := dr, ports := po }

/-- The state in which the conditions and the start have followed the vector. -/
def evaluated : State :=
  { s with
    seq := { s.seq with visit := deliveredVisit s t, startBoundary := deliveredStart s n }
    actions := deliveredActions s t }

theorem evaluated_eq : (s.evaluateConditions t).matchStart n = evaluated s n t := by
  have signals : (s.evaluateConditions t).signals = s.signals := by
    rewrite [evaluateConditions_eq]
    exact signals_congr rfl rfl rfl
  have start : deliveredStart (s.evaluateConditions t) n = deliveredStart s n := by
    unfold deliveredStart
    rewrite [signals, evaluateConditions_eq]
    rfl
  rewrite [matchStart_eq, start, evaluateConditions_eq]
  rfl

/-- What a delivery does to a ramp, with the RAMP_RESULT of one that it stops. -/
structure RampDelivered (ra : RampContext) (lg : ReportLog) : Prop where
  stops : ∀ v r, StopsTheRamp s n active v r → ra = { s.synth.ramp with state := .frozen }
    ∧ lg = s.log.offered (pickupRecord s v r t)
  stands : (∀ v r, ¬ StopsTheRamp s n active v r) → ra = s.synth.ramp ∧ lg = s.log

theorem stopsTheRamp_unique {v w : Visit} {r q : Ramp} (h : StopsTheRamp s n active v r) (k : StopsTheRamp s n active w q) :
    v = w ∧ r = q :=
  ⟨Option.some.inj (h.2.1.symm.trans k.2.1), Option.some.inj (h.2.2.1.symm.trans k.2.2.1)⟩

set_option Elab.async false in
theorem deliver_frame : ∃ ra lg dr po, s.deliver n active t = delivered s n active t ra lg dr po
    ∧ RampDelivered s n active t ra lg := by
  unfold State.deliver
  rewrite [evaluated_eq]
  cases active with
  | false =>
    refine ⟨s.synth.ramp, s.log, s.drains, s.ports, ?_, fun v r stops => absurd stops.1 Bool.false_ne_true,
      fun _ => ⟨rfl, rfl⟩⟩
    rewrite [delivered, deliveredAssess_inactive]
    rfl
  | true =>
    dsimp only
    rewrite [if_pos rfl, capture_eq]
    by_cases stops : ∃ v r, StopsTheRamp s n true v r
    · obtain ⟨v, r, stops⟩ := stops
      have visit : (evaluated s n t).seq.visit
          = some { v with conditions := ConditionsReevaluated s v s.signals t s.actions } := by
        show deliveredVisit s t = _
        rewrite [deliveredVisit, stops.2.1]
        rfl
      have frozen := freezeRamp_stops (s := evaluated s n t) (t := t) ⟨rfl, visit, stops.2.2⟩
      obtain ⟨dr, po, frame⟩ := offer_frame
        { evaluated s n t with synth := { s.synth with ramp := { s.synth.ramp with state := .frozen } } }
        (s.shotTime (max t v.entry)) (pickup v r t)
      refine ⟨{ s.synth.ramp with state := .frozen }, s.log.offered (pickupRecord s v r t), dr, po, ?_, fun w q other => ?_, fun none => absurd stops (none v r)⟩
      · rewrite [frozen]
        exact congrArg (fun u : State => { u with assess := deliveredAssess u n true t }) frame
      · obtain ⟨rfl, rfl⟩ := stopsTheRamp_unique s n true stops other
        exact ⟨rfl, rfl⟩
    · have stands : ∀ v r, ¬ StopsTheRamp (evaluated s n t) n true v r := fun v r h => by
        obtain ⟨-, visit, ramp, entry, rest⟩ := h
        obtain ⟨w, own, rfl⟩ := Option.map_eq_some_iff.1 visit
        exact stops ⟨w, r, rfl, own, ramp, entry, rest⟩
      rewrite [freezeRamp_stands stands]
      exact ⟨s.synth.ramp, s.log, s.drains, s.ports, rfl, fun v r h => absurd ⟨v, r, h⟩ stops, fun _ => ⟨rfl, rfl⟩⟩

end Deliver

end Sys2Proof.Proofs.Consumers
end

section
/-! PROOF. Deliveries as the statements put them; a condition's action that falls due (O48, in part). -/

namespace Sys2Proof.Proofs.Deliveries

open Sys2Proof Sys2Proof.Machine Sys2Proof.Proofs.Arming Sys2Proof.Proofs.Consumers Sys2Proof.Proofs.DueActions

/-! ### Every consumer takes a delivery (R74) -/

/-- A state before a delivery, `d`, that has the consumers of another, `s`. -/
structure SameConsumers (s d : State) : Prop where
  seq : d.seq = s.seq
  ramp : d.synth.ramp = s.synth.ramp
  assess : d.assess = s.assess
  time : d.time = s.time

/-- A state after a delivery, `u`, that has the consumers that it left, `d`. -/
structure KeepsConsumers (d u : State) : Prop where
  seq : u.seq = d.seq
  ramp : u.synth.ramp = d.synth.ramp
  assess : u.assess = d.assess
  signals : u.signals = d.signals
  actions : ConditionActions u.actions = ConditionActions d.actions
  log : ∀ r ∈ d.log.records, r ∈ u.log.records

theorem deliver_signals (s : State) (n : Nat) (active : Bool) (t : Nat) : (s.deliver n active t).signals = s.signals := by
  obtain ⟨_, _, _, _, frame, -⟩ := deliver_frame s n active t
  rewrite [frame]
  exact signals_congr rfl rfl rfl

section Take

variable {s d u : State} {n : Nat} {active : Bool} {t : Nat}

theorem SameConsumers.nextBoundary (same : SameConsumers s d) : d.nextBoundary = s.nextBoundary := by
  unfold State.nextBoundary State.openBoundary State.atBoundary State.now
  rw [same.time]

theorem SameConsumers.now (same : SameConsumers s d) : d.now = s.now := by
  unfold State.now
  rw [same.time]

theorem SameConsumers.reevaluated (same : SameConsumers s d) (v : Visit) (signals : Mask) (t : Nat) (l : TimedList) :
    ConditionsReevaluated d v signals t l = ConditionsReevaluated s v signals t l
    ∧ ListReevaluated d v signals t l = ListReevaluated s v signals t l := by
  unfold ConditionsReevaluated ListReevaluated
  rewrite [same.nextBoundary, same.now, same.seq]
  exact ⟨rfl, rfl⟩

theorem visitFollows (same : SameConsumers s d) (keeps : KeepsConsumers (d.deliver n active t) u) :
    VisitFollowsTheVector s u d.actions t := by
  have signals : u.signals = d.signals := keeps.signals.trans (deliver_signals d n active t)
  obtain ⟨ra, lg, dr, po, frame, -⟩ := deliver_frame d n active t
  have visit : u.seq.visit = deliveredVisit d t := by rw [keeps.seq, frame]; rfl
  have actions : ConditionActions u.actions = ConditionActions (deliveredActions d t) := by rw [keeps.actions, frame]; rfl
  refine ⟨fun none => ?_, fun v own => ?_⟩
  · rewrite [← same.seq] at none
    rewrite [visit, actions, deliveredVisit, deliveredActions, none]
    exact ⟨rfl, rfl⟩
  · obtain ⟨conditions, list⟩ := same.reevaluated v u.signals t d.actions
    rewrite [← same.seq] at own
    rewrite [visit, actions, deliveredVisit, deliveredActions, own, ← conditions, ← list, signals]
    exact ⟨rfl, rfl⟩

theorem startFollows (same : SameConsumers s d) (keeps : KeepsConsumers (d.deliver n active t) u) :
    StartFollowsTheVector s u n := by
  have signals : u.signals = d.signals := keeps.signals.trans (deliver_signals d n active t)
  obtain ⟨ra, lg, dr, po, frame, -⟩ := deliver_frame d n active t
  have seq : u.seq = { d.seq with visit := deliveredVisit d t, startBoundary := deliveredStart d n } := by
    rewrite [keeps.seq, frame]
    rfl
  refine ⟨by rw [seq, same.seq], ?_⟩
  rewrite [signals, ← same.nextBoundary, ← same.seq, seq]
  rfl

theorem rampFollows (same : SameConsumers s d) (keeps : KeepsConsumers (d.deliver n active t) u)
    (room : 12 ≤ s.log.unreserved → 1 ≤ d.log.unreserved) : RampFollowsTheVector s u n active t := by
  obtain ⟨ra, lg, dr, po, frame, ramps⟩ := deliver_frame d n active t
  have ramp : u.synth.ramp = ra := by rw [keeps.ramp, frame]; rfl
  have log : ∀ r ∈ lg.records, r ∈ u.log.records := fun r mem => keeps.log r (by rw [frame]; exact mem)
  have stops (v : Visit) (r : Ramp) : StopsTheRamp d n active v r ↔ StopsTheRamp s n active v r := by
    simp only [StopsTheRamp, same.seq, same.ramp]
  refine ⟨fun v r k stopped isK => ?_, fun stands => ?_⟩
  · obtain ⟨frozen, result⟩ := ramps.stops v r ((stops v r).2 stopped)
    refine ⟨by rw [ramp, frozen, same.ramp], fun free => log _ ?_⟩
    have record : pickupRecord d v r t = s.makeRecord (s.shotTime (max t v.entry))
        (.rampResult v.state r.target r.quantity (some (RampValueAfter r k))) := by
      simp only [pickupRecord, pickup, State.makeRecord, State.shotTime, same.seq, same.time, isK]
    rewrite [result, ReportLog.offered_write _ _ (room free), record]
    exact List.mem_append_right _ List.mem_cons_self
  · obtain ⟨still, -⟩ := ramps.stands fun v r h => stands v r ((stops v r).1 h)
    rw [ramp, still, same.ramp]

theorem capturesFollow (same : SameConsumers s d) (keeps : KeepsConsumers (d.deliver n active t) u) :
    CapturesFollowTheVector s u n active t := by
  obtain ⟨ra, lg, dr, po, frame, -⟩ := deliver_frame d n active t
  have assess : u.assess = deliveredAssess d n active t := by rw [keeps.assess, frame]; rfl
  rewrite [CapturesFollowTheVector, assess, deliveredAssess, same.assess]
  simp only [State.shotTime, same.seq]

/-- The consumers of the vector have taken a change that has been delivered. -/
theorem consumersTake_of (same : SameConsumers s d) (keeps : KeepsConsumers (d.deliver n active t) u)
    (room : 12 ≤ s.log.unreserved → 1 ≤ d.log.unreserved) : ConsumersTake s u d.actions n active t :=
  ⟨visitFollows same keeps, startFollows same keeps, rampFollows same keeps room, capturesFollow same keeps⟩

end Take

/-! ### CONDITION_ACTION_DUE (R32, R35, R140) -/

theorem getElem?_updateCondition (f : CondState → CondState) (i k : Nat) (l : List CondState) :
    (updateCondition f i l)[k]? = if k = i then l[k]?.map f else l[k]? := by
  induction l generalizing i k with
  | nil => cases i <;> simp [updateCondition]
  | cons c rest ih =>
    cases i with
    | zero => cases k <;> simp [updateCondition]
    | succ i =>
      cases k with
      | zero => simp [updateCondition]
      | succ k => simp only [updateCondition, List.getElem?_cons_succ, ih, Nat.add_right_cancel_iff]

theorem fallDue_eq (c : CondState) (deferring : Bool) (b : Nat) : c.fallDue deferring b
    = { c with candidate := if deferring then c.candidate else some (c.candidate.getD b) } := by
  obtain ⟨_, _, candidate⟩ := c
  cases deferring <;> cases candidate <;> rfl

set_option Elab.async false in
theorem conditionActionMakesACandidate : ConditionActionMakesACandidate := by
  intro i s
  refine ⟨fun other => ?_, fun a v due work visit => ?_⟩
  · rewrite [exec, execConditionActionDue]
    split
    next j _ due => rw [if_neg fun same => other _ due (by rw [same])]
    next => rfl
  · obtain ⟨t, k, w, o⟩ := a
    obtain rfl : w = .condition i := work
    refine ⟨_, ?_, fun k => (getElem?_updateCondition
      (fun c => c.fallDue s.seq.deferring s.nextBoundary) i.val k v.conditions).trans ?_⟩
    · rewrite [exec, execConditionActionDue, due]
      dsimp only
      rewrite [if_pos rfl, dropDue_erases due, State.conditionFalls]
      dsimp only
      rewrite [visit]
      rfl
    · simp only [fallDue_eq]

end Sys2Proof.Proofs.Deliveries
end

section
/-! PROOF. How many records an operation writes, and what outputs that follow a rule log (R86, R111). -/

namespace Sys2Proof.Proofs.Ledger

open Sys2Proof Sys2Proof.Machine Sys2Proof.Proofs.Arming Sys2Proof.Proofs.Records Sys2Proof.Proofs.Consumers
  Sys2Proof.Proofs.Answering Sys2Proof.Proofs.BreakerSetting

/-- The log `m` is `l` with at most `k` records more; no slot has been freed or reserved. -/
structure AtMost (k : Nat) (l m : ReportLog) : Prop where
  reservation : m.reservation = l.reservation
  records : ∃ more, m.records = l.records ++ more ∧ more.length ≤ k

namespace AtMost

variable {j k : Nat} {l m n : ReportLog}

theorem refl (l : ReportLog) : AtMost 0 l l := ⟨rfl, [], (List.append_nil _).symm, le_rfl⟩

theorem trans (h : AtMost j l m) (g : AtMost k m n) : AtMost (j + k) l n := by
  obtain ⟨reserved, more, records, few⟩ := h
  obtain ⟨reserved', more', records', few'⟩ := g
  refine ⟨reserved'.trans reserved, more ++ more', by rw [records', records, List.append_assoc], ?_⟩
  rewrite [List.length_append]
  omega

theorem mono (h : AtMost j l m) (le : j ≤ k) : AtMost k l m := by
  obtain ⟨reserved, more, records, few⟩ := h
  exact ⟨reserved, more, records, few.trans le⟩

theorem offered (l : ReportLog) (r : LogRecord) : AtMost 1 l (l.offered r) := by
  refine ⟨ReportLog.offered_reservation l r, ?_⟩
  rcases ReportLog.offered_records l r with same | more
  · exact ⟨[], by rw [same, List.append_nil], Nat.zero_le _⟩
  · exact ⟨[r], more, le_rfl⟩

theorem mem (h : AtMost k l m) {r : LogRecord} (old : r ∈ l.records) : r ∈ m.records := by
  obtain ⟨-, more, records, -⟩ := h
  rewrite [records]
  exact List.mem_append_left _ old

/-- The room that is left. -/
theorem room (h : AtMost k l m) {c : Nat} (room : k + c ≤ l.unreserved) : c ≤ m.unreserved := by
  obtain ⟨reserved, more, records, few⟩ := h
  simp only [ReportLog.unreserved, ReportLog.free, reserved, records, List.length_append] at room ⊢
  omega

end AtMost

theorem offered_mem {l : ReportLog} (room : 1 ≤ l.unreserved) (r : LogRecord) : r ∈ (l.offered r).records := by
  rewrite [ReportLog.offered_write l r room]
  exact List.mem_append_right _ List.mem_cons_self

theorem deliver_atMost (s : State) (n : Nat) (active : Bool) (t : Nat) : AtMost 1 s.log (s.deliver n active t).log := by
  obtain ⟨ra, lg, dr, po, frame, ramps⟩ := deliver_frame s n active t
  rewrite [frame]
  show AtMost 1 s.log lg
  by_cases stops : ∃ v r, StopsTheRamp s n active v r
  · obtain ⟨v, r, stops⟩ := stops
    rewrite [(ramps.stops v r stops).2]
    exact AtMost.offered _ _
  · rewrite [(ramps.stands fun v r h => stops ⟨v, r, h⟩).2]
    exact (AtMost.refl _).mono (Nat.zero_le _)

/-! ### Outputs that follow a rule -/

section Refreshed

variable {src : OutputSource} {rule : OutputRole → Option Bool}

theorem setOutput_atMost (s : State) (n : Fin 4) (level : Bool) : AtMost 1 s.log (s.setOutput n level src).log := by
  rewrite [setOutput_log]
  split
  · exact AtMost.offered _ _
  · exact (AtMost.refl _).mono (Nat.zero_le _)

theorem refreshOne_atMost (s : State) (n : Fin 4) : AtMost 1 s.log (s.refreshOne src rule n).log := by
  unfold State.refreshOne
  split
  · exact setOutput_atMost s n _
  · exact (AtMost.refl _).mono (Nat.zero_le _)

theorem refresh_foldl_atMost (l : List (Fin 4)) (s : State) :
    AtMost l.length s.log (l.foldl (fun s n => s.refreshOne src rule n) s).log := by
  induction l generalizing s with
  | nil => exact AtMost.refl _
  | cons n rest ih => exact ((refreshOne_atMost s n).trans (ih _)).mono (by rw [List.length_cons]; omega)

theorem refreshOutputs_atMost (s : State) : AtMost 4 s.log (s.refreshOutputs src rule).log :=
  refresh_foldl_atMost (src := src) (rule := rule) (List.finRange 4) s

/-- An output that takes another level leaves its record, within a shot and with room for it. -/
theorem refreshOne_records {s : State} {n : Fin 4} {level : Bool} (ruled : rule (s.outputs[n]'n.isLt).role = some level)
    (changes : level ≠ (s.outputs[n]'n.isLt).level) (active : s.shotActive = true) (room : 1 ≤ s.log.unreserved) :
    s.makeRecord (s.shotTime s.now) (.outputChange n level src) ∈ (s.refreshOne src rule n).log.records := by
  have log : (s.refreshOne src rule n).log
      = s.log.offered (s.makeRecord (s.shotTime s.now) (.outputChange n level src)) := by
    unfold State.refreshOne
    rewrite [ruled]
    dsimp only
    rw [setOutput_log, if_pos ⟨Ne.symm changes, active⟩]
  rewrite [log]
  exact offered_mem room _

theorem refresh_foldl_records {n : Fin 4} {level : Bool} (l : List (Fin 4)) (apart : l.Nodup) (mem : n ∈ l) :
    ∀ s : State, rule (s.outputs[n]'n.isLt).role = some level → level ≠ (s.outputs[n]'n.isLt).level → s.shotActive = true →
      l.length ≤ s.log.unreserved →
      s.makeRecord (s.shotTime s.now) (.outputChange n level src)
        ∈ (l.foldl (fun s n => s.refreshOne src rule n) s).log.records := by
  induction l with
  | nil => exact absurd mem List.not_mem_nil
  | cons m rest ih =>
    intro s ruled changes active room
    rewrite [List.length_cons] at room
    obtain ⟨other, apart⟩ := List.nodup_cons.1 apart
    rcases eq_or_ne m n with rfl | ne
    · exact (refresh_foldl_atMost rest _).mem (refreshOne_records ruled changes active (by omega))
    · obtain ⟨ou, lg, dr, po, frame⟩ := refreshOne_frame (src := src) (rule := rule) s m
      have same : (s.refreshOne src rule m).outputs[n]'n.isLt = s.outputs[n]'n.isLt := by
        have here := refreshOne_outputs s src rule m n.val n.isLt
        rewrite [if_neg fun e => ne (Fin.ext e)] at here
        exact here
      have left : rest.length ≤ (s.refreshOne src rule m).log.unreserved := (refreshOne_atMost s m).room (by omega)
      have here := ih apart ((List.mem_cons.1 mem).resolve_left (Ne.symm ne)) (s.refreshOne src rule m)
        (by rw [same]; exact ruled) (by rw [same]; exact changes) (by rw [frame]; exact active) left
      have record : (s.refreshOne src rule m).makeRecord ((s.refreshOne src rule m).shotTime (s.refreshOne src rule m).now)
          (.outputChange n level src) = s.makeRecord (s.shotTime s.now) (.outputChange n level src) := by
        rewrite [frame]
        rfl
      rewrite [← record]
      exact here

/-- Outputs that follow a rule: each that changes leaves its record, within a shot and with room for all. -/
theorem refreshOutputs_records {s : State} {n : Fin 4} {level : Bool} (ruled : rule (s.outputs[n]'n.isLt).role = some level)
    (changes : level ≠ (s.outputs[n]'n.isLt).level) (active : s.shotActive = true) (room : 4 ≤ s.log.unreserved) :
    s.makeRecord (s.shotTime s.now) (.outputChange n level src) ∈ (s.refreshOutputs src rule).log.records :=
  refresh_foldl_records (List.finRange 4) (List.nodup_finRange 4) (List.mem_finRange n) s ruled changes active
    (by rw [List.length_finRange]; exact room)

end Refreshed

/-! ### The AUX outputs (R99) -/

theorem allIn_iff (b : Breaker) (p : Position) : b.allIn p = true ↔ ∀ q : Pole, (b.poles.get q).position = p := by
  rewrite [Breaker.allIn, decide_eq_true_iff]
  exact ⟨fun ⟨first, second, third⟩ q => by cases q <;> assumption, fun all => ⟨all .a, all .b, all .c⟩⟩

set_option Elab.async false in
/-- The AUX outputs after a refresh follow the poles; `s` is a state before it, with the same outputs and shot. -/
theorem auxFollow_refreshAux {s d : State} (outputs : d.outputs = s.outputs) (phase : d.seq.phase = s.seq.phase)
    (record : ∀ b, d.makeRecord (d.shotTime d.now) b = s.makeRecord (s.shotTime s.now) b)
    (room : 16 ≤ s.log.unreserved → 4 ≤ d.log.unreserved) : AuxFollow s d.refreshAux := by
  have breaker : d.refreshAux.breaker = d.breaker := by simp
  have out (n : Fin 4) : d.refreshAux.outputs[n]'n.isLt = (s.outputs[n]'n.isLt).ruled d.breaker.auxLevel := by
    rewrite [← outputs]
    exact refreshAux_outputs d n.val n.isLt
  have logged (n : Fin 4) (level : Bool) (ruled : d.breaker.auxLevel (s.outputs[n]'n.isLt).role = some level)
      (changes : level ≠ (s.outputs[n]'n.isLt).level) (active : s.seq.phase ≠ .idle) (free : 16 ≤ s.log.unreserved) :
      s.makeRecord (s.shotTime s.now) (.outputChange n level .breaker) ∈ d.refreshAux.log.records := by
    rewrite [← record]
    rewrite [← outputs] at ruled changes
    exact refreshOutputs_records ruled changes ((shotActive_iff d).2 (by rw [phase]; exact active)) (room free)
  intro n
  have a (role : (s.outputs[n]'n.isLt).role = .aux52A) : d.breaker.auxLevel (s.outputs[n]'n.isLt).role = some (d.breaker.allIn .closed) := by
    rewrite [role]
    rfl
  have b (role : (s.outputs[n]'n.isLt).role = .aux52B) : d.breaker.auxLevel (s.outputs[n]'n.isLt).role = some (d.breaker.allIn .opened) := by
    rewrite [role]
    rfl
  have level {l : Bool} (ruled : d.breaker.auxLevel (s.outputs[n]'n.isLt).role = some l) :
      ((s.outputs[n]'n.isLt).ruled d.breaker.auxLevel).level = l := by
    simp only [Output.ruled, ruled, Option.getD_some]
  rewrite [out, breaker]
  refine ⟨fun role => ⟨role, ?_⟩, fun role => ⟨role, ?_⟩, fun role changes active free => ?_⟩
  · rewrite [level (a role)]
    exact allIn_iff _ _
  · rewrite [level (b role)]
    exact allIn_iff _ _
  · rcases role with role | role
    · rewrite [level (a role)] at changes ⊢
      exact logged n _ (a role) changes active free
    · rewrite [level (b role)] at changes ⊢
      exact logged n _ (b role) changes active free

end Sys2Proof.Proofs.Ledger
end

section
/-! PROOF. What a completed opening and a completed close do to the poles and the channels (R92, R93, R95). -/

namespace Sys2Proof.Proofs.Completing

open Sys2Proof Sys2Proof.Machine Sys2Proof.Proofs.Arming Sys2Proof.Proofs.Consumers Sys2Proof.Proofs.Deliveries
  Sys2Proof.Proofs.Ledger Sys2Proof.Proofs.Injecting Sys2Proof.Proofs.Answering

/-! ### The poles and the channels move -/

/-- The state `s` with a record offered, the poles `po` and the channels `ch`. -/
def moved (s : State) (lg : ReportLog) (dr : PerPort Drain) (pt : PerPort PortInterface) (ch : PerChannel SynthChannel)
    (po : PerPole PoleState) : State :=
  { s with
    log := lg, drains := dr, ports := pt, synth := { s.synth with channels := ch }
    breaker := { s.breaker with poles := po } }

/-- The log once a BREAKER_OP record has been offered, within a shot (R98). -/
def breakerLog (s : State) (q : Pole) (o : BreakerOutcome) (z : Bool) (t : Nat) : ReportLog :=
  if s.shotActive then s.log.offered (s.makeRecord (s.shotTime t) (.breakerOp q o z)) else s.log

theorem offerBreakerOp_frame (s : State) (q : Pole) (o : BreakerOutcome) (z : Bool) (t : Nat) :
    ∃ dr pt, s.offerBreakerOp q o z t = { s with log := breakerLog s q o z t, drains := dr, ports := pt } := by
  unfold State.offerBreakerOp breakerLog
  split
  · exact offer_frame s _ _
  · exact ⟨s.drains, s.ports, rfl⟩

/-- The channels once those linked to a pole have been changed. -/
def linkedTo (s : State) (q : Pole) (f : SynthChannel → SynthChannel) : PerChannel SynthChannel :=
  s.synth.channels.mapWith fun _ c => if c.linkedTo q then f c else c

theorem linkedTo_get (s : State) (q : Pole) (f : SynthChannel → SynthChannel) (c : Channel) :
    (linkedTo s q f).get c
      = if (s.synth.channels.get c).link = some q then f (s.synth.channels.get c) else s.synth.channels.get c := by
  rewrite [linkedTo, PerChannel.get_mapWith]
  simp only [SynthChannel.linkedTo, decide_eq_true_eq]

/-- The pole `q` opened between `s` and `d` with due time `t`, and the others as they were but for an interruption
that its channels complete (R92, R95, R97). -/
structure Opened (s d : State) (q : Pole) (t : Nat) : Prop where
  position : (d.breaker.poles.get q).position = .opened
  openSignal : (d.breaker.poles.get q).openSignal = true
  others : ∀ q', q' ≠ q → d.breaker.poles.get q'
    = { s.breaker.poles.get q' with interruption := (d.breaker.poles.get q').interruption }
  stood : (s.breaker.poles.get q).interruption ≠ .none →
    d.synth.channels = s.synth.channels
    ∧ ∀ q', (d.breaker.poles.get q').interruption = (s.breaker.poles.get q').interruption
      ∧ (d.breaker.poles.get q').start = (s.breaker.poles.get q').start
  begun : (s.breaker.poles.get q).interruption = .none →
    (d.breaker.poles.get q).start = some t ∧ (d.breaker.poles.get q).interruption ≠ .none
    ∧ ((d.breaker.poles.get q).interruption = .complete ↔ LinkedSilenced d q)
    ∧ (∀ q', q' ≠ q → InterruptionStands s d q')
    ∧ d.synth.channels = linkedTo s q fun c => c.poleOpened s.injecting

/-- An interruption that begins at `t`, before it is settled (R95). -/
def interrupted (s : State) (q : Pole) (t : Nat) : State :=
  { s with
    synth := { s.synth with channels := linkedTo s q fun c => c.poleOpened s.injecting }
    breaker := { s.breaker with
      poles := s.breaker.poles.set q
        { s.breaker.poles.get q with position := .opened, interruption := .inProgress, start := some t } } }

/-- The poles and the channels of an opening, but for the open signal (R92, R95). -/
def opening (s : State) (q : Pole) (t : Nat) : State :=
  if (s.breaker.poles.get q).interruption = .none then (interrupted s q t).settleInterruptions
  else s.setPole q { s.breaker.poles.get q with position := .opened }

/-- The poles and the channels of an opening. -/
def openedState (s : State) (q : Pole) (t : Nat) : State :=
  (opening s q t).setPole q { (opening s q t).breaker.poles.get q with openSignal := true }

theorem opening_pole (s : State) (q q' : Pole) (t : Nat) :
    (opening s q t).breaker.poles.get q' = { s.breaker.poles.get q' with
      position := if q' = q then .opened else (s.breaker.poles.get q').position
      interruption := ((opening s q t).breaker.poles.get q').interruption
      start := ((opening s q t).breaker.poles.get q').start } := by
  unfold opening
  split
  · rewrite [(settle_interruption (interrupted s q t) q').1]
    simp only [interrupted, PerPole.get_set]
    split
    next same => rw [same]
    next => rfl
  · rewrite [setPole_breaker, PerPole.get_set]
    split
    next same => rw [same]
    next => rfl

theorem openedState_pole (s : State) (q q' : Pole) (t : Nat) :
    (openedState s q t).breaker.poles.get q' = { (opening s q t).breaker.poles.get q' with
      openSignal := if q' = q then true else (s.breaker.poles.get q').openSignal } := by
  rewrite [openedState, setPole_breaker, PerPole.get_set]
  split
  next same => rw [same]
  next => rw [opening_pole]

/-- The channels and the interruptions of an opening where an interruption stands. -/
theorem openedState_stood {s : State} {q : Pole} (stands : (s.breaker.poles.get q).interruption ≠ .none) (t : Nat) :
    (openedState s q t).synth.channels = s.synth.channels
    ∧ ∀ q', ((openedState s q t).breaker.poles.get q').interruption = (s.breaker.poles.get q').interruption
      ∧ ((openedState s q t).breaker.poles.get q').start = (s.breaker.poles.get q').start := by
  have state : opening s q t = s.setPole q { s.breaker.poles.get q with position := .opened } := if_neg stands
  refine ⟨by rw [openedState, state]; rfl, fun q' => ?_⟩
  rewrite [openedState_pole, state, setPole_breaker, PerPole.get_set]
  split
  next same =>
    rewrite [same]
    exact ⟨rfl, rfl⟩
  next => exact ⟨rfl, rfl⟩

/-- A pole's interruption as the interruptions settle (R95). -/
theorem interruptionStands_settle (s : State) (q : Pole) : InterruptionStands s s.settleInterruptions q := by
  rewrite [InterruptionStands, settle_pole, LinkedSilenced]
  split
  next settles =>
    obtain ⟨progress, silenced⟩ := Bool.and_eq_true_iff.1 settles
    exact ⟨rfl, .inr ⟨of_decide_eq_true progress, rfl, (allSilenced_iff s q).1 silenced⟩⟩
  next => exact ⟨rfl, .inl rfl⟩

/-- The interruption that begins with an opening, and those that stand beside it. -/
theorem openedState_begun {s : State} {q : Pole} (none : (s.breaker.poles.get q).interruption = .none) (t : Nat) :
    ((openedState s q t).breaker.poles.get q).start = some t
    ∧ ((openedState s q t).breaker.poles.get q).interruption ≠ .none
    ∧ (((openedState s q t).breaker.poles.get q).interruption = .complete ↔ LinkedSilenced (openedState s q t) q)
    ∧ (∀ q', q' ≠ q → InterruptionStands s (openedState s q t) q')
    ∧ (openedState s q t).synth.channels = linkedTo s q fun c => c.poleOpened s.injecting := by
  have state : opening s q t = (interrupted s q t).settleInterruptions := if_pos none
  have channels : (openedState s q t).synth = (interrupted s q t).synth := by rw [openedState, state]; rfl
  have own : (interrupted s q t).breaker.poles.get q
      = { s.breaker.poles.get q with position := .opened, interruption := .inProgress, start := some t } :=
    PerPole.get_set_same _ _ _
  obtain ⟨same, -, progress⟩ := settle_interruption (interrupted s q t) q
  obtain ⟨complete, begun⟩ := progress (by rw [own])
  refine ⟨?_, ?_, ?_, fun q' ne => ?_, by rw [channels]; rfl⟩
  · rw [openedState_pole, state, same, own]
  · rewrite [openedState_pole, state]
    exact begun
  · rewrite [openedState_pole, state, LinkedSilenced, channels]
    exact complete
  · have stood : (interrupted s q t).breaker.poles.get q' = s.breaker.poles.get q' := by
      rw [interrupted, PerPole.get_set, if_neg ne]
    have stands := interruptionStands_settle (interrupted s q t) q'
    rewrite [InterruptionStands, LinkedSilenced, stood] at stands
    rewrite [InterruptionStands, LinkedSilenced, openedState_pole, state, channels]
    exact stands

theorem openedState_others {s : State} {q q' : Pole} (ne : q' ≠ q) (t : Nat) :
    (openedState s q t).breaker.poles.get q'
      = { s.breaker.poles.get q' with interruption := ((openedState s q t).breaker.poles.get q').interruption } := by
  have start : ((openedState s q t).breaker.poles.get q').start = (s.breaker.poles.get q').start := by
    by_cases none : (s.breaker.poles.get q).interruption = .none
    · obtain ⟨-, -, -, others, -⟩ := openedState_begun none t
      exact (others q' ne).1
    · exact ((openedState_stood none t).2 q').2
  rewrite [openedState_pole] at start ⊢
  rewrite [opening_pole, if_neg ne, if_neg ne]
  exact congrArg (fun x => { s.breaker.poles.get q' with
    interruption := ((opening s q t).breaker.poles.get q').interruption, start := x }) start

theorem openedState_frame (s : State) (q : Pole) (t : Nat) : openedState s q t
    = moved s s.log s.drains s.ports (openedState s q t).synth.channels (openedState s q t).breaker.poles := by
  have state : ∃ ch po, opening s q t = moved s s.log s.drains s.ports ch po := by
    unfold opening
    split
    · exact ⟨_, _, settleInterruptions_frame _⟩
    · exact ⟨_, _, rfl⟩
  obtain ⟨ch, po, state⟩ := state
  rewrite [openedState, state]
  rfl

theorem opened_openedState (s : State) (q : Pole) (t : Nat) : Opened s (openedState s q t) q t where
  position := by rw [openedState_pole, opening_pole, if_pos rfl]
  openSignal := by rw [openedState_pole, if_pos rfl]
  others _ ne := openedState_others ne t
  stood stands := openedState_stood stands t
  begun none := openedState_begun none t

theorem setPole_openSignal {s : State} {q : Pole} {active : Bool} (same : (s.breaker.poles.get q).openSignal = active) :
    s.setPole q { s.breaker.poles.get q with openSignal := active } = s := by
  rw [← same, State.setPole, PerPole.set_get]

theorem opening_eq (s : State) (q : Pole) (t : Nat) : opening s q t
    = if ((s.setPole q { s.breaker.poles.get q with position := .opened }).breaker.poles.get q).interruption = .none then
        (s.setPole q { s.breaker.poles.get q with position := .opened }).beginInterruption q t
      else s.setPole q { s.breaker.poles.get q with position := .opened } := by
  have own : (s.setPole q { s.breaker.poles.get q with position := .opened }).breaker.poles.get q
      = { s.breaker.poles.get q with position := .opened } := PerPole.get_set_same _ _ _
  rewrite [own]
  refine if_congr Iff.rfl (congrArg State.settleInterruptions ?_) rfl
  unfold interrupted State.onLinked State.setPole linkedTo
  simp only [PerPole.get_set_same, PerPole.set_set]
  rfl

/-- The state from which a completed opening is delivered: the record offered, the poles and the channels moved. -/
structure OpenedFrom (s d : State) (q : Pole) (t : Nat) : Prop where
  opened : Opened s d q t
  frame : ∃ dr pt, d = moved s (breakerLog s q .opened false t) dr pt d.synth.channels d.breaker.poles

/-- An opening completes: the pole opens, a change of its open signal is delivered, the AUX outputs follow (R92). -/
theorem completeOpening_eq (s : State) (q : Pole) (t : Nat) : ∃ d, OpenedFrom s d q t
    ∧ s.completeOpening q t
      = (if (s.breaker.poles.get q).openSignal = true then d else d.deliver (Pole.signal q) true t).refreshAux := by
  obtain ⟨dr, pt, offered⟩ := offerBreakerOp_frame s q .opened false t
  have opened := opened_openedState (s.offerBreakerOp q .opened false t) q t
  have frame := openedState_frame (s.offerBreakerOp q .opened false t) q t
  have signal : ((opening (s.offerBreakerOp q .opened false t) q t).breaker.poles.get q).openSignal
      = (s.breaker.poles.get q).openSignal := by
    rw [opening_pole, offered]
  refine ⟨openedState (s.offerBreakerOp q .opened false t) q t, ?_, ?_⟩
  · generalize openedState (s.offerBreakerOp q .opened false t) q t = d at opened frame
    rewrite [offered] at opened frame
    exact ⟨⟨opened.position, opened.openSignal, opened.others, opened.stood, opened.begun⟩, dr, pt, frame⟩
  · unfold State.completeOpening
    dsimp only
    rewrite [← opening_eq, signal]
    refine congrArg State.refreshAux ?_
    split
    next already =>
      exact (setPole_openSignal (signal.trans already)).symm
    next => rfl

/-! ### A close -/

/-- The state from which a completed close is delivered: the record offered, the pole and the channels moved. -/
structure ClosedFrom (s d : State) (q : Pole) (t : Nat) : Prop where
  pole : d.breaker.poles.get q = { position := .closed, interruption := .none, start := none, openSignal := false }
  others : ∀ q', q' ≠ q → d.breaker.poles.get q' = s.breaker.poles.get q'
  channels : d.synth.channels = linkedTo s q SynthChannel.poleClosed
  frame : ∃ dr pt, d = moved s (breakerLog s q .closed false t) dr pt d.synth.channels d.breaker.poles

/-- The poles and the channels of a close. -/
def closedState (s : State) (q : Pole) : State :=
  moved s s.log s.drains s.ports (linkedTo s q SynthChannel.poleClosed)
    (s.breaker.poles.set q { position := .closed, interruption := .none, start := none, openSignal := false })

/-- A close but for the open signal. -/
def closing (s : State) (q : Pole) : State :=
  (s.setPole q { s.breaker.poles.get q with position := .closed, interruption := .none, start := none }).onLinked q
    fun c => c.poleClosed

theorem closing_pole (s : State) (q : Pole) : (closing s q).breaker.poles.get q
    = { s.breaker.poles.get q with position := .closed, interruption := .none, start := none } :=
  PerPole.get_set_same _ _ _

theorem closedState_eq (s : State) (q : Pole) :
    closedState s q = (closing s q).setPole q { (closing s q).breaker.poles.get q with openSignal := false } := by
  rewrite [closing_pole]
  unfold closing closedState moved State.onLinked State.setPole linkedTo
  simp only [PerPole.set_set]

set_option Elab.async false in
/-- A close completes: the pole closes, a change of its open signal is delivered, the AUX outputs follow (R93). -/
theorem completeClosing_eq (s : State) (q : Pole) (t : Nat) : ∃ d, ClosedFrom s d q t
    ∧ s.completeClosing q t
      = (if (s.breaker.poles.get q).openSignal = true then d.deliver (Pole.signal q) false t else d).refreshAux := by
  obtain ⟨dr, pt, offered⟩ := offerBreakerOp_frame s q .closed false t
  have signal : ((closing (s.offerBreakerOp q .closed false t) q).breaker.poles.get q).openSignal
      = (s.breaker.poles.get q).openSignal := by
    rw [closing_pole, offered]
  refine ⟨closedState (s.offerBreakerOp q .closed false t) q, ?_, ?_⟩
  · rewrite [offered]
    exact ⟨PerPole.get_set_same _ _ _, fun q' ne => (PerPole.get_set _ _ _ _).trans (if_neg ne), rfl, dr, pt, rfl⟩
  · have unfolded : s.completeClosing q t
        = (if ((closing (s.offerBreakerOp q .closed false t) q).breaker.poles.get q).openSignal = true then
            ((closing (s.offerBreakerOp q .closed false t) q).setPole q
              { (closing (s.offerBreakerOp q .closed false t) q).breaker.poles.get q with openSignal := false }).deliver
              (Pole.signal q) false t
          else closing (s.offerBreakerOp q .closed false t) q).refreshAux := rfl
    rewrite [unfolded, signal, ← closedState_eq]
    refine congrArg State.refreshAux ?_
    split
    next => rfl
    next still =>
      rewrite [closedState_eq]
      exact (setPole_openSignal (signal.trans (Bool.eq_false_iff.2 still))).symm

end Sys2Proof.Proofs.Completing
end

section
/-! PROOF. A pole's opening and its close complete (O42). -/

namespace Sys2Proof.Proofs.PoleActions

open Sys2Proof Sys2Proof.Machine Sys2Proof.Proofs.Arming Sys2Proof.Proofs.Consumers Sys2Proof.Proofs.Deliveries
  Sys2Proof.Proofs.Ledger Sys2Proof.Proofs.Completing Sys2Proof.Proofs.Answering Sys2Proof.Proofs.BreakerSetting
  Sys2Proof.Proofs.DueActions

/-! ### What follows a move of the poles -/

/-- The state `d`, delivered to the consumers of the vector or not. -/
def Delivery (d m : State) : Prop := m = d ∨ ∃ n active t, m = d.deliver n active t

/-- What a delivery and the outputs that follow it leave of a state `d`. -/
structure Followed (d t : State) : Prop where
  frame : t = { d with
    seq := { d.seq with visit := t.seq.visit, startBoundary := t.seq.startBoundary }
    synth := { d.synth with ramp := t.synth.ramp }
    outputs := t.outputs, assess := t.assess, log := t.log, drains := t.drains, actions := t.actions, ports := t.ports }
  log : AtMost 5 d.log t.log

theorem Delivery.frame {d m : State} (h : Delivery d m) : ∃ vi sb ra as lg dr ac po,
    m = { d with
      seq := { d.seq with visit := vi, startBoundary := sb }, synth := { d.synth with ramp := ra }
      assess := as, log := lg, drains := dr, actions := ac, ports := po }
    ∧ AtMost 1 d.log lg := by
  rcases h with rfl | ⟨n, active, t, rfl⟩
  · exact ⟨_, _, _, _, _, _, _, _, rfl, (AtMost.refl _).mono (Nat.zero_le _)⟩
  · have few := deliver_atMost d n active t
    obtain ⟨ra, lg, dr, po, frame, -⟩ := deliver_frame d n active t
    rewrite [frame] at few ⊢
    exact ⟨_, _, ra, _, lg, dr, _, po, rfl, few⟩

theorem refreshAux_frame (s : State) :
    ∃ ou lg dr po, s.refreshAux = { s with outputs := ou, log := lg, drains := dr, ports := po } ∧ AtMost 4 s.log lg := by
  have few := refreshOutputs_atMost (src := .breaker) (rule := s.breaker.auxLevel) s
  obtain ⟨ou, lg, dr, po, frame⟩ := refreshOutputs_frame (src := .breaker) (rule := s.breaker.auxLevel) s
  rewrite [frame] at few
  exact ⟨ou, lg, dr, po, frame, few⟩

theorem Delivery.followed {d m : State} (h : Delivery d m) : Followed d m.refreshAux := by
  obtain ⟨vi, sb, ra, as, lg, dr, ac, po, rfl, one⟩ := h.frame
  obtain ⟨ou, lg', dr', po', frame, four⟩ := refreshAux_frame
    { d with
      seq := { d.seq with visit := vi, startBoundary := sb }, synth := { d.synth with ramp := ra }
      assess := as, log := lg, drains := dr, actions := ac, ports := po }
  refine ⟨?_, ?_⟩
  · rw [frame]
  · rewrite [frame]
    exact one.trans four

/-- The conditions and the outputs, once the poles have moved and a change has been delivered: what a consumer of
the vector that has taken it keeps. -/
theorem keepsConsumers_refreshAux (m : State) : KeepsConsumers m m.refreshAux := by
  have log := refreshOutputs_atMost (src := .breaker) (rule := m.breaker.auxLevel) m
  obtain ⟨ou, lg, dr, po, frame, -⟩ := refreshAux_frame m
  refine ⟨by rw [frame], by rw [frame], by rw [frame], ?_, by rw [frame], fun r mem => log.mem mem⟩
  rewrite [frame]
  exact signals_congr rfl rfl rfl

/-- The state `d` is `s` with a BREAKER_OP record offered, with the poles, the channels and the actions moved. -/
def MovedFrom (s d : State) (q : Pole) (o : BreakerOutcome) (t : Nat) : Prop :=
  ∃ ac dr pt, d = { moved s (breakerLog s q o false t) dr pt d.synth.channels d.breaker.poles with actions := ac }

section Moved

variable {s d m : State} {q : Pole} {o : BreakerOutcome} {t : Nat}

theorem breakerLog_atMost (s : State) (q : Pole) (o : BreakerOutcome) (z : Bool) (t : Nat) :
    AtMost 1 s.log (breakerLog s q o z t) := by
  unfold breakerLog
  split
  · exact AtMost.offered _ _
  · exact (AtMost.refl _).mono (Nat.zero_le _)

theorem MovedFrom.log (from_ : MovedFrom s d q o t) : d.log = breakerLog s q o false t := by
  obtain ⟨ac, dr, pt, frame⟩ := from_
  rewrite [frame]
  rfl

theorem MovedFrom.aux (from_ : MovedFrom s d q o t) (h : Delivery d m) : AuxFollow s m.refreshAux := by
  have few : AtMost 1 s.log d.log := from_.log ▸ breakerLog_atMost s q o false t
  obtain ⟨ac, dr, pt, moved⟩ := from_
  obtain ⟨vi, sb, ra, as, lg, dr', ac', po, frame, one⟩ := h.frame
  refine auxFollow_refreshAux ?_ ?_ (fun b => ?_) fun room => ?_
  · rewrite [frame, moved]
    rfl
  · rewrite [frame, moved]
    rfl
  · rewrite [frame, moved]
    rfl
  · rewrite [frame]
    exact (few.trans one).room (by omega)

theorem auxLevel_other (b : Breaker) {r : OutputRole} (notA : r ≠ .aux52A) (notB : r ≠ .aux52B) : b.auxLevel r = none := by
  unfold Breaker.auxLevel
  split
  next => exact absurd rfl notA
  next => exact absurd rfl notB
  next => rfl

theorem MovedFrom.otherOutputs (from_ : MovedFrom s d q o t) (h : Delivery d m) : OtherOutputsStay s m.refreshAux := by
  obtain ⟨ac, dr, pt, moved⟩ := from_
  obtain ⟨vi, sb, ra, as, lg, dr', ac', po, frame, -⟩ := h.frame
  intro n notA notB
  have outputs : m.outputs = s.outputs := by rw [frame, moved]; rfl
  have receive : m.refreshAux.tp = s.tp := by
    rewrite [(refreshAux_keeps m).2.2.2.2.2.2.2.2.2.2.2.2.1, frame, moved]
    rfl
  have none : m.breaker.auxLevel (s.outputs[n]'n.isLt).role = none := auxLevel_other m.breaker notA notB
  have stays : m.refreshAux.outputs[n]'n.isLt = s.outputs[n]'n.isLt := by
    have ruled := refreshAux_outputs m n.val n.isLt
    rewrite [outputs] at ruled
    refine ruled.trans ?_
    show Output.ruled (s.outputs[n]'n.isLt) _ = _
    rewrite [Output.ruled, none]
    rfl
  rw [stays, receive, if_neg fun changes => changes.2 rfl]

theorem MovedFrom.recordFirst (from_ : MovedFrom s d q o t) (h : Delivery d m) (active : s.seq.phase ≠ .idle) :
    RecordFirst s m.refreshAux (s.shotTime t) (.breakerOp q o false) := by
  intro room
  obtain ⟨-, more, records, -⟩ := h.followed.log
  refine ⟨more, ?_⟩
  rewrite [records, from_.log, breakerLog, if_pos ((shotActive_iff s).2 active), ReportLog.offered_write _ _ room,
    List.append_assoc]
  rfl

theorem MovedFrom.quiet (from_ : MovedFrom s d q o t) (h : Delivery d m) (same : m.log = d.log) (idle : s.seq.phase = .idle) :
    m.refreshAux.log = s.log := by
  have off : s.shotActive = false := Bool.eq_false_iff.2 fun active => (shotActive_iff s).1 active idle
  have log : d.log = s.log := by rw [from_.log, breakerLog, off]; rfl
  obtain ⟨ac, dr, pt, moved⟩ := from_
  obtain ⟨vi, sb, ra, as, lg, dr', ac', po, frame, -⟩ := h.frame
  have off' : m.shotActive = false := by rw [frame, moved]; exact off
  obtain ⟨ou, still⟩ := refreshOutputs_idle off' .breaker m.breaker.auxLevel
  rewrite [State.refreshAux, still]
  exact same.trans log

theorem MovedFrom.sameConsumers (from_ : MovedFrom s d q o t) : SameConsumers s d := by
  obtain ⟨ac, dr, pt, frame⟩ := from_
  constructor <;> (rw [frame]; rfl)

theorem MovedFrom.room (from_ : MovedFrom s d q o t) (free : 12 ≤ s.log.unreserved) : 1 ≤ d.log.unreserved :=
  (from_.log ▸ breakerLog_atMost s q o false t : AtMost 1 s.log d.log).room (by omega)

/-- What holds of the state `u` in which a pole action has completed, `m` being the one before the AUX outputs. -/
structure Completed (s d m u : State) (q : Pole) (o : BreakerOutcome) (t : Nat) : Prop where
  breaker : u.breaker = d.breaker
  channels : u.synth.channels = d.synth.channels
  actions : u.actions = m.actions
  aux : AuxFollow s u
  outputs : OtherOutputsStay s u
  record : s.seq.phase ≠ .idle → RecordFirst s u (s.shotTime t) (.breakerOp q o false)
  quiet : m.log = d.log → s.seq.phase = .idle → u.log = s.log
  keeps : KeepsConsumers m u
  frame : u = { d with
    seq := { d.seq with visit := u.seq.visit, startBoundary := u.seq.startBoundary }
    synth := { d.synth with ramp := u.synth.ramp }
    outputs := u.outputs, assess := u.assess, log := u.log, drains := u.drains, actions := u.actions, ports := u.ports }

theorem MovedFrom.completed (from_ : MovedFrom s d q o t) (h : Delivery d m) : Completed s d m m.refreshAux q o t where
  breaker := (congrArg State.breaker h.followed.frame).trans rfl
  channels := (congrArg (fun u : State => u.synth.channels) h.followed.frame).trans rfl
  actions := by simp
  aux := from_.aux h
  outputs := from_.otherOutputs h
  record := from_.recordFirst h
  quiet := from_.quiet h
  keeps := keepsConsumers_refreshAux m
  frame := h.followed.frame

end Moved

theorem deliver_log_quiet {s : State} {n : Nat} {active : Bool} (quiet : active = false ∨ s.seq.visit = none) (t : Nat) :
    (s.deliver n active t).log = s.log := by
  obtain ⟨ra, lg, dr, po, frame, ramps⟩ := deliver_frame s n active t
  rewrite [frame]
  refine (ramps.stands fun v r stops => ?_).2
  obtain ⟨on, own, -⟩ := stops
  rcases quiet with off | none
  · exact Bool.false_ne_true (off.symm.trans on)
  · exact Option.some_ne_none v (own.symm.trans none)

theorem deliver_actions_quiet {s : State} (none : s.seq.visit = none) (n : Nat) (active : Bool) (t : Nat) :
    (s.deliver n active t).actions = s.actions := by
  obtain ⟨ra, lg, dr, po, frame, -⟩ := deliver_frame s n active t
  rewrite [frame]
  show deliveredActions s t = s.actions
  rw [deliveredActions, none]

/-! ### OPENING_ACTION_DUE and CLOSE_ACTION_DUE -/

/-- The state `s` without its action `a`. -/
def without (s : State) (a : TimedAction) : State :=
  { s with actions := { s.actions with entries := s.actions.entries.erase a } }

theorem openingActionDue_other {q : Pole} {s : State} (other : ∀ a, s.dueAction = some a → a.work ≠ .pole q .opening) :
    exec (.openingActionDue q) s = .next s := by
  rewrite [exec, execOpeningActionDue]
  split
  next p _ due => rw [if_neg fun same => other _ due (by rw [same])]
  next => rfl

theorem openingActionDue_own {q : Pole} {s : State} {a : TimedAction} (due : s.dueAction = some a)
    (work : a.work = .pole q .opening) :
    exec (.openingActionDue q) s = .next ((without s a).completeOpening q a.due) := by
  have drop := dropDue_erases due
  obtain ⟨t, k, w, o⟩ := a
  obtain rfl : w = .pole q .opening := work
  rewrite [exec, execOpeningActionDue, due]
  dsimp only
  rewrite [if_pos rfl, drop]
  rfl

theorem poleOpened_eq (c : SynthChannel) (injecting : Bool) : c.poleOpened injecting = { c with silencing :=
    if injecting = false then .silenced else if c.silencing = .conducting then .interrupting else c.silencing } := by
  unfold SynthChannel.poleOpened
  cases injecting with
  | false => rfl
  | true =>
    rewrite [if_pos rfl, if_neg Bool.noConfusion]
    split
    next conducting => rw [if_pos conducting]
    next other => rw [if_neg other]

theorem openingActionCompletes : OpeningActionCompletes := by
  refine fun q s => ⟨openingActionDue_other, fun a due work => ?_⟩
  obtain ⟨d, ⟨opened, dr, pt, frame⟩, complete⟩ := completeOpening_eq (without s a) q a.due
  have from_ : MovedFrom s d q .opened a.due := ⟨_, dr, pt, frame⟩
  obtain ⟨m, m_eq⟩ : ∃ m, m = if (s.breaker.poles.get q).openSignal = true then d else d.deliver (Pole.signal q) true a.due :=
    ⟨_, rfl⟩
  have already (signal : (s.breaker.poles.get q).openSignal = true) : m = d := by rw [m_eq, if_pos signal]
  have rises (signal : (s.breaker.poles.get q).openSignal = false) : m = d.deliver (Pole.signal q) true a.due := by
    rw [m_eq, if_neg (Bool.eq_false_iff.1 signal)]
  have delivery : Delivery d m := by
    cases signal : (s.breaker.poles.get q).openSignal with
    | true => exact .inl (already signal)
    | false => exact .inr ⟨_, _, _, rises signal⟩
  have step : exec (.openingActionDue q) s = .next m.refreshAux := by
    rewrite [openingActionDue_own due work, complete, m_eq]
    rfl
  have actions : d.actions = (without s a).actions := by rw [frame]; rfl
  have same := from_.sameConsumers
  obtain ⟨breaker, channels, still, aux, outputs, record, quiet, keeps, follows⟩ := from_.completed delivery
  generalize m.refreshAux = t at *
  have own (q' : Pole) : t.breaker.poles.get q' = d.breaker.poles.get q' := by rw [breaker]
  refine ⟨t, step, ?_, by rw [own]; exact opened.position, by rw [own]; exact opened.openSignal, fun q' ne => ?_,
    fun stands => ?_, fun none => ?_, aux, outputs, record, fun idle none => ?_, fun signal => ?_, fun signal => ?_,
    fun unheard => ?_⟩
  · rewrite [follows, frame]
    rfl
  · rewrite [own, opened.others q' ne]
    exact ⟨rfl, rfl, rfl⟩
  · obtain ⟨stood, poles⟩ := opened.stood stands
    rewrite [own, channels]
    exact ⟨(poles q).1, (poles q).2, stood⟩
  · obtain ⟨start, begun, complete, -, linked⟩ := opened.begun none
    rewrite [own, channels]
    refine ⟨start, complete.2, fun c link conducts => ?_, fun c => ?_⟩
    · cases standing : (d.breaker.poles.get q).interruption with
      | none => exact absurd standing begun
      | inProgress => rfl
      | complete => exact absurd (complete.1 standing c link) conducts
    · rewrite [linked, linkedTo_get, poleOpened_eq]
      rfl
  · have visit : d.seq.visit = Option.none := by rw [same.seq, none]
    cases signal : (s.breaker.poles.get q).openSignal with
    | true => exact quiet (by rw [already signal]) idle
    | false => exact quiet (by rw [rises signal]; exact deliver_log_quiet (.inr visit) _) idle
  · rewrite [rises signal] at keeps
    have take := consumersTake_of same keeps from_.room
    rewrite [actions] at take
    exact take
  · rewrite [already signal] at keeps
    exact ⟨keeps.seq.trans same.seq, keeps.ramp.trans same.ramp, keeps.assess.trans same.assess⟩
  · refine still.trans (Eq.trans ?_ actions)
    cases signal : (s.breaker.poles.get q).openSignal with
    | true => rw [already signal]
    | false =>
      rewrite [rises signal]
      refine deliver_actions_quiet ?_ _ _ _
      rewrite [same.seq]
      exact unheard.resolve_right (by rw [signal]; exact Bool.false_ne_true)

theorem closeActionDue_other {q : Pole} {s : State} (other : ∀ a, s.dueAction = some a → a.work ≠ .pole q .closing) :
    exec (.closeActionDue q) s = .next s := by
  rewrite [exec, execCloseActionDue]
  split
  next p _ due => rw [if_neg fun same => other _ due (by rw [same])]
  next => rfl

theorem closeActionDue_own {q : Pole} {s : State} {a : TimedAction} (due : s.dueAction = some a)
    (work : a.work = .pole q .closing) :
    exec (.closeActionDue q) s = .next ((without s a).completeClosing q a.due) := by
  have drop := dropDue_erases due
  obtain ⟨t, k, w, o⟩ := a
  obtain rfl : w = .pole q .closing := work
  rewrite [exec, execCloseActionDue, due]
  dsimp only
  rewrite [if_pos rfl, drop]
  rfl

theorem poleClosed_eq (c : SynthChannel) : c.poleClosed
    = if c.silencing ≠ .conducting then
        { c with silencing := .conducting, resuming := if c.silencing = .silenced then true else c.resuming }
      else c := by
  unfold SynthChannel.poleClosed
  cases own : c.silencing <;> rfl

theorem deliver_inactive (s : State) (n t : Nat) :
    (s.deliver n false t).synth = s.synth ∧ (s.deliver n false t).assess = s.assess := by
  obtain ⟨ra, lg, dr, po, frame, ramps⟩ := deliver_frame s n false t
  obtain ⟨still, -⟩ := ramps.stands fun v r stops => Bool.false_ne_true stops.1
  rewrite [frame, still]
  exact ⟨rfl, deliveredAssess_inactive s n t⟩

theorem closeActionCompletes : CloseActionCompletes := by
  refine fun q s => ⟨closeActionDue_other, fun a due work => ?_⟩
  obtain ⟨d, ⟨pole, others, linked, dr, pt, frame⟩, complete⟩ := completeClosing_eq (without s a) q a.due
  have from_ : MovedFrom s d q .closed a.due := ⟨_, dr, pt, frame⟩
  obtain ⟨m, m_eq⟩ : ∃ m, m = if (s.breaker.poles.get q).openSignal = true then d.deliver (Pole.signal q) false a.due else d :=
    ⟨_, rfl⟩
  have falls (signal : (s.breaker.poles.get q).openSignal = true) : m = d.deliver (Pole.signal q) false a.due := by
    rw [m_eq, if_pos signal]
  have already (signal : (s.breaker.poles.get q).openSignal = false) : m = d := by
    rw [m_eq, if_neg (Bool.eq_false_iff.1 signal)]
  have delivery : Delivery d m := by
    cases signal : (s.breaker.poles.get q).openSignal with
    | true => exact .inr ⟨_, _, _, falls signal⟩
    | false => exact .inl (already signal)
  have inactive : m.synth = d.synth ∧ m.assess = d.assess ∧ m.log = d.log := by
    cases signal : (s.breaker.poles.get q).openSignal with
    | true =>
      obtain ⟨synth, assess⟩ := deliver_inactive d (Pole.signal q) a.due
      rewrite [falls signal]
      exact ⟨synth, assess, deliver_log_quiet (.inl rfl) _⟩
    | false =>
      rewrite [already signal]
      exact ⟨rfl, rfl, rfl⟩
  obtain ⟨synth, assess, log⟩ := inactive
  have step : exec (.closeActionDue q) s = .next m.refreshAux := by
    rewrite [closeActionDue_own due work, complete, m_eq]
    rfl
  have actions : d.actions = (without s a).actions := by rw [frame]; rfl
  have same := from_.sameConsumers
  obtain ⟨breaker, channels, still, aux, outputs, record, quiet, keeps, follows⟩ := from_.completed delivery
  generalize m.refreshAux = t at *
  have own (q' : Pole) : t.breaker.poles.get q' = d.breaker.poles.get q' := by rw [breaker]
  refine ⟨t, step, ?_, by rw [own]; exact pole, fun q' ne => by rw [own]; exact others q' ne, fun c => ?_, aux, outputs,
    record, quiet log, fun signal => ?_, fun signal => ?_, fun unheard => ?_⟩
  · have ramp : t.synth.ramp = d.synth.ramp := by rw [keeps.ramp, synth]
    rewrite [follows, keeps.assess, assess, ramp, frame]
    rfl
  · rewrite [channels, linked, linkedTo_get, poleClosed_eq]
    exact (ite_and _ _ _ _).symm
  · rewrite [falls signal] at keeps
    have take := consumersTake_of same keeps from_.room
    rewrite [actions] at take
    exact take
  · rewrite [already signal] at keeps
    exact ⟨keeps.seq.trans same.seq, keeps.ramp.trans same.ramp, keeps.assess.trans same.assess⟩
  · refine still.trans (Eq.trans ?_ actions)
    cases signal : (s.breaker.poles.get q).openSignal with
    | false => rw [already signal]
    | true =>
      rewrite [falls signal]
      refine deliver_actions_quiet ?_ _ _ _
      rewrite [same.seq]
      exact unheard.resolve_right (by rw [signal]; exact Bool.noConfusion)

set_option Elab.async false in
/-- Settles O42. -/
theorem poleActionsComplete : Obligations.PoleActionsComplete := ⟨openingActionCompletes, closeActionCompletes⟩

end Sys2Proof.Proofs.PoleActions
end

section
/-! PROOF. The events that change the vector in a running visit re-evaluate its conditions (O48). -/

namespace Sys2Proof.Proofs.Candidates

open Sys2Proof Sys2Proof.Machine Sys2Proof.Proofs.Arming Sys2Proof.Proofs.Consumers Sys2Proof.Proofs.Deliveries
  Sys2Proof.Proofs.Ledger Sys2Proof.Proofs.Completing Sys2Proof.Proofs.PoleActions Sys2Proof.Proofs.Answering

/-! ### The signal vector -/

/-- The vector where the open signal of one pole alone has changed. -/
theorem signal_of_pole {s u : State} {q : Pole} {active : Bool} (inputs : u.inputs = s.inputs)
    (tp : u.tp = s.tp) (own : (u.breaker.poles.get q).openSignal = active)
    (others : ∀ q', q' ≠ q → (u.breaker.poles.get q').openSignal = (s.breaker.poles.get q').openSignal) (k : Nat) :
    u.signal k = if k = Pole.signal q then active else s.signal k := by
  split
  next same => rw [same, signal_pole, own]
  next ne =>
    have pole (q' : Pole) (is : k = Pole.signal q') :
        (u.breaker.poles.get q').openSignal = (s.breaker.poles.get q').openSignal :=
      others q' fun same => ne (is.trans (congrArg Pole.signal same))
    unfold State.signal
    rewrite [inputs, tp]
    split
    next => rfl
    next =>
      refine if_ctx_congr Iff.rfl (pole .a) fun _ => ?_
      refine if_ctx_congr Iff.rfl (pole .b) fun _ => ?_
      exact if_ctx_congr Iff.rfl (pole .c) fun _ => rfl

/-- The vector where one input alone has changed. -/
theorem signal_of_input {s u : State} {n : Fin 12} {i : Input}
    (inputs : u.inputs = { s.inputs with inputs := s.inputs.inputs.set n i n.isLt }) (breaker : u.breaker = s.breaker)
    (tp : u.tp = s.tp) (k : Nat) : u.signal k = if k = n.val then i.active else s.signal k := by
  unfold State.signal
  rewrite [inputs, breaker, tp]
  split
  next lt =>
    rewrite [Vector.getElem_set]
    simp only [eq_comm (a := k)]
    split <;> rfl
  next le => rw [if_neg fun same : k = n.val => le (same ▸ n.isLt)]

/-! ### A delivery in RUNNING -/

theorem onlyConditions_of {s d u : State} {v : Visit} {n t : Nat} {active : Bool} (running : s.seq.phase = .running)
    (visit : s.seq.visit = some v) (same : SameConsumers s d) (seq : u.seq = (d.deliver n active t).seq)
    (actions : u.actions = (d.deliver n active t).actions) (signals : u.signals = d.signals) :
    OnlyConditionsFollow s u v d.actions t := by
  obtain ⟨ra, lg, dr, po, frame, -⟩ := deliver_frame d n active t
  have own : d.seq.visit = some v := by rw [same.seq, visit]
  obtain ⟨conditions, list⟩ := same.reevaluated v d.signals t d.actions
  have start : deliveredStart d n = d.seq.startBoundary := deliveredStart_other d n fun _ _ phase => by
    rewrite [same.seq, running] at phase
    exact absurd phase (by decide)
  constructor
  · rewrite [seq, frame, signals, ← conditions, ← same.seq]
    show { d.seq with visit := deliveredVisit d t, startBoundary := deliveredStart d n } = _
    rewrite [start, deliveredVisit, own]
    rfl
  · rewrite [actions, frame, signals, ← list]
    show deliveredActions d t = _
    rw [deliveredActions, own]

/-- In RUNNING a change of a pole's open signal reaches the conditions alone, and the vector has that change. -/
theorem poleChange {s d : State} {v : Visit} {q : Pole} {o : BreakerOutcome} {t : Nat} {active : Bool}
    (running : s.seq.phase = .running) (visit : s.seq.visit = some v) (from_ : MovedFrom s d q o t)
    (own : (d.breaker.poles.get q).openSignal = active)
    (others : ∀ q', q' ≠ q → (d.breaker.poles.get q').openSignal = (s.breaker.poles.get q').openSignal) :
    OnlyConditionsFollow s (d.deliver (Pole.signal q) active t).refreshAux v d.actions t
    ∧ ∀ k, (d.deliver (Pole.signal q) active t).refreshAux.signal k = if k = Pole.signal q then active else s.signal k := by
  obtain ⟨breaker, -, actions, -, -, -, -, keeps, frame⟩ := from_.completed (.inr ⟨Pole.signal q, active, t, rfl⟩)
  have same := from_.sameConsumers
  obtain ⟨ac, dr, pt, moved⟩ := from_
  have inputs : d.inputs = s.inputs := by rw [moved]; rfl
  have tp : d.tp = s.tp := by rw [moved]; rfl
  refine ⟨onlyConditions_of running visit same keeps.seq actions (keeps.signals.trans (deliver_signals d _ active t)), ?_⟩
  refine signal_of_pole ?_ ?_ (by rw [breaker]; exact own) fun q' ne => by rw [breaker]; exact others q' ne
  · exact (congrArg State.inputs frame).trans inputs
  · exact (congrArg State.tp frame).trans tp

theorem openingReevaluates {s : State} {v : Visit} {q : Pole} {a : TimedAction} (running : s.seq.phase = .running)
    (visit : s.seq.visit = some v) (due : s.dueAction = some a) (work : a.work = .pole q .opening)
    (signal : (s.breaker.poles.get q).openSignal = false) :
    ∃ u, exec (.openingActionDue q) s = .next u
      ∧ OnlyConditionsFollow s u v { s.actions with entries := s.actions.entries.erase a } a.due
      ∧ ∀ k, u.signal k = (if k = Pole.signal q then true else s.signal k) := by
  obtain ⟨d, ⟨opened, dr, pt, frame⟩, complete⟩ := completeOpening_eq (without s a) q a.due
  have from_ : MovedFrom s d q .opened a.due := ⟨_, dr, pt, frame⟩
  have actions : d.actions = (without s a).actions := by rw [frame]; rfl
  have off : ¬ ((without s a).breaker.poles.get q).openSignal = true := Bool.eq_false_iff.1 signal
  obtain ⟨conditions, signals⟩ := poleChange running visit from_ opened.openSignal fun q' ne => by
    rewrite [opened.others q' ne]
    rfl
  rewrite [actions] at conditions
  exact ⟨_, by rw [openingActionDue_own due work, complete, if_neg off], conditions, signals⟩

theorem closeReevaluates {s : State} {v : Visit} {q : Pole} {a : TimedAction} (running : s.seq.phase = .running)
    (visit : s.seq.visit = some v) (due : s.dueAction = some a) (work : a.work = .pole q .closing)
    (signal : (s.breaker.poles.get q).openSignal = true) :
    ∃ u, exec (.closeActionDue q) s = .next u
      ∧ OnlyConditionsFollow s u v { s.actions with entries := s.actions.entries.erase a } a.due
      ∧ ∀ k, u.signal k = (if k = Pole.signal q then false else s.signal k) := by
  obtain ⟨d, ⟨pole, others, -, dr, pt, frame⟩, complete⟩ := completeClosing_eq (without s a) q a.due
  have from_ : MovedFrom s d q .closed a.due := ⟨_, dr, pt, frame⟩
  have actions : d.actions = (without s a).actions := by rw [frame]; rfl
  have on : ((without s a).breaker.poles.get q).openSignal = true := signal
  obtain ⟨conditions, signals⟩ := poleChange running visit from_ (by rw [pole]) fun q' ne => by
    rewrite [others q' ne]
    rfl
  rewrite [actions] at conditions
  exact ⟨_, by rw [closeActionDue_own due work, complete, if_pos on], conditions, signals⟩

/-! ### Role states (R75) -/

theorem roleActive_iff (s : State) (r : InputRole) :
    s.roleActive r = true ↔ ∃ n : Fin 12, (s.inputs.inputs[n]'n.isLt).role = r ∧ (s.inputs.inputs[n]'n.isLt).active = true := by
  rewrite [State.roleActive, List.any_eq_true]
  simp only [Vector.mem_toList_iff, Bool.and_eq_true, decide_eq_true_eq]
  constructor
  · rintro ⟨i, mem, role, active⟩
    obtain ⟨n, lt, rfl⟩ := Vector.mem_iff_getElem.1 mem
    exact ⟨⟨n, lt⟩, role, active⟩
  · rintro ⟨n, role, active⟩
    exact ⟨s.inputs.inputs[n]'n.isLt, Vector.getElem_mem n.isLt, role, active⟩

theorem roleActive_congr {s u : State} {r : InputRole}
    (h : ∀ n : Fin 12, ((u.inputs.inputs[n]'n.isLt).role = r ∧ (u.inputs.inputs[n]'n.isLt).active = true)
      ↔ ((s.inputs.inputs[n]'n.isLt).role = r ∧ (s.inputs.inputs[n]'n.isLt).active = true)) : u.roleActive r = s.roleActive r := by
  rewrite [Bool.eq_iff_iff, roleActive_iff, roleActive_iff]
  exact exists_congr h

/-- With no role state changed, nothing is handed over. -/
theorem handOverRoles_same {old s : State} (same : ∀ r ∈ statefulRoles, s.roleActive r = old.roleActive r) (t : Nat)
    (e : AbsTime) : State.handOverRoles old s t e = s := by
  have fold : ∀ l : List InputRole, (∀ r ∈ l, s.roleActive r = old.roleActive r) →
      l.foldl (fun s r => if !old.roleActive r && s.roleActive r then State.roleActivates old s r t else s) s = s := by
    intro l all
    induction l with
    | nil => rfl
    | cons r rest ih =>
      have off : (!old.roleActive r && s.roleActive r) = false := by
        rw [all r List.mem_cons_self, Bool.not_and_self]
      rewrite [List.foldl_cons, off, if_neg Bool.false_ne_true]
      exact ih fun r mem => all r (List.mem_cons_of_mem _ mem)
  unfold State.handOverRoles
  rw [fold statefulRoles same, if_pos (same .carrierSend (by decide)).symm]

/-- A change of an input of role GENERAL changes no role state. -/
theorem roleActive_general {s u : State} {n : Fin 12} {i : Input} (general : (s.inputs.inputs[n]'n.isLt).role = .general)
    (same : i.role = (s.inputs.inputs[n]'n.isLt).role) (inputs : u.inputs.inputs = s.inputs.inputs.set n i n.isLt) {r : InputRole}
    (stateful : r ∈ statefulRoles) : u.roleActive r = s.roleActive r := by
  have ne : InputRole.general ≠ r := by
    rintro rfl
    exact absurd stateful (by decide)
  refine roleActive_congr fun k => ?_
  rewrite [inputs]
  by_cases here : n = k
  · subst here
    have set : (s.inputs.inputs.set n i n.isLt)[n]'n.isLt = i := Vector.getElem_set_self n.isLt
    rewrite [set, same, general]
    exact ⟨fun h => absurd h.1 ne, fun h => absurd h.1 ne⟩
  · have set : (s.inputs.inputs.set n i n.isLt)[k]'k.isLt = s.inputs.inputs[k]'k.isLt :=
      Vector.getElem_set_ne n.isLt k.isLt fun e => here (Fin.ext e)
    rw [set]

/-! ### ACCEPTED_CHANGE -/

theorem sendEvent_frame (old s : State) (n : Fin 12) (accepted : Bool) (e : AbsTime) :
    ∃ pe, State.sendEvent old s n accepted e = { s with peer := pe } := by
  have sends (f : PeerFrame) : ∃ pe, s.send f = { s with peer := pe } := by
    unfold State.send
    split
    · exact ⟨_, rfl⟩
    · exact ⟨s.peer, rfl⟩
  unfold State.sendEvent
  dsimp only
  split
  · exact sends _
  · split
    · exact sends _
    · exact ⟨s.peer, rfl⟩

/-- An acceptance up to its record (R77). -/
def acceptedLog (s : State) (n : Fin 12) (t : Moment) : State :=
  s.logInputChange n ((s.inputs.inputs[n]'n.isLt).accept t.abs).active t.at_ t.abs

/-- An acceptance up to its record and its input (R76). -/
def acceptedInput (s : State) (n : Fin 12) (t : Moment) : State :=
  { acceptedLog s n t with
    inputs := { (acceptedLog s n t).inputs with
      inputs := (acceptedLog s n t).inputs.inputs.set n ((s.inputs.inputs[n]'n.isLt).accept t.abs) n.isLt } }

theorem acceptedLog_frame (s : State) (n : Fin 12) (t : Moment) :
    ∃ lg dr po, acceptedLog s n t = { s with log := lg, drains := dr, ports := po } := by
  unfold acceptedLog State.logInputChange
  split
  · obtain ⟨dr, po, frame⟩ := offer_frame s (s.shotTime t.at_)
      (.inputChange (n.val + 1) ((s.inputs.inputs[n]'n.isLt).accept t.abs).active false t.abs)
    exact ⟨_, dr, po, frame⟩
  · exact ⟨s.log, s.drains, s.ports, rfl⟩

theorem acceptedInput_frame (s : State) (n : Fin 12) (t : Moment) : ∃ lg dr po, acceptedInput s n t
    = { s with
        log := lg, drains := dr, ports := po
        inputs := { s.inputs with inputs := s.inputs.inputs.set n ((s.inputs.inputs[n]'n.isLt).accept t.abs) n.isLt } } := by
  obtain ⟨lg, dr, po, frame⟩ := acceptedLog_frame s n t
  refine ⟨lg, dr, po, ?_⟩
  rw [acceptedInput, frame]

theorem accept_active (i : Input) (e : AbsTime) : (i.accept e).active = !i.active := by
  unfold Input.active Input.accept
  cases i.polarity <;> rfl

/-- An acceptance delivered to the consumers of the vector, both ports told (R76). -/
def acceptedHeard (s : State) (n : Fin 12) (t : Moment) : State :=
  ((acceptedInput s n t).deliver n.val (!(s.inputs.inputs[n]'n.isLt).active) t.at_).raiseBoth .inputChanged

theorem acceptChange_eq (s : State) (n : Fin 12) (t : Moment) : s.acceptChange n t
    = State.sendEvent (acceptedLog s n t)
        (State.handOverRoles (acceptedLog s n t) (acceptedHeard s n t) t.at_ t.abs) n true t.abs := by
  have own : (acceptedInput s n t).inputs.inputs[n]'n.isLt = (s.inputs.inputs[n]'n.isLt).accept t.abs := Vector.getElem_set_self n.isLt
  have before : (acceptedLog s n t).inputs.inputs[n]'n.isLt = s.inputs.inputs[n]'n.isLt := by
    obtain ⟨lg, dr, po, frame⟩ := acceptedLog_frame s n t
    rw [frame]
  have changed : decide (((acceptedLog s n t).inputs.inputs[n]'n.isLt).active ≠ ((acceptedInput s n t).inputs.inputs[n]'n.isLt).active) = true := by
    rewrite [own, before, accept_active]
    exact decide_eq_true (Bool.not_ne_self _).symm
  have step : s.acceptChange n t = State.inputChanged (acceptedLog s n t) (acceptedInput s n t) n true t.at_ t.abs := rfl
  rewrite [step, State.inputChanged, changed, if_pos rfl, own, accept_active]
  rfl

theorem acceptedHeard_inputs (s : State) (n : Fin 12) (t : Moment) : (acceptedHeard s n t).inputs
    = { s.inputs with inputs := s.inputs.inputs.set n ((s.inputs.inputs[n]'n.isLt).accept t.abs) n.isLt } := by
  obtain ⟨lg, dr, po, accepted⟩ := acceptedInput_frame s n t
  obtain ⟨ra, lg', dr', po', frame, -⟩ := deliver_frame (acceptedInput s n t) n.val (!(s.inputs.inputs[n]'n.isLt).active) t.at_
  rewrite [acceptedHeard, frame, accepted]
  rfl

theorem acceptedChangeReevaluates {s : State} {v : Visit} {n : Fin 12} {t : Moment} (running : s.seq.phase = .running)
    (visit : s.seq.visit = some v) (ready : (s.inputs.inputs[n]'n.isLt).ready = true)
    (candidate : (s.inputs.inputs[n]'n.isLt).candidate = some t) (general : (s.inputs.inputs[n]'n.isLt).role = .general) :
    ∃ u, exec (.acceptedChange n) s = .next u ∧ OnlyConditionsFollow s u v s.actions t.at_
      ∧ ∀ k, u.signal k = (if k = n.val then !s.signal k else s.signal k) := by
  have quiet : State.handOverRoles (acceptedLog s n t) (acceptedHeard s n t) t.at_ t.abs = acceptedHeard s n t := by
    refine handOverRoles_same (fun r stateful => ?_) _ _
    obtain ⟨lg, dr, po, frame⟩ := acceptedLog_frame s n t
    rewrite [frame]
    exact roleActive_general (i := (s.inputs.inputs[n]'n.isLt).accept t.abs) general rfl
      (congrArg InputTimer.inputs (acceptedHeard_inputs s n t)) stateful
  obtain ⟨pe, sent⟩ := sendEvent_frame (acceptedLog s n t) (acceptedHeard s n t) n true t.abs
  have step : exec (.acceptedChange n) s = .next (s.acceptChange n t) := by
    rw [exec, execAcceptedChange, ready, candidate]
  obtain ⟨lg, dr, po, accepted⟩ := acceptedInput_frame s n t
  obtain ⟨ra, lg', dr', po', frame, -⟩ := deliver_frame (acceptedInput s n t) n.val (!(s.inputs.inputs[n]'n.isLt).active) t.at_
  have same : SameConsumers s (acceptedInput s n t) := by constructor <;> rw [accepted]
  have inputs := acceptedHeard_inputs s n t
  have conditions : OnlyConditionsFollow s { acceptedHeard s n t with peer := pe } v (acceptedInput s n t).actions t.at_ :=
    onlyConditions_of running visit same rfl rfl
      ((signals_congr rfl rfl rfl).trans (deliver_signals (acceptedInput s n t) n.val _ t.at_))
  refine ⟨s.acceptChange n t, step, ?_, fun k => ?_⟩
  · rewrite [acceptChange_eq, quiet, sent]
    have actions : (acceptedInput s n t).actions = s.actions := by rw [accepted]
    rewrite [actions] at conditions
    exact conditions
  · rewrite [acceptChange_eq, quiet, sent]
    have signal := signal_of_input (u := { acceptedHeard s n t with peer := pe }) inputs
      (by rw [acceptedHeard, frame, accepted]; rfl) (by rw [acceptedHeard, frame, accepted]; rfl) k
    rewrite [signal, accept_active]
    split
    next own => rw [own, signal_input]
    next => rfl

theorem vectorChangesReevaluateTheConditions : VectorChangesReevaluateTheConditions := fun _ _ running visit =>
  ⟨fun _ _ ready candidate general => acceptedChangeReevaluates running visit ready candidate general,
    fun _ _ due work signal => openingReevaluates running visit due work signal,
    fun _ _ due work signal => closeReevaluates running visit due work signal⟩

set_option Elab.async false in
/-- Settles O48. -/
theorem conditionsBecomeCandidates : Obligations.ConditionsBecomeCandidates :=
  ⟨conditionsFollowTheVector, conditionActionMakesACandidate, vectorChangesReevaluateTheConditions⟩

end Sys2Proof.Proofs.Candidates
end

section
/-! PROOF. FORCED_LIMIT (O43). -/

namespace Sys2Proof.Proofs.ForcedLimit

open Sys2Proof Sys2Proof.Machine Sys2Proof.Proofs.Completing Sys2Proof.Proofs.Answering

theorem forcedDue_of {s : State} {q : Pole} {t0 : Nat} (progress : (s.breaker.poles.get q).interruption = .inProgress)
    (start : (s.breaker.poles.get q).start = some t0) (boundary : s.time.counter % 100 = 0)
    (fresh : s.time.sampleDone = false) (limit : t0 + 40000 ≤ s.now) : s.forcedDue q = true := by
  unfold State.forcedDue
  rewrite [progress, start]
  dsimp only
  rewrite [decide_eq_true limit, fresh, State.atBoundary, boundary]
  rfl

theorem force_eq (c : SynthChannel) : c.force = if c.silencing = .interrupting then
    { c with silencing := .silenced, offset := 0, last := 0, resuming := false } else c := by
  unfold SynthChannel.force
  split
  next cut => rw [if_pos cut]; rfl
  next other => rw [if_neg other]

/-- The channels cut and the interruption complete. -/
def cut (s : State) (q : Pole) : State :=
  moved s s.log s.drains s.ports (linkedTo s q SynthChannel.force)
    (s.breaker.poles.set q { s.breaker.poles.get q with interruption := .complete })

theorem forceLimit_eq (s : State) (q : Pole) :
    s.forceLimit q = (cut s q).offerBreakerOp q .opened true s.now := rfl

set_option Elab.async false in
/-- Settles O43. -/
theorem forcedLimitCutsTheCurrent : Obligations.ForcedLimitCutsTheCurrent := by
  refine fun q s => ⟨fun early => ?_, fun t0 progress start boundary fresh limit => ?_⟩
  · rw [exec, execForcedLimit, if_neg (Bool.eq_false_iff.1 early)]
  · obtain ⟨dr, pt, offered⟩ := offerBreakerOp_frame (cut s q) q .opened true s.now
    have step : exec (.forcedLimit q) s = .next (s.forceLimit q) := by
      rw [exec, execForcedLimit, if_pos (forcedDue_of progress start boundary fresh limit)]
    rewrite [forceLimit_eq, offered] at step
    refine ⟨_, step, rfl, fun c => ?_, if_congr (shotActive_iff s) rfl rfl⟩
    refine (linkedTo_get s q SynthChannel.force c).trans ?_
    rw [force_eq, ite_and]

end Sys2Proof.Proofs.ForcedLimit
end

section
/-! PROOF. Verdicts, and the end of a visit (O50). -/

namespace Sys2Proof.Proofs.Verdicts

open Sys2Proof Sys2Proof.Machine Sys2Proof.Proofs.Arming Sys2Proof.Proofs.Ending

/-- The verdict of a capture taken `m` after the entry where a trip is called for (R106, Table 6-1). -/
theorem verdict_mustTrip {a : Assessment} (trip : a.expectation = .mustTrip) (entry m : Nat) :
    Capturing.verdict { assessment := a, capture := .captured (entry + m) } false entry
      = if m < a.windowLow then (.early, some m) else if a.windowHigh < m then (.late, some m) else (.pass, some m) := by
  simp only [Capturing.verdict, trip, Bool.false_eq_true, if_false, Nat.add_sub_cancel_left]

theorem verdictTable : VerdictTable := by
  intro a cap entry c tol
  have low : a.windowLow = a.nominal - tol := rfl
  have high : a.windowHigh = a.nominal + tol := rfl
  have recorded : a.recordedHigh = min (a.nominal + tol) 4294967295 := rfl
  clear_value tol
  refine ⟨rfl, ?_, ?_, ?_, ?_, ?_, low, recorded⟩
  · rintro rfl
    rfl
  · rintro rfl trip
    simp only [c, Capturing.verdict, trip, Bool.false_eq_true, if_false]
  · rintro rfl trip
    simp only [c, Capturing.verdict, trip, Bool.false_eq_true, if_false]
  · rintro m rfl trip
    simp only [c, Capturing.verdict, trip, Bool.false_eq_true, if_false, Nat.add_sub_cancel_left]
  · rintro m rfl trip
    rewrite [verdict_mustTrip trip, low, high]
    refine ⟨fun early => if_pos (by omega), fun late => ?_, fun above below => ?_⟩
    · rw [if_neg (by omega), if_pos (by omega)]
    · rw [if_neg (by omega), if_neg (by omega)]

/-! ### The end of a visit (R29, R64, R107, R108) -/

theorem assessmentBodies_eq (state : Fin 32) (byAbort : Bool) (entry n : Nat) (l : List Capturing) :
    assessmentBodies state byAbort entry n l = (l.zipIdx n).map fun x => x.1.body state byAbort entry x.2 := by
  induction l generalizing n with
  | nil => rfl
  | cons c rest ih => rw [assessmentBodies, ih, List.zipIdx_cons, List.map_cons]

/-- A record inserted among others, where it is none that the filter keeps. -/
theorem insertAt_filter {p : RecordBody → Bool} {b : RecordBody} (out : p b = false) (k : Nat) (l : List RecordBody) :
    (insertAt b k l).filter p = l.filter p := by
  induction l generalizing k with
  | nil => cases k <;> simp [insertAt, out]
  | cons x rest ih =>
    cases k with
    | zero => simp [insertAt, out]
    | succ k => rw [insertAt, List.filter_cons, List.filter_cons, ih]

theorem mem_insertAt (b : RecordBody) (k : Nat) (l : List RecordBody) : b ∈ insertAt b k l := by
  induction l generalizing k with
  | nil => cases k <;> exact List.mem_cons_self
  | cons x rest ih =>
    cases k with
    | zero => exact List.mem_cons_self
    | succ k => exact List.mem_cons_of_mem _ (ih k)

theorem noPickup_running {s : State} {v : Visit} {r : Ramp} (ramp : s.synth.ramp.ramp = some r)
    (entry : s.synth.ramp.entry = v.entry) (state : s.synth.ramp.state = .stepping ∨ s.synth.ramp.state = .atLimit) :
    s.noPickup v = some (.rampResult v.state r.target r.quantity none) := by
  unfold State.noPickup
  rewrite [ramp]
  dsimp only
  rewrite [decide_eq_true state, decide_eq_true entry]
  rfl

theorem noPickup_still {s : State} (still : s.synth.ramp.ramp = none ∨ s.synth.ramp.state = .frozen
    ∨ s.synth.ramp.state = .none) (v : Visit) : s.noPickup v = none := by
  unfold State.noPickup
  split
  next r ramp =>
    have off : ¬ (s.synth.ramp.state = .stepping ∨ s.synth.ramp.state = .atLimit) := by
      rcases still with absent | frozen | none
      · exact absurd (ramp.symm.trans absent) (Option.some_ne_none r)
      · rewrite [frozen]
        decide
      · rewrite [none]
        decide
    rewrite [decide_eq_false off]
    rfl
  next => rfl

theorem noPickup_result {s : State} {v : Visit} {b : RecordBody} (some : s.noPickup v = some b) :
    ∃ target quantity, b = .rampResult v.state target quantity none := by
  unfold State.noPickup at some
  split at some
  next r _ =>
    dsimp only at some
    split at some
    · exact ⟨r.target, r.quantity, (Option.some.inj some).symm⟩
    · exact absurd some.symm (Option.some_ne_none b)
  next => exact absurd some.symm (Option.some_ne_none b)

/-- The verdicts of a context, as the records of a visit's end. -/
def verdictBodies (ctx : AssessContext) (byAbort : Bool) (v : Visit) : List RecordBody :=
  assessmentBodies v.state byAbort ctx.entry 1 ctx.captures

section Bodies

variable {s : State} {ctx : AssessContext} {v : Visit}

theorem visitBodies_pickup (context : s.assess = some ctx) {b : RecordBody} (pickup : s.noPickup v = some b)
    (byAbort : Bool) :
    ∃ k, s.visitBodies byAbort v = insertAt b k (verdictBodies ctx byAbort v) := by
  simp only [State.visitBodies, context, pickup, Option.map_some, Option.getD_some]
  exact ⟨_, rfl⟩

theorem visitBodies_still (context : s.assess = some ctx) (pickup : s.noPickup v = none) (byAbort : Bool) :
    s.visitBodies byAbort v = verdictBodies ctx byAbort v := by
  simp only [State.visitBodies, context, pickup, Option.map_some, Option.getD_some, verdictBodies]

theorem verdictBodies_filter (byAbort : Bool) : (verdictBodies ctx byAbort v).filter IsAssessment
    = (ctx.captures.zipIdx 1).map fun x : Capturing × Nat =>
        RecordBody.assessment v.state x.2 (x.1.verdict byAbort ctx.entry).1 (x.1.verdict byAbort ctx.entry).2
          x.1.assessment.windowLow x.1.assessment.recordedHigh := by
  rewrite [verdictBodies, assessmentBodies_eq]
  refine List.filter_eq_self.2 fun b mem => ?_
  obtain ⟨x, -, rfl⟩ := List.mem_map.1 mem
  rfl

/-- The ASSESSMENT records of a visit's end are its verdicts, whatever NO_PICKUP stands among them. -/
theorem visitBodies_filter (context : s.assess = some ctx) (byAbort : Bool) :
    (s.visitBodies byAbort v).filter IsAssessment = (verdictBodies ctx byAbort v).filter IsAssessment := by
  cases pickup : s.noPickup v with
  | none => rw [visitBodies_still context pickup]
  | some b =>
    obtain ⟨k, bodies⟩ := visitBodies_pickup context pickup byAbort
    obtain ⟨target, quantity, rfl⟩ := noPickup_result pickup
    rw [bodies, insertAt_filter rfl]

end Bodies

theorem offerAll_frame (l : List RecordBody) (s : State) (time : Nat) :
    ∃ lg dr po, s.offerAll time l = { s with log := lg, drains := dr, ports := po } := by
  induction l generalizing s with
  | nil => exact ⟨s.log, s.drains, s.ports, rfl⟩
  | cons b rest ih =>
    obtain ⟨dr, po, first⟩ := offer_frame s time b
    rewrite [State.offerAll, first]
    exact ih _

theorem visitEndGivesVerdicts : VisitEndGivesVerdicts := by
  intro byAbort s v ctx visit context
  have length : (verdictBodies ctx byAbort v).length = ctx.captures.length := assessmentBodies_length _ _ _ _ _
  have log := endVisit_log s byAbort
  obtain ⟨lg, dr, po, frame⟩ := offerAll_frame (s.visitBodies byAbort v) (s.visitClosed byAbort) (s.shotTime s.now)
  rewrite [endVisit_some s byAbort v visit, frame] at log
  rewrite [endVisit_some s byAbort v visit, frame]
  have log : lg = endLog s byAbort := log
  simp only [endLog, visit] at log
  refine ⟨_, s.visitBodies byAbort v, rfl, rfl, ?_, fun room => ?_, ?_, fun r ramp entry state => ?_, fun still => ?_⟩
  · show lg.verdicts = _
    rewrite [log, foldl_offered_verdicts]
    simp only [State.visitClosed, context, countVerdicts, Option.map_some, Option.getD_some]
  · show lg.records = _
    rewrite [log]
    exact foldl_offered_records (s.makeRecord (s.shotTime s.now)) _ (m := (s.visitClosed byAbort).log) room
  · rw [visitBodies_filter context, verdictBodies_filter]
  · obtain ⟨k, bodies⟩ := visitBodies_pickup context (noPickup_running ramp entry state) byAbort
    rewrite [bodies, insertAt_length, length]
    exact ⟨mem_insertAt _ _ _, rfl⟩
  · rw [visitBodies_still context (noPickup_still still v), length]

set_option Elab.async false in
/-- Settles O50. -/
theorem visitsEndWithVerdicts : Obligations.VisitsEndWithVerdicts := ⟨verdictTable, visitEndGivesVerdicts⟩

end Sys2Proof.Proofs.Verdicts
end

section
/-! PROOF. The lock state and its changes (R128, R135 to R137). -/

namespace Sys2Proof.Proofs.Locking

open Sys2Proof Sys2Proof.Machine Sys2Proof.Proofs.Answering Sys2Proof.Proofs.Aborting Sys2Proof.Proofs.Ending
  Sys2Proof.Proofs.Guarding Sys2Proof.Proofs.Amplifier

/-! ### An abort in ARMED leaves the Time Base -/

theorem enterClosing_time (s : State) : s.enterClosing.time = s.time := by
  obtain ⟨-, -, -, -, -, received, -⟩ := (Reacts.refreshReceive s.closingMuted s.now).keeps
  rewrite [enterClosing_eq]
  exact Eq.trans (by simp [State.closingCleared]) received

/-- The Time Base and the ports after an abort in ARMED, whatever the visit. -/
theorem abortArmed_kept (s : State) (c : AbortCause) (armed : s.seq.phase = .armed) :
    (s.abortArmed c).time = s.time ∧ ∀ p, (s.ports.get p).Grows ((s.abortArmed c).ports.get p) := by
  obtain ⟨dr, po, entered⟩ := abortArmed_eq s c
  have active : (abortedState s c dr po).seq.phase ≠ .idle := fun idle => by
    have idle : s.seq.phase = .idle := idle
    rewrite [armed] at idle
    cases idle
  refine ⟨by rw [entered, enterClosing_time]; rfl, fun p => ?_⟩
  have taken := (Ends.takeEndCause s c).ports p
  have notIdle : (s.takeEndCause c).seq.phase ≠ .idle := by
    rewrite [(takeEndCause_fields s c).1, armed]
    decide
  have closed := (Winds.enterClosing
    { s.takeEndCause c with peer := { (s.takeEndCause c).peer with agreement := .none } } notIdle).ports p
  exact taken.trans closed

/-! ### The lock state (R128, R136, R137) -/

section SetLock

variable {s : State} {l : LockState}

/-- The Time Base in another lock state, the shot judged. -/
def lockedTime (s : State) (l : LockState) : TimeBase := TimeBase.judge { s.time with lock := l } s.shotActive

/-- The state in another lock state, the shot judged and both ports told. -/
def relocked (s : State) (l : LockState) : State := State.raiseBoth { s with time := lockedTime s l } .timeQuality

theorem setLock_same (same : s.time.lock = l) : s.setLock l = s := if_pos same

theorem setLock_other (other : s.time.lock ≠ l) : s.setLock l
    = if s.time.lock = .locked ∧ s.seq.phase = .armed ∧ s.timedStart = true then (relocked s l).softAbort .timeLost
      else relocked s l := if_neg other

theorem setLock_quiet (other : s.time.lock ≠ l)
    (quiet : s.time.lock ≠ .locked ∨ s.seq.phase ≠ .armed ∨ s.timedStart = false) : s.setLock l = relocked s l := by
  rewrite [setLock_other other]
  refine if_neg fun ⟨locked, armed, timed⟩ => ?_
  rcases quiet with h | h | h
  · exact h locked
  · exact h armed
  · rewrite [h] at timed
    cases timed

theorem setLock_aborts (other : s.time.lock ≠ l) (locked : s.time.lock = .locked) (armed : s.seq.phase = .armed)
    (timed : s.timedStart = true) : s.setLock l = (relocked s l).abortArmed .timeLost := by
  rewrite [setLock_other other, if_pos ⟨locked, armed, timed⟩]
  exact softAbort_armed (s := relocked s l) .timeLost armed

/-- The Time Base and the ports after any change of the lock state. -/
theorem setLock_kept (other : s.time.lock ≠ l) :
    (s.setLock l).time = lockedTime s l ∧ ∀ p, ((relocked s l).ports.get p).Grows ((s.setLock l).ports.get p) := by
  by_cases aborts : s.time.lock = .locked ∧ s.seq.phase = .armed ∧ s.timedStart = true
  · obtain ⟨locked, armed, timed⟩ := aborts
    rewrite [setLock_aborts other locked armed timed]
    exact abortArmed_kept (relocked s l) .timeLost armed
  · rewrite [setLock_other other, if_neg aborts]
    exact ⟨rfl, fun _ => .refl _⟩

theorem setLock_raises (other : s.time.lock ≠ l) : Raised s (s.setLock l) .timeQuality := by
  obtain ⟨-, grows⟩ := setLock_kept other
  refine raised_of_grows fun q => ?_
  have told : (relocked s l).ports.get q = (s.ports.get q).raise .timeQuality := PerPort.get_map _ _ _
  rewrite [← told]
  exact grows q

theorem setLock_frame (other : s.time.lock ≠ l)
    (quiet : s.time.lock ≠ .locked ∨ s.seq.phase ≠ .armed ∨ s.timedStart = false) :
    s.setLock l = { s with time := (s.setLock l).time, ports := (s.setLock l).ports } := by
  rewrite [setLock_quiet other quiet]
  rfl

theorem setLock_timeLost (other : s.time.lock ≠ l) (locked : s.time.lock = .locked) (armed : s.seq.phase = .armed)
    (visit : s.seq.visit = none) (timed : s.timedStart = true) :
    AbortedInArmed { s with time := (s.setLock l).time } (s.setLock l) .timeLost := by
  obtain ⟨aborted, -⟩ := abortArmed_enters (s := relocked s l) .timeLost armed visit
  rewrite [(setLock_kept other).1, setLock_aborts other locked armed timed]
  exact abortedInArmed_beside (s := { s with time := lockedTime s l }) (g := s.guard) (am := s.amp) rfl aborted

end SetLock

/-! ### The shot quality (R136) -/

section Quality

variable {s : State} {l : LockState}

theorem lockedTime_eq (s : State) (l : LockState) : lockedTime s l
    = { s.time with lock := l, quality := (lockedTime s l).quality, degraded := (lockedTime s l).degraded } := by
  unfold lockedTime TimeBase.judge
  split
  · split <;> rfl
  · rfl

theorem follows_iff (s : State) : (s.shotActive && s.time.armedLocked) = true ↔ QualityFollows s := by
  rw [Bool.and_eq_true, shotActive_iff, QualityFollows]

theorem lockedTime_other (stands : ¬ QualityFollows s) : lockedTime s l = { s.time with lock := l } :=
  if_neg fun follows => stands ((follows_iff s).1 follows)

theorem lockedTime_locked (follows : QualityFollows s) :
    lockedTime s .locked = { s.time with lock := .locked, quality := .good } :=
  (if_pos ((follows_iff s).2 follows)).trans (if_pos rfl)

theorem lockedTime_lost (follows : QualityFollows s) (lost : l ≠ .locked) :
    lockedTime s l = { s.time with lock := l, quality := .degraded, degraded := true } :=
  (if_pos ((follows_iff s).2 follows)).trans (if_neg lost)

set_option Elab.async false in
theorem qualityLost_of {t : State} (time : t.time = lockedTime s l) (lost : l ≠ .locked) : QualityLost s t := by
  refine ⟨fun follows => ?_, fun stands => ?_⟩
  · rewrite [time, lockedTime_lost follows lost]
    exact ⟨rfl, rfl⟩
  · rewrite [time, lockedTime_other stands]
    exact ⟨rfl, rfl⟩

end Quality

end Sys2Proof.Proofs.Locking
end

section
/-! PROOF. SET_TIME, PPS_EDGE, SLEW_POINT, PPS_TIMEOUT and HOLDOVER_TIMEOUT (O54). -/

namespace Sys2Proof.Proofs.Clock

open Sys2Proof Sys2Proof.Machine Sys2Proof.Proofs.Answering Sys2Proof.Proofs.Locking

/-! ### What an edge does to the Time Base (R130 to R133) -/

section Edge

variable {t : TimeBase}

/-- The Time Base as an edge leaves it before the re-phase: the count of good intervals and the slew. -/
def stepped (t : TimeBase) : TimeBase := { t with good := 0, slew := if t.lock = .locked then .none else t.slew }

theorem edge_small (lock : t.lock = .locked ∨ t.lock = .holdover) (small : smallError (phaseError t.counter) = true)
    (active : Bool) : t.edge active
      = (if active then t.slewFor (phaseError t.counter)
          else (t.slewFor (phaseError t.counter)).takeLoaded (phaseError t.counter), .locked) := by
  unfold TimeBase.edge
  rcases lock with lock | lock
  · simp only [lock, small, if_true]
  · simp only [lock, small, if_true]

theorem edge_steps (lock : t.lock = .free
      ∨ ((t.lock = .locked ∨ t.lock = .holdover) ∧ smallError (phaseError t.counter) = false))
    (active : Bool) : t.edge active = (if active then stepped t else (stepped t).rephase, .locking) := by
  unfold TimeBase.edge stepped
  rcases lock with lock | ⟨lock | lock, large⟩
  · simp only [lock, reduceCtorEq, if_false]
  · simp only [lock, large, Bool.false_eq_true, if_false, if_true]
  · simp only [lock, large, Bool.false_eq_true, reduceCtorEq, if_false]

theorem edge_locking (lock : t.lock = .locking) (active : Bool) : t.edge active
    = (if active then t.countGood else t.countGood.rephase,
       if t.countGood.good = 3 ∧ smallError (if active then phaseError t.counter else 0) = true then .locked
       else .locking) := by
  unfold TimeBase.edge
  simp only [lock]

theorem rephased_of {u : TimeBase} (counter : u.counter = t.counter) (seconds : u.seconds = t.seconds)
    (loaded : u.loaded = t.loaded) : Rephased t u.rephase := by
  unfold Rephased TimeBase.rephase
  rewrite [counter, seconds, loaded]
  refine ⟨rfl, rfl, rfl, ?_⟩
  cases t.loaded <;> rfl

theorem loadedTaken_of {u : TimeBase} (counter : u.counter = t.counter) (seconds : u.seconds = t.seconds)
    (loaded : u.loaded = t.loaded) (next : u.nextSecond = t.nextSecond) (e : Int) : LoadedTaken t (u.takeLoaded e) e := by
  unfold LoadedTaken TimeBase.takeLoaded
  rewrite [← loaded, ← counter, ← seconds, ← next]
  cases own : u.loaded with
  | none => exact ⟨rfl, own, rfl, rfl⟩
  | some n =>
    dsimp only
    by_cases late : 0 ≤ e
    · rewrite [if_pos late]
      exact ⟨rfl, rfl, fun _ => ⟨rfl, rfl⟩, fun early => absurd late (by omega)⟩
    · rewrite [if_neg late]
      exact ⟨rfl, rfl, fun h => absurd h late, fun _ => ⟨rfl, rfl⟩⟩

theorem slewFor_eq (t : TimeBase) (e : Int) : t.slewFor e = { t with slew := SlewAfter t e } := by
  unfold TimeBase.slewFor SlewAfter
  split
  · rfl
  · split <;> rfl

theorem smallError_iff (e : Int) : smallError e = true ↔ -20 ≤ e ∧ e ≤ 20 := by
  rewrite [smallError, decide_eq_true_iff]
  omega

theorem phaseError_eq (c : Nat) :
    phaseError c = if c < 500000 then (c : Int) else c - 1000000 := rfl

/-- What an edge leaves of the Time Base, whatever the lock state. -/
def EdgeKeeps (t u : TimeBase) : Prop :=
  u.lock = t.lock ∧ u.localTime = t.localTime ∧ u.quality = t.quality ∧ u.degraded = t.degraded
  ∧ u.armedLocked = t.armedLocked

theorem takeLoaded_keeps (t : TimeBase) (e : Int) : EdgeKeeps t (t.takeLoaded e) ∧ (t.takeLoaded e).good = t.good
    ∧ (t.takeLoaded e).slew = t.slew := by
  unfold TimeBase.takeLoaded EdgeKeeps
  split
  · exact ⟨⟨rfl, rfl, rfl, rfl, rfl⟩, rfl, rfl⟩
  · split <;> exact ⟨⟨rfl, rfl, rfl, rfl, rfl⟩, rfl, rfl⟩

theorem edge_keeps (t : TimeBase) (active : Bool) : EdgeKeeps t (t.edge active).1 := by
  have rephased {u : TimeBase} (keeps : EdgeKeeps t u) : EdgeKeeps t (if active then u else u.rephase) := by
    split <;> exact keeps
  have step : EdgeKeeps t (stepped t) := ⟨rfl, rfl, rfl, rfl, rfl⟩
  have small (lock : t.lock = .locked ∨ t.lock = .holdover) : EdgeKeeps t (t.edge active).1 := by
    cases size : smallError (phaseError t.counter) with
    | true =>
      rewrite [edge_small lock size, slewFor_eq]
      dsimp only
      split
      · exact ⟨rfl, rfl, rfl, rfl, rfl⟩
      · exact (takeLoaded_keeps _ _).1
    | false =>
      rewrite [edge_steps (.inr ⟨lock, size⟩)]
      exact rephased step
  cases lock : t.lock with
  | free =>
    rewrite [edge_steps (.inl lock)]
    exact rephased step
  | locking =>
    rewrite [edge_locking lock]
    exact rephased ⟨rfl, rfl, rfl, rfl, rfl⟩
  | locked => exact small (.inl lock)
  | holdover => exact small (.inr lock)

end Edge

/-! ### PPS_EDGE -/

theorem setLock_time (s : State) (l : LockState) :
    ∃ q d, (s.setLock l).time = { s.time with lock := l, quality := q, degraded := d } := by
  by_cases same : s.time.lock = l
  · rewrite [setLock_same same, ← same]
    exact ⟨s.time.quality, s.time.degraded, rfl⟩
  · rewrite [(setLock_kept same).1]
    exact ⟨_, _, lockedTime_eq s l⟩

section PpsEdge

variable {s : State} {t : TimeBase} {q : Quality} {d : Bool}

/-- The Time Base after an edge: what the edge has made of it, the edge stored and the lock state taken. -/
def edged (s : State) (q : Quality) (d : Bool) : TimeBase :=
  { (s.time.edge s.shotActive).1.store (phaseError s.time.counter) with
    lock := (s.time.edge s.shotActive).2, quality := q, degraded := d }

theorem active_of (active : s.seq.phase ≠ .idle) : s.shotActive = true := (shotActive_iff s).2 active

theorem idle_of (idle : s.seq.phase = .idle) : s.shotActive = false :=
  Bool.eq_false_iff.2 fun active => (shotActive_iff s).1 active idle

theorem edged_small (lock : s.time.lock = .locked ∨ s.time.lock = .holdover)
    (small : smallError (phaseError s.time.counter) = true) (is : t = edged s q d) :
    t.lock = .locked ∧ t.slew = SlewAfter s.time (phaseError s.time.counter) ∧ t.good = s.time.good
    ∧ (s.seq.phase ≠ .idle → CountKept s.time t)
    ∧ (s.seq.phase = .idle → LoadedTaken s.time t (phaseError s.time.counter)) := by
  subst is
  have edge := edge_small lock small s.shotActive
  rewrite [slewFor_eq] at edge
  unfold edged
  rewrite [edge]
  by_cases idle : s.seq.phase = .idle
  · obtain ⟨-, good, slew⟩ := takeLoaded_keeps { s.time with slew := SlewAfter s.time (phaseError s.time.counter) }
      (phaseError s.time.counter)
    rewrite [idle_of idle]
    exact ⟨rfl, slew, good, fun active => absurd idle active,
      fun _ => loadedTaken_of (u := { s.time with slew := SlewAfter s.time (phaseError s.time.counter) }) rfl rfl rfl rfl _⟩
  · rewrite [active_of idle]
    exact ⟨rfl, rfl, rfl, fun _ => ⟨rfl, rfl, rfl, rfl⟩, fun h => absurd h idle⟩

theorem edged_steps (lock : s.time.lock = .free ∨ ((s.time.lock = .locked ∨ s.time.lock = .holdover)
      ∧ smallError (phaseError s.time.counter) = false)) (is : t = edged s q d) :
    t.lock = .locking ∧ t.good = 0 ∧ (s.time.lock = .locked → t.slew = .none)
    ∧ (s.seq.phase ≠ .idle → CountKept s.time t) ∧ (s.seq.phase = .idle → Rephased s.time t) := by
  subst is
  unfold edged
  rewrite [edge_steps lock]
  have slew (locked : s.time.lock = .locked) : (stepped s.time).slew = .none := if_pos locked
  by_cases idle : s.seq.phase = .idle
  · rewrite [idle_of idle]
    exact ⟨rfl, rfl, slew, fun active => absurd idle active,
      fun _ => rephased_of (u := stepped s.time) rfl rfl rfl⟩
  · rewrite [active_of idle]
    exact ⟨rfl, rfl, slew, fun _ => ⟨rfl, rfl, rfl, rfl⟩, fun h => absurd h idle⟩

theorem goodInterval_iff (t : TimeBase) : t.goodInterval = true
    ↔ ∃ last, t.lastEdge = some last ∧ 999998 ≤ t.localTime - last ∧ t.localTime - last ≤ 1000002 := by
  unfold TimeBase.goodInterval
  cases t.lastEdge with
  | none => exact ⟨fun h => absurd h Bool.false_ne_true, fun ⟨_, h, _⟩ => absurd h (Option.some_ne_none _).symm⟩
  | some e => simp only [decide_eq_true_eq, Option.some.injEq, exists_eq_left']

theorem edged_locking (lock : s.time.lock = .locking) (is : t = edged s q d) :
    t.slew = .none
    ∧ (∀ last, s.time.lastEdge = some last → 999998 ≤ s.time.localTime - last →
        s.time.localTime - last ≤ 1000002 → t.good = min 3 (s.time.good + 1))
    ∧ ((∀ last, s.time.lastEdge = some last →
        s.time.localTime - last < 999998 ∨ 1000002 < s.time.localTime - last) → t.good = 0)
    ∧ (t.lock = if t.good = 3 ∧ (s.seq.phase = .idle
          ∨ (-20 ≤ phaseError s.time.counter ∧ phaseError s.time.counter ≤ 20)) then .locked else .locking)
    ∧ (s.seq.phase ≠ .idle → CountKept s.time t) ∧ (s.seq.phase = .idle → Rephased s.time t) := by
  subst is
  have counted (last : Nat) (edge : s.time.lastEdge = some last) (low : 999998 ≤ s.time.localTime - last)
      (high : s.time.localTime - last ≤ 1000002) : s.time.countGood.good = min 3 (s.time.good + 1) :=
    if_pos ((goodInterval_iff s.time).2 ⟨last, edge, low, high⟩)
  have lost (bad : ∀ last, s.time.lastEdge = some last →
      s.time.localTime - last < 999998 ∨ 1000002 < s.time.localTime - last) : s.time.countGood.good = 0 := by
    refine if_neg fun good => ?_
    obtain ⟨last, edge, low, high⟩ := (goodInterval_iff s.time).1 good
    rcases bad last edge with h | h <;> omega
  unfold edged
  rewrite [edge_locking lock]
  by_cases idle : s.seq.phase = .idle
  · rewrite [idle_of idle]
    refine ⟨rfl, counted, lost, if_congr ?_ rfl rfl, fun active => absurd idle active,
      fun _ => rephased_of (u := s.time.countGood) rfl rfl rfl⟩
    exact and_congr Iff.rfl ⟨fun _ => .inl idle, fun _ => rfl⟩
  · rewrite [active_of idle]
    refine ⟨rfl, counted, lost, if_congr ?_ rfl rfl, fun _ => ⟨rfl, rfl, rfl, rfl⟩, fun h => absurd h idle⟩
    exact and_congr Iff.rfl ((smallError_iff _).trans (or_iff_right idle).symm)

/-- The state with the edge stored, before the lock state is taken. -/
def edgeStored (s : State) : State :=
  { s with time := (s.time.edge s.shotActive).1.store (phaseError s.time.counter) }

theorem edgeStored_keeps (s : State) : EdgeKeeps s.time (edgeStored s).time := edge_keeps s.time s.shotActive

theorem edgeStored_follows (s : State) : QualityFollows (edgeStored s) ↔ QualityFollows s := by
  obtain ⟨-, -, -, -, armedLocked⟩ := edgeStored_keeps s
  unfold QualityFollows
  rewrite [armedLocked]
  exact Iff.rfl

/-- The quality and the degraded flag under another lock state than LOCKED (R136). -/
theorem edgeStored_lost {t : State} (lost : QualityLost (edgeStored s) t) : QualityLost s t := by
  obtain ⟨-, -, quality, degraded, -⟩ := edgeStored_keeps s
  obtain ⟨follows, stands⟩ := lost
  rewrite [quality, degraded] at stands
  exact ⟨fun h => follows ((edgeStored_follows s).2 h), fun h => stands (h ∘ (edgeStored_follows s).1)⟩

/-- The quality and the degraded flag of a shot that has become LOCKED again (R136). -/
theorem edgeStored_locked (s : State) : (lockedTime (edgeStored s) .locked).degraded = s.time.degraded
    ∧ (QualityFollows s → (lockedTime (edgeStored s) .locked).quality = .good)
    ∧ (¬ QualityFollows s → (lockedTime (edgeStored s) .locked).quality = s.time.quality) := by
  obtain ⟨-, -, quality, degraded, -⟩ := edgeStored_keeps s
  by_cases follows : QualityFollows s
  · rewrite [lockedTime_locked ((edgeStored_follows s).2 follows)]
    exact ⟨degraded, fun _ => rfl, fun stands => absurd follows stands⟩
  · rewrite [lockedTime_other (follows ∘ (edgeStored_follows s).1)]
    exact ⟨degraded, fun h => absurd h follows, fun _ => quality⟩

theorem ppsEdge (s : State) : PpsEdge s := by
  obtain ⟨q, d, time⟩ := setLock_time (edgeStored s) (s.time.edge s.shotActive).2
  obtain ⟨lock, localTime, quality, degraded, -⟩ := edgeStored_keeps s
  have small (e : Int) (low : -20 ≤ e) (high : e ≤ 20) : smallError e = true := (smallError_iff e).2 ⟨low, high⟩
  have large (e : Int) (out : e < -20 ∨ 20 < e) : smallError e = false :=
    Bool.eq_false_iff.2 fun h => by
      obtain ⟨low, high⟩ := (smallError_iff e).1 h
      omega
  have taken : ((edgeStored s).setLock (s.time.edge s.shotActive).2).time.lock = (s.time.edge s.shotActive).2 := by
    rw [time]
  refine ⟨(edgeStored s).setLock (s.time.edge s.shotActive).2, phaseError s.time.counter, rfl, phaseError_eq _, ?_, ?_, ?_,
    fun own low high => ?_, fun own => ?_, fun own => ?_, fun same => ?_, fun other => ?_⟩
  · rewrite [time]
    exact congrArg some localTime
  · rewrite [time]
    rfl
  · rewrite [time]
    exact localTime
  · exact edged_small own (small _ low high) time
  · exact edged_steps (own.imp id fun ⟨h, out⟩ => ⟨h, large _ out⟩) time
  · exact edged_locking own time
  · rewrite [setLock_same (lock.trans (same.symm.trans taken))]
    exact ⟨rfl, quality, degraded⟩
  · rewrite [taken] at other ⊢
    have changes : (edgeStored s).time.lock ≠ (s.time.edge s.shotActive).2 := fun h => other (h.symm.trans lock)
    have judged := (setLock_kept changes).1
    refine ⟨setLock_raises changes, fun lost => edgeStored_lost (qualityLost_of judged lost), fun locked => ?_,
      fun quiet => setLock_frame changes (.inr quiet),
      fun was armed visit timed => setLock_timeLost changes (lock.trans was) armed visit timed⟩
    rewrite [judged, locked]
    exact edgeStored_locked s

end PpsEdge

/-! ### SLEW_POINT, PPS_TIMEOUT, HOLDOVER_TIMEOUT and SET_TIME -/

theorem execSlewPoint_due {s : State} (due : s.time.slewDue = true) :
    exec .slewPoint s = .next { s with time := s.time.slewed } := congrArg Host.Outcome.next (if_pos due)

theorem slewPoint (s : State) : SlewPoint s := by
  refine ⟨fun idle => congrArg Host.Outcome.next (if_neg (Bool.eq_false_iff.1 idle)), fun point lock => ⟨fun insert => ?_, fun drop => ?_⟩⟩
  · have due : s.time.slewDue = true := by simp only [TimeBase.slewDue, point, insert, lock]; decide
    rw [execSlewPoint_due due, TimeBase.slewed, insert]
  · have due : s.time.slewDue = true := by simp only [TimeBase.slewDue, point, drop, lock]; decide
    rewrite [execSlewPoint_due due, TimeBase.slewed, drop]
    dsimp only [TimeBase.fresh]
    rewrite [point]
    rfl

theorem silentFor_of {t : TimeBase} {e : Nat} {span : Nat} (edge : t.lastEdge = some e)
    (passed : e + span ≤ t.localTime) : t.silentFor span = true := by
  rewrite [TimeBase.silentFor, edge]
  exact decide_eq_true passed

theorem timeoutDue_of {t : TimeBase} {e : Nat} (lock : t.lock = .locked ∨ t.lock = .locking)
    (edge : t.lastEdge = some e) (passed : e + 1100000 ≤ t.localTime) : t.timeoutDue = true :=
  Bool.and_eq_true_iff.2 ⟨decide_eq_true lock, silentFor_of edge passed⟩

theorem holdoverDue_of {t : TimeBase} {e : Nat} (lock : t.lock = .holdover)
    (edge : t.lastEdge = some e) (passed : e + 61100000 ≤ t.localTime) : t.holdoverDue = true :=
  Bool.and_eq_true_iff.2 ⟨decide_eq_true lock, silentFor_of edge passed⟩

theorem execPpsTimeout_locked {s : State} (due : s.time.timeoutDue = true) (lock : s.time.lock = .locked) :
    exec .ppsTimeout s = .next (s.setLock .holdover) := by
  rw [exec, execPpsTimeout, if_pos due, lock]

theorem execPpsTimeout_locking {s : State} (due : s.time.timeoutDue = true) (lock : s.time.lock = .locking) :
    exec .ppsTimeout s = .next (State.setLock { s with time := { s.time with good := 0 } } .free) := by
  rw [exec, execPpsTimeout, if_pos due, lock]

/-- The state with the count of good intervals cleared. -/
def uncounted (s : State) : State := { s with time := { s.time with good := 0 } }

theorem ppsTimeouts (s : State) : PpsTimeouts s := by
  refine ⟨fun idle => congrArg Host.Outcome.next (if_neg (Bool.eq_false_iff.1 idle)),
    fun idle => congrArg Host.Outcome.next (if_neg (Bool.eq_false_iff.1 idle)),
    fun e edge => ⟨fun lock passed => ?_, fun lock passed => ?_, fun lock passed => ?_⟩⟩
  · have changes : s.time.lock ≠ .holdover := lock ▸ LockState.noConfusion
    have judged := (setLock_kept changes).1
    refine ⟨_, execPpsTimeout_locked (timeoutDue_of (.inl lock) edge passed) lock, ?_, setLock_raises changes,
      qualityLost_of judged LockState.noConfusion, ?_, fun quiet => setLock_frame changes (.inr quiet),
      fun armed visit timed => setLock_timeLost changes lock armed visit timed⟩
    · rw [judged, lockedTime_eq]
    · rewrite [judged]
      exact lockedTime_eq s .holdover
  · have changes : s.time.lock ≠ .free := lock ▸ LockState.noConfusion
    have quiet : s.time.lock ≠ .locked := lock ▸ LockState.noConfusion
    have judged := (setLock_kept (s := uncounted s) changes).1
    refine ⟨(uncounted s).setLock .free, execPpsTimeout_locking (timeoutDue_of (.inr lock) edge passed) lock, ?_, ?_, setLock_raises (s := uncounted s) changes,
      qualityLost_of (s := uncounted s) judged LockState.noConfusion, ?_, setLock_frame (s := uncounted s) changes (.inl quiet)⟩
    · rw [judged, lockedTime_eq]
    · rewrite [judged, lockedTime_eq]
      rfl
    · rewrite [judged]
      exact lockedTime_eq (uncounted s) .free
  · have changes : s.time.lock ≠ .free := lock ▸ LockState.noConfusion
    have quiet : s.time.lock ≠ .locked := lock ▸ LockState.noConfusion
    have judged := (setLock_kept changes).1
    refine ⟨_, congrArg Host.Outcome.next (if_pos (holdoverDue_of lock edge passed)), ?_, setLock_raises changes,
      qualityLost_of judged LockState.noConfusion, ?_, setLock_frame changes (.inl quiet)⟩
    · rw [judged, lockedTime_eq]
    · rewrite [judged]
      exact lockedTime_eq s .free

theorem setTimeLoads (s : State) : SetTimeLoads s := by
  intro p seconds allowed bound
  rewrite [exec, execSetTime, gated_allowed _ allowed, Nat.mod_eq_of_lt bound]
  rfl

set_option Elab.async false in
/-- Settles O54. -/
theorem clockFollowsThePps : Obligations.ClockFollowsThePps :=
  fun s => ⟨setTimeLoads s, ppsEdge s, slewPoint s, ppsTimeouts s⟩

end Sys2Proof.Proofs.Clock
end

section
/-! PROOF. HELLO, KEEPALIVE, INVALID_PEER_FRAME and the timers of the peer link (O55). -/

namespace Sys2Proof.Proofs.Linking

open Sys2Proof Sys2Proof.Machine Sys2Proof.Proofs.Aborting Sys2Proof.Proofs.Ending Sys2Proof.Proofs.Guarding
  Sys2Proof.Proofs.Amplifier

/-! ### A soft abort, whatever the phase and the visit -/

theorem abortArmed_winds (s : State) (c : AbortCause) (armed : s.seq.phase = .armed) : s.Winds (s.abortArmed c) := by
  have dropped : (s.takeEndCause c).Winds
      { s.takeEndCause c with peer := { (s.takeEndCause c).peer with agreement := .none } } :=
    State.Winds.of _ _ ⟨rfl, rfl, rfl, rfl, rfl⟩ ⟨rfl, rfl, rfl, rfl, rfl⟩ rfl rfl rfl rfl rfl Iff.rfl
      (fun _ => .inl rfl) (.refl _ _) (.inl rfl)
  refine ((Ends.takeEndCause s c).toWinds.trans dropped).trans (Winds.enterClosing _ ?_)
  show (s.takeEndCause c).seq.phase ≠ .idle
  rewrite [(takeEndCause_fields s c).1, armed]
  decide

theorem softAbort_winds (s : State) (c : AbortCause) : s.Winds (s.softAbort c) := by
  by_cases armed : s.seq.phase = .armed
  · rewrite [softAbort_armed c armed]
    exact abortArmed_winds s c armed
  · exact (Ends.softAbort s c fun h => absurd h armed).toWinds

/-! ### The link state (R142, R145) -/

section SetLink

variable {s : State} {l : LinkState}

/-- The state with another link state, both ports told. -/
def linked (s : State) (l : LinkState) : State :=
  State.raiseBoth { s with peer := { s.peer with link := l } } .peerLink

theorem losesPeer_iff (s : State) : s.losesPeer = true
    ↔ s.seq.peerLinked = true ∧ (s.seq.phase = .armed ∨ s.seq.phase = .running) ∧ s.peer.farEnded = none := by
  rw [State.losesPeer, Bool.and_eq_true, Bool.and_eq_true, decide_eq_true_iff, Option.isNone_iff_eq_none, and_assoc]

theorem setLink_same (same : s.peer.link = l) : s.setLink l = s := if_pos same

theorem setLink_other (other : s.peer.link ≠ l) : s.setLink l
    = if s.peer.link = .up ∧ s.losesPeer = true then (linked s l).softAbort .peerLost else linked s l := if_neg other

theorem setLink_quiet (other : s.peer.link ≠ l) (quiet : s.peer.link ≠ .up ∨ s.losesPeer = false) :
    s.setLink l = linked s l := by
  rewrite [setLink_other other]
  refine if_neg fun ⟨up, loses⟩ => quiet.elim (absurd up) fun h => ?_
  rewrite [h] at loses
  cases loses

theorem setLink_aborts (other : s.peer.link ≠ l) (up : s.peer.link = .up) (loses : s.losesPeer = true) :
    s.setLink l = (linked s l).softAbort .peerLost := (setLink_other other).trans (if_pos ⟨up, loses⟩)

theorem setLink_winds (other : s.peer.link ≠ l) : (linked s l).Winds (s.setLink l) := by
  rewrite [setLink_other other]
  split
  · exact softAbort_winds _ _
  · exact .refl _

theorem setLink_raises (other : s.peer.link ≠ l) : Raised s (s.setLink l) .peerLink := raised_of_grows fun q => by
  have told : (linked s l).ports.get q = (s.ports.get q).raise .peerLink := PerPort.get_map _ _ _
  rewrite [← told]
  exact (setLink_winds other).ports q

theorem setLink_link (s : State) (l : LinkState) : (s.setLink l).peer.link = l := by
  by_cases same : s.peer.link = l
  · rw [setLink_same same, same]
  · rewrite [(setLink_winds same).peer]
    rfl

/-- PEER_LOST as the end cause in RUNNING. -/
theorem setLink_running (other : s.peer.link ≠ l) (up : s.peer.link = .up) (loses : s.losesPeer = true)
    (running : s.seq.phase = .running) (first : s.seq.endCause = none) :
    SoftAbortTaken { s with peer := { s.peer with link := l } } (s.setLink l) .peerLost
    ∧ s.setLink l = { s with
        seq := (s.setLink l).seq, log := (s.setLink l).log, drains := (s.setLink l).drains
        peer := (s.setLink l).peer, ports := (s.setLink l).ports } := by
  have notArmed : (linked s l).seq.phase ≠ .armed := fun armed => by
    have armed : s.seq.phase = .armed := armed
    rewrite [running] at armed
    cases armed
  obtain ⟨_, _, _, _, _, frame⟩ := softAbort_frame (s := linked s l) .peerLost notArmed
  obtain ⟨taken, -⟩ := softAbort_running (s := linked s l) .peerLost running first
  rewrite [setLink_aborts other up loses]
  refine ⟨taken, ?_⟩
  rewrite [frame]
  rfl

/-- PEER_LOST as the secondary cause in RUNNING. -/
theorem setLink_again (other : s.peer.link ≠ l) (up : s.peer.link = .up) (loses : s.losesPeer = true)
    (running : s.seq.phase = .running) (later : s.seq.endCause ≠ none) (fixed : s.seq.softEnd ≠ none) :
    SecondaryTaken s (s.setLink l) .peerLost
    ∧ s.setLink l = { s with
        seq := (s.setLink l).seq, log := (s.setLink l).log, drains := (s.setLink l).drains
        peer := { s.peer with link := l }, ports := (s.setLink l).ports } := by
  obtain ⟨_, _, frame, -⟩ := takeSecondary_frame (linked s l) .peerLost
  have taken : SecondaryTaken (linked s l) _ .peerLost := takeSecondary_taken (linked s l) .peerLost
  rewrite [setLink_aborts other up loses, softAbort_again (s := linked s l) .peerLost running later fixed]
  refine ⟨taken, ?_⟩
  rewrite [frame]
  rfl

/-- PEER_LOST in ARMED. -/
theorem setLink_armed (other : s.peer.link ≠ l) (up : s.peer.link = .up) (loses : s.losesPeer = true)
    (armed : s.seq.phase = .armed) (visit : s.seq.visit = none) :
    AbortedInArmed { s with peer := { s.peer with link := l } } (s.setLink l) .peerLost := by
  obtain ⟨aborted, -⟩ := abortArmed_enters (s := linked s l) .peerLost armed visit
  rewrite [setLink_aborts other up loses, softAbort_armed (s := linked s l) .peerLost armed]
  exact abortedInArmed_beside (s := { s with peer := { s.peer with link := l } }) (g := s.guard) (am := s.amp) rfl aborted

theorem linkBecomes (s : State) (l : LinkState) : LinkBecomes s (s.setLink l) l := by
  refine ⟨setLink_link s l, setLink_same, setLink_raises, fun quiet => ?_, fun up down isLinked far => ?_⟩
  · by_cases same : s.peer.link = l
    · rw [setLink_same same, ← same]
    · have quiet : s.peer.link ≠ .up ∨ s.losesPeer = false := by
        refine or_iff_not_imp_left.2 fun _ => Bool.eq_false_iff.2 fun loses => ?_
        obtain ⟨isLinked, phase, far⟩ := (losesPeer_iff s).1 loses
        rewrite [isLinked, far] at quiet
        rcases quiet with h | h | ⟨notArmed, notRunning⟩ | h
        · contradiction
        · cases h
        · exact phase.elim notArmed notRunning
        · exact h rfl
      rewrite [setLink_quiet same quiet]
      rfl
  · have other : s.peer.link ≠ l := fun h => down (h.symm.trans up)
    have loses (phase : s.seq.phase = .armed ∨ s.seq.phase = .running) : s.losesPeer = true :=
      (losesPeer_iff s).2 ⟨isLinked, phase, far⟩
    exact ⟨fun armed visit => setLink_armed other up (loses (.inl armed)) armed visit,
      fun running first => setLink_running other up (loses (.inr running)) running first,
      fun running later fixed => setLink_again other up (loses (.inr running)) running later fixed⟩

end SetLink

/-! ### The frames that are not HELLO (R144) -/

section Receive

variable {s : State} {f : State → State}

theorem receive_down (down : s.peer.link = .down) : s.receive f = .next (Heard s) := by
  have link : s.restartLoss.peer.link = .down := down
  unfold State.receive
  dsimp only
  rewrite [link]
  rfl

theorem receive_linking (linking : s.peer.link = .linking) : s.receive f = .next (f ((Heard s).setLink .up)) := by
  have link : s.restartLoss.peer.link = .linking := linking
  unfold State.receive
  dsimp only
  rewrite [link]
  rfl

theorem receive_up (up : s.peer.link = .up) : s.receive f = .next (f (Heard s)) := by
  have link : s.restartLoss.peer.link = .up := up
  unfold State.receive
  dsimp only
  rewrite [link]
  rfl

theorem exec_news {c : Instr} (news : CarriesNews c) : ∃ f, ∀ s, exec c s = s.receive f := by
  unfold CarriesNews at news
  split at news
  case h_9 => exact news.elim
  all_goals
    simp only [exec, execKeepalive, execStartPropose, execStartAccept, execStartReject, execEventFrame, execStateFrame,
      execAbortFrame, execEndFrame]
    exact ⟨_, fun _ => rfl⟩

/-- A frame in LINKING makes the link UP, and is then taken as in UP. -/
theorem receive_raises (linking : s.peer.link = .linking) : s.receive f = (s.setLink .up).receive f := by
  have other : s.peer.link ≠ .up := linking ▸ LinkState.noConfusion
  rewrite [receive_linking linking, receive_up (setLink_link s .up), setLink_quiet other (.inl other),
    setLink_quiet (s := Heard s) other (.inl other)]
  rfl

end Receive

/-! ### HELLO and the timers (R143, R144, R146) -/

section Timers

variable {s : State}

theorem hello_own (tag : BitVec 64) (heard : Bool) : exec (.hello Config.protocolVersion tag heard) s
    = .next (State.setLink { s with peer := { s.peer with lossAt := some (s.now + 50000), farTag := some tag } }
        (if heard then .up else .linking)) := by
  have after (l : LinkState) : l.afterHello heard = if heard then .up else .linking := by
    cases l <;> cases heard <;> rfl
  rewrite [← after s.peer.link]
  exact congrArg Host.Outcome.next (if_pos rfl)

/-- The send timer has expired and its frame is sent. -/
def expired (s : State) : State :=
  { s with peer := { s.peer with sendAt := s.peer.sendAt + 10000, sent := s.peer.sent ++ [s.timerFrame] } }

theorem sendTimer_due (due : s.peer.sendAt ≤ s.now) : exec .sendTimerExpiry s = .next (expired s).propose :=
  congrArg Host.Outcome.next (if_pos (decide_eq_true due))

theorem propose_silent (silent : s.peer.link ≠ .up) : s.propose = s := by
  unfold State.propose
  split
  · exact if_neg silent
  · rfl

theorem lossDue_iff (s : State) : s.lossDue = true ↔ ∃ e, s.peer.lossAt = some e ∧ e ≤ s.now := by
  unfold State.lossDue
  cases s.peer.lossAt with
  | none => exact ⟨fun h => absurd h Bool.false_ne_true, fun ⟨_, h, _⟩ => absurd h (Option.some_ne_none _).symm⟩
  | some e => simp only [decide_eq_true_eq, Option.some.injEq, exists_eq_left']

end Timers

set_option Elab.async false in
/-- Settles O55. -/
theorem linkFollowsTheFrames : Obligations.LinkFollowsTheFrames := by
  intro s
  refine ⟨rfl, fun version tag heard other => ?_, fun tag heard => ⟨_, hello_own tag heard, linkBecomes _ _⟩,
    fun c news down => ?_, fun c news linking => ?_, fun up => (receive_up (f := fun s => s) up :), fun early => ?_, fun due => ?_,
    fun quiet => ?_, fun e expiry due => ⟨_, ?_, linkBecomes _ _⟩⟩
  · rewrite [exec, execHello, if_neg other]
    rfl
  · obtain ⟨f, is⟩ := exec_news news
    rw [is, receive_down down]
  · obtain ⟨f, is⟩ := exec_news news
    exact ⟨s.setLink .up, linkBecomes s .up, by rw [is, is, receive_raises linking]⟩
  · exact congrArg Host.Outcome.next (if_neg (Bool.eq_false_iff.1 (decide_eq_false (by omega))))
  · have silent {l : LinkState} (link : s.peer.link = l) (down : l ≠ .up) : s.peer.link ≠ .up := link ▸ down
    rewrite [sendTimer_due due]
    cases link : s.peer.link with
    | down =>
      rewrite [propose_silent (s := expired s) (silent link LinkState.noConfusion), expired, State.timerFrame, link]
      simp only [List.append_nil]
    | linking =>
      rewrite [propose_silent (s := expired s) (silent link LinkState.noConfusion), expired, State.timerFrame, link]
      simp only [List.append_nil]
    | up =>
      unfold expired State.timerFrame State.propose State.send
      cases s.peer.agreement <;> cases s.seq.startTime <;> simp [link]
  · refine congrArg Host.Outcome.next (if_neg fun due => ?_)
    obtain ⟨e, expiry, due⟩ := (lossDue_iff s).1 due
    have := quiet e expiry
    omega
  · exact congrArg Host.Outcome.next (if_pos ((lossDue_iff s).2 ⟨e, expiry, due⟩))

end Sys2Proof.Proofs.Linking
end

section
/-! PROOF. START_PROPOSE, START_ACCEPT, START_REJECT and ACCEPT_DEADLINE (O56). -/

namespace Sys2Proof.Proofs.Agreeing

open Sys2Proof Sys2Proof.Machine Sys2Proof.Proofs.Aborting Sys2Proof.Proofs.Ending Sys2Proof.Proofs.Amplifier
  Sys2Proof.Proofs.Linking

section Agreeing

variable {s : State} {u : AbsTime} {r : RejectReason}

/-! ### Proposals (Table 9-3) -/

theorem awaitsPeer_iff (s : State) : s.awaitsPeer = true ↔ s.seq.phase = .armed ∧ s.seq.mode = some .peer := by
  rw [State.awaitsPeer, Bool.and_eq_true, decide_eq_true_iff, decide_eq_true_iff]

theorem send_heard (up : s.peer.link = .up) (f : PeerFrame) : (Heard s).send f = Answered s f := if_pos up

theorem proposal_rejected (up : s.peer.link = .up) (answer : s.answer u = .reject r) :
    exec (.startPropose u) s = .next (Answered s (.startReject u r)) := by
  have answer : (Heard s).answer u = .reject r := answer
  rewrite [exec, execStartPropose, receive_up up, answer]
  exact congrArg _ (send_heard up _)

theorem proposal_again (up : s.peer.link = .up) (answer : s.answer u = .acceptAgain) :
    exec (.startPropose u) s = .next (Answered s (.startAccept u)) := by
  have answer : (Heard s).answer u = .acceptAgain := answer
  rewrite [exec, execStartPropose, receive_up up, answer]
  exact congrArg _ (send_heard up _)

theorem proposal_accepted (up : s.peer.link = .up) (answer : s.answer u = .accept) :
    exec (.startPropose u) s = .next ((Answered s (.startAccept u)).agree u) := by
  have answer : (Heard s).answer u = .accept := answer
  rewrite [exec, execStartPropose, receive_up up, answer]
  exact congrArg Host.Outcome.next (if_pos (c := ((Heard s).agree u).peer.link = .up) up)

theorem answer_notArmed (other : s.seq.phase ≠ .armed ∨ s.seq.mode ≠ some .peer) : s.answer u = .reject .notArmed := by
  refine if_neg fun awaits => ?_
  obtain ⟨armed, mode⟩ := (awaitsPeer_iff s).1 awaits
  exact other.elim (absurd armed) (absurd mode)

/-- The answer while a shot waits for its peer. -/
theorem answer_awaiting (armed : s.seq.phase = .armed) (mode : s.seq.mode = some .peer) : s.answer u
    = if s.peer.agreement = .agreed then if s.seq.startTime = some u then .acceptAgain else .reject .alreadyAgreed
      else if s.time.lock ≠ .locked then .reject .notLocked
      else if s.aheadOf u < 200000 then .reject .tooLate else .accept :=
  if_pos ((awaitsPeer_iff s).2 ⟨armed, mode⟩)

theorem proposalAnswered (up : s.peer.link = .up) : ProposalAnswered s u := by
  refine ⟨fun other => proposal_rejected up (answer_notArmed other), fun armed mode => ?_⟩
  have answer := answer_awaiting (u := u) armed mode
  refine ⟨fun agreed same => ?_, fun agreed other => ?_, fun open_ => ⟨fun unlocked => ?_, fun locked late => ?_,
    fun locked early => ?_⟩⟩
  · rewrite [if_pos agreed, if_pos same] at answer
    exact proposal_again up answer
  · rewrite [if_pos agreed, if_neg other] at answer
    exact proposal_rejected up answer
  · rewrite [if_neg open_, if_pos unlocked] at answer
    exact proposal_rejected up answer
  · rewrite [if_neg open_, if_neg (not_not.2 locked), if_pos late] at answer
    exact proposal_rejected up answer
  · rewrite [if_neg open_, if_neg (not_not.2 locked), if_neg (by omega)] at answer
    exact proposal_accepted up answer

/-! ### Answers to a proposal (R146) -/

/-- A refusal taken while PROPOSING. -/
def refused (s : State) (r : RejectReason) : State :=
  { s with peer := { s.peer with lastReject := some r, lossAt := some (s.now + 50000) } }

theorem reject_ignored (up : s.peer.link = .up) (other : s.peer.agreement ≠ .proposing) :
    exec (.startReject u r) s = .next (Heard s) := by
  rewrite [exec, execStartReject, receive_up up]
  exact congrArg Host.Outcome.next (if_neg other)

theorem reject_goesOn (up : s.peer.link = .up) (proposing : s.peer.agreement = .proposing)
    (goesOn : RejectReason.goesOn r = true) : exec (.startReject u r) s = .next (refused s r) := by
  rewrite [exec, execStartReject, receive_up up]
  exact congrArg Host.Outcome.next ((if_pos proposing).trans (if_pos goesOn))

theorem reject_ends (up : s.peer.link = .up) (proposing : s.peer.agreement = .proposing)
    (ends : RejectReason.goesOn r = false) :
    exec (.startReject u r) s = .next ((refused s r).softAbort .peerRefused) := by
  rewrite [exec, execStartReject, receive_up up]
  exact congrArg Host.Outcome.next ((if_pos proposing).trans (if_neg (Bool.eq_false_iff.1 ends)))

theorem accept_ignored (up : s.peer.link = .up) (other : s.peer.agreement ≠ .proposing ∨ s.seq.startTime ≠ some u) :
    exec (.startAccept u) s = .next (Heard s) := by
  rewrite [exec, execStartAccept, receive_up up]
  exact congrArg Host.Outcome.next (if_neg fun ⟨proposing, same⟩ => other.elim (absurd proposing) (absurd same))

theorem accept_agrees (up : s.peer.link = .up) (proposing : s.peer.agreement = .proposing)
    (same : s.seq.startTime = some u) : exec (.startAccept u) s = .next { s with peer := { s.peer with
      agreement := .agreed, lossAt := some (s.now + 50000) } } := by
  rewrite [exec, execStartAccept, receive_up up]
  exact congrArg Host.Outcome.next (if_pos ⟨proposing, same⟩)

theorem softAbort_inArmed (c : AbortCause) (armed : s.seq.phase = .armed) (visit : s.seq.visit = none) :
    AbortedInArmed s (s.softAbort c) c := by
  obtain ⟨aborted, -⟩ := abortArmed_enters c armed visit
  rewrite [softAbort_armed c armed]
  exact aborted

theorem deadlineDue_of (start : s.seq.startTime = some u) (armed : s.seq.phase = .armed)
    (proposing : s.peer.agreement = .proposing) (near : s.aheadOf u ≤ 100000) : s.deadlineDue = true := by
  rewrite [State.deadlineDue, start]
  simp only [armed, proposing, near, decide_true, Bool.and_self]

end Agreeing

set_option Elab.async false in
/-- Settles O56. -/
theorem startsAreAgreed : Obligations.StartsAreAgreed := by
  intro u s
  refine ⟨fun up => ⟨proposalAnswered up, accept_ignored up, accept_agrees up, fun r => reject_ignored up,
    fun r proposing reason => ?_, fun r proposing reason armed visit => ⟨_, ?_, softAbort_inArmed (s := refused s r) _ armed visit⟩⟩,
    fun quiet => congrArg Host.Outcome.next (if_neg (Bool.eq_false_iff.1 quiet)),
    fun start armed visit proposing near => ⟨_, ?_, softAbort_inArmed _ armed visit⟩⟩
  · refine reject_goesOn up proposing ?_
    rcases reason with is | is <;> rw [is, RejectReason.goesOn]
  · refine reject_ends up proposing ?_
    rcases reason with is | is <;> rw [is, RejectReason.goesOn]
  · exact congrArg Host.Outcome.next (if_pos (deadlineDue_of start armed proposing near))

end Sys2Proof.Proofs.Agreeing
end

section
/-! PROOF. Edges of teleprotection taken from the source and applied (O57, in part). -/

namespace Sys2Proof.Proofs.Edges

open Sys2Proof Sys2Proof.Machine Sys2Proof.Proofs.Answering Sys2Proof.Proofs.Arming Sys2Proof.Proofs.Consumers
  Sys2Proof.Proofs.Deliveries Sys2Proof.Proofs.Ledger

/-! ### The list under a delivery -/

/-- The TP_EDGE group of a list, which no condition's action touches. -/
theorem evaluate_held (c : CondState) (i : Fin 4) (signals : Mask) (t now b : Nat) (deferring : Bool) (owner : Nat)
    (l : TimedList) : (c.evaluate i signals t now b deferring owner l).2.held .tpEdge = l.held .tpEdge := by
  have placed (due : Nat) : (l.place due (.condition i) (some owner)).held .tpEdge = l.held .tpEdge := by
    unfold TimedList.place
    split
    · exact insertAction_filter_length _ _ _
    · rfl
  have kept : (l.keep fun a => decide (a.work ≠ .condition i)).held .tpEdge = l.held .tpEdge := by
    unfold TimedList.held TimedList.keep
    rewrite [List.filter_filter]
    refine congrArg List.length (List.filter_congr fun a _ => ?_)
    by_cases group : a.work.group = .tpEdge
    · have other : a.work ≠ .condition i := fun is => by
        rewrite [is] at group
        cases group
      rw [decide_eq_true other, Bool.and_true]
    · rw [decide_eq_false group, Bool.false_and]
  unfold CondState.evaluate
  dsimp only
  split
  · split
    · rfl
    · exact placed _
  · split
    · exact kept
    · rfl

theorem listReevaluated_held (s : State) (v : Visit) (signals : Mask) (t : Nat) (l : TimedList) :
    (ListReevaluated s v signals t l).held .tpEdge = l.held .tpEdge := by
  unfold ListReevaluated
  induction v.conditions.zipIdx generalizing l with
  | nil => rfl
  | cons x rest ih => exact (ih _).trans (evaluate_held _ _ _ _ _ _ _ _ l)

theorem deliver_held (s : State) (n : Nat) (active : Bool) (t : Nat) :
    (s.deliver n active t).actions.held .tpEdge = s.actions.held .tpEdge := by
  obtain ⟨ra, lg, dr, po, frame, -⟩ := deliver_frame s n active t
  rewrite [frame]
  show (deliveredActions s t).held .tpEdge = _
  unfold deliveredActions
  split
  · rfl
  · exact listReevaluated_held _ _ _ _ _

/-! ### An edge applied (R153) -/

section Apply

variable {s u : State} {level : Bool} {t : Nat}

/-- The teleprotection path with a level applied. -/
def appliedTp (s : State) (level : Bool) : Teleprotection := { s.tp with applied := level, receive := ReceiveFor s level }

/-- What an edge applied to the state leaves. -/
structure EdgeApplied (s : State) (level : Bool) (t : Nat) (u : State) : Prop where
  frame : u = { s with
    seq := u.seq, synth := u.synth, outputs := u.outputs, assess := u.assess, log := u.log, drains := u.drains
    actions := u.actions, tp := appliedTp s level, ports := u.ports }
  phase : u.seq.phase = s.seq.phase
  record : ∀ b, u.makeRecord (u.shotTime u.now) b = s.makeRecord (s.shotTime s.now) b
  levels : ∀ x, ReceiveFor u x = ReceiveFor s x
  held : u.actions.held .tpEdge = s.actions.held .tpEdge
  outputs : OutputsFollowReceive s u
  changed : u.tp.receive ≠ s.tp.receive → ConsumersTake s u s.actions 15 u.tp.receive t
  same : u.tp.receive = s.tp.receive → NothingDelivered s u ∧ u.actions = s.actions

theorem EdgeApplied.tp (h : EdgeApplied s level t u) : u.tp = appliedTp s level := congrArg State.tp h.frame

theorem EdgeApplied.peer (h : EdgeApplied s level t u) : u.peer = s.peer :=
  (congrArg State.peer h.frame).trans rfl

theorem receiveLevel_eq (s : State) : s.receiveLevel = ReceiveFor s s.tp.applied := by
  unfold State.receiveLevel ReceiveFor
  cases s.seq.phase with
  | running => cases s.seq.visit <;> rfl
  | idle => rfl
  | armed => rfl
  | rampingDown => rfl
  | closing => rfl

theorem receiveFor_congr {s u : State} (phase : u.seq.phase = s.seq.phase)
    (records : u.seq.visit.map (·.record) = s.seq.visit.map (·.record)) (x : Bool) : ReceiveFor u x = ReceiveFor s x := by
  unfold ReceiveFor
  rewrite [phase]
  cases own : s.seq.visit with
  | none =>
    rewrite [own] at records
    rw [Option.map_eq_none_iff.1 records]
  | some v =>
    rewrite [own] at records
    obtain ⟨w, visit, same⟩ := Option.map_eq_some_iff.1 records
    rewrite [visit]
    cases s.seq.phase with
    | running => exact congrArg (fun r : StateRecord => x && !r.tpBlocked) same
    | idle => rfl
    | armed => rfl
    | rampingDown => rfl
    | closing => rfl

theorem applyEdge_same (same : ReceiveFor s level = s.tp.receive) (t : Nat) :
    s.applyEdge level t = { s with tp := appliedTp s level } := by
  have stands : State.receiveLevel { s with tp := { s.tp with applied := level } } = s.tp.receive :=
    (receiveLevel_eq _).trans same
  rw [State.applyEdge, State.refreshReceive, if_pos stands, appliedTp, same]

/-- The state in which a delivery of receive finds its consumers. -/
def received (s : State) (level : Bool) : State := { s with tp := appliedTp s level }

theorem applyEdge_other (other : ReceiveFor s level ≠ s.tp.receive) (t : Nat) : s.applyEdge level t
    = ((received s level).deliver 15 (ReceiveFor s level) t).refreshOutputs .teleprotection
        (Teleprotection.outputLevel (appliedTp s level)) := by
  have level_ : State.receiveLevel { s with tp := { s.tp with applied := level } } = ReceiveFor s level := receiveLevel_eq _
  have changes : ¬ State.receiveLevel { s with tp := { s.tp with applied := level } } = s.tp.receive := level_ ▸ other
  obtain ⟨_, _, _, _, frame, -⟩ := deliver_frame (received s level) 15 (ReceiveFor s level) t
  have tp : ((received s level).deliver 15 (ReceiveFor s level) t).tp = appliedTp s level := by rw [frame]; rfl
  rewrite [State.applyEdge, State.refreshReceive, if_neg changes, level_]
  dsimp only
  exact congrArg (fun p => State.refreshOutputs _ .teleprotection (Teleprotection.outputLevel p)) tp

theorem ruled_outputLevel (o : Output) (tp : Teleprotection) : o.ruled tp.outputLevel
    = if o.role = .tpReceive then { role := .tpReceive, level := tp.receive } else o := by
  obtain ⟨role, level⟩ := o
  cases role <;> rfl

theorem refreshOutputs_output (s : State) (src : OutputSource) (rule : OutputRole → Option Bool) (n : Fin 4) :
    (s.refreshOutputs src rule).outputs[n]'n.isLt = (s.outputs[n]'n.isLt).ruled rule :=
  refreshOutputs_outputs s src rule n.val n.isLt

theorem keepsConsumers_refreshOutputs (m : State) (src : OutputSource) (rule : OutputRole → Option Bool) :
    KeepsConsumers m (m.refreshOutputs src rule) := by
  have log := refreshOutputs_atMost (src := src) (rule := rule) m
  obtain ⟨ou, lg, dr, po, frame⟩ := refreshOutputs_frame (src := src) (rule := rule) m
  refine ⟨by rw [frame], by rw [frame], by rw [frame], ?_, by rw [frame], fun r mem => log.mem mem⟩
  rewrite [frame]
  exact signals_congr rfl rfl rfl

theorem applyEdge_atMost (s : State) (level : Bool) (t : Nat) : AtMost 5 s.log (s.applyEdge level t).log := by
  by_cases same : ReceiveFor s level = s.tp.receive
  · rewrite [applyEdge_same same]
    exact (AtMost.refl _).mono (Nat.zero_le _)
  · rewrite [applyEdge_other same]
    exact (deliver_atMost (received s level) _ _ _).trans (refreshOutputs_atMost _)

theorem outputs_stand (outputs : u.outputs = s.outputs) (receive : u.tp.receive = s.tp.receive) :
    OutputsFollowReceive s u := fun n => by
  rewrite [outputs, if_neg fun h => h.2 receive]
  exact ⟨rfl, fun changes => absurd rfl changes⟩

theorem applyEdge_applied (s : State) (level : Bool) (t : Nat) : EdgeApplied s level t (s.applyEdge level t) := by
  by_cases same : ReceiveFor s level = s.tp.receive
  · rewrite [applyEdge_same same]
    exact ⟨rfl, rfl, fun _ => rfl, fun _ => rfl, rfl, outputs_stand rfl same, fun changes => absurd same changes,
      fun _ => ⟨⟨rfl, rfl, rfl⟩, rfl⟩⟩
  · rewrite [applyEdge_other same]
    obtain ⟨ra, lg, dr, po, delivers, -⟩ := deliver_frame (received s level) 15 (ReceiveFor s level) t
    have few := deliver_atMost (received s level) 15 (ReceiveFor s level) t
    have held := deliver_held (received s level) 15 (ReceiveFor s level) t
    have keeps := keepsConsumers_refreshOutputs ((received s level).deliver 15 (ReceiveFor s level) t) .teleprotection
      (Teleprotection.outputLevel (appliedTp s level))
    have take := consumersTake_of (s := s) (d := received s level) ⟨rfl, rfl, rfl, rfl⟩ keeps fun room => Nat.le_trans (by omega) room
    have outputs := refreshOutputs_output ((received s level).deliver 15 (ReceiveFor s level) t) .teleprotection
      (Teleprotection.outputLevel (appliedTp s level))
    have records {n : Fin 4} {x : Bool} := refreshOutputs_records (src := .teleprotection)
      (rule := Teleprotection.outputLevel (appliedTp s level)) (s := (received s level).deliver 15 (ReceiveFor s level) t)
      (n := n) (level := x)
    obtain ⟨ou, lg', dr', po', refreshes⟩ := refreshOutputs_frame (src := .teleprotection)
      (rule := Teleprotection.outputLevel (appliedTp s level)) ((received s level).deliver 15 (ReceiveFor s level) t)
    generalize ((received s level).deliver 15 (ReceiveFor s level) t).refreshOutputs .teleprotection
      (Teleprotection.outputLevel (appliedTp s level)) = u at outputs records refreshes keeps take ⊢
    generalize (received s level).deliver 15 (ReceiveFor s level) t = d
      at delivers few held keeps outputs records refreshes ⊢
    have before (n : Fin 4) : d.outputs[n]'n.isLt = s.outputs[n]'n.isLt := by rw [delivers]; rfl
    have tp : u.tp = appliedTp s level := by rw [refreshes, delivers]; rfl
    have record (b : RecordBody) : d.makeRecord (d.shotTime d.now) b = s.makeRecord (s.shotTime s.now) b := by
      rewrite [delivers]
      rfl
    have after (n : Fin 4) : u.outputs[n]'n.isLt = if (s.outputs[n]'n.isLt).role = .tpReceive
        then { role := .tpReceive, level := ReceiveFor s level } else s.outputs[n]'n.isLt := by
      rewrite [outputs n, before n, ruled_outputLevel]
      rfl
    refine ⟨?_, ?_, fun b => ?_, fun x => ?_, ?_, fun n => ⟨?_, fun changes active room => ?_⟩, fun _ => ?_,
      fun same' => absurd (same'.symm.trans (congrArg (·.receive) tp)).symm same⟩
    · rewrite [refreshes, delivers]
      rfl
    · rewrite [refreshes, delivers]
      rfl
    · rewrite [← record b, refreshes]
      rfl
    · refine receiveFor_congr ?_ ?_ x
      · rewrite [refreshes, delivers]
        rfl
      · rewrite [refreshes, delivers]
        show (deliveredVisit (received s level) t).map (·.record) = _
        unfold deliveredVisit
        rewrite [Option.map_map]
        rfl
    · rewrite [refreshes]
      exact held
    · rewrite [after n, tp]
      exact if_congr (and_iff_left same).symm rfl rfl
    · have role : (s.outputs[n]'n.isLt).role = .tpReceive := by
        by_contra other
        rewrite [after n, if_neg other] at changes
        exact changes rfl
      rewrite [after n, if_pos role] at changes ⊢
      refine record _ ▸ records ?_ ?_ ?_ ?_
      · rewrite [before, role]
        rfl
      · rewrite [before]
        exact changes
      · exact (shotActive_iff d).2 (by rw [delivers]; exact active)
      · exact few.room (Nat.le_trans (by omega) room)
    · rewrite [tp]
      exact take

end Apply

/-! ### TP_EVENT (R152) -/

section TpEvent

variable {s u : State} {level : Bool} {t : Nat}

theorem offerTpEvent_frame (s : State) (k : TpEventKind) : ∃ lg dr po,
    s.offerTpEvent k = { s with log := lg, drains := dr, ports := po } ∧ AtMost 1 s.log lg
    ∧ (s.seq.phase ≠ .idle → 1 ≤ s.log.unreserved → s.makeRecord (s.shotTime s.now) (.tpEvent k) ∈ lg.records) := by
  unfold State.offerTpEvent
  by_cases active : s.shotActive = true
  · obtain ⟨dr, po, frame⟩ := offer_frame s (s.shotTime s.now) (.tpEvent k)
    rewrite [if_pos active]
    exact ⟨_, dr, po, frame, AtMost.offered _ _, fun _ room => offered_mem room _⟩
  · rewrite [if_neg active]
    exact ⟨s.log, s.drains, s.ports, rfl, (AtMost.refl _).mono (Nat.zero_le _),
      fun busy => absurd ((shotActive_iff s).2 busy) active⟩

/-- An edge applied, with records offered after it. -/
theorem EdgeApplied.logged (h : EdgeApplied s level t u) {lg : ReportLog} {dr : PerPort Drain}
    {po : PerPort PortInterface} (more : ∀ r ∈ u.log.records, r ∈ lg.records) :
    EdgeApplied s level t { u with log := lg, drains := dr, ports := po } where
  frame := congrArg (fun w : State => { w with log := lg, drains := dr, ports := po }) h.frame
  phase := h.phase
  record := h.record
  levels := h.levels
  held := h.held
  outputs := fun n => ⟨(h.outputs n).1, fun changes active room => more _ ((h.outputs n).2 changes active room)⟩
  changed := fun changes => by
    obtain ⟨visit, start, ⟨stops, stands⟩, captures⟩ := h.changed changes
    exact ⟨visit, start, ⟨fun v r k stopped isK => ⟨(stops v r k stopped isK).1, fun room => more _ ((stops v r k stopped isK).2 room)⟩, stands⟩, captures⟩
  same := h.same

/-- An edge applied and its TP_EVENT. -/
theorem applyEdge_logged (s : State) (level : Bool) (t : Nat) (k : TpEventKind) :
    EdgeApplied s level t ((s.applyEdge level t).offerTpEvent k)
    ∧ (s.seq.phase ≠ .idle → 6 ≤ s.log.unreserved →
        s.makeRecord (s.shotTime s.now) (.tpEvent k) ∈ ((s.applyEdge level t).offerTpEvent k).log.records) := by
  have applied := applyEdge_applied s level t
  obtain ⟨lg, dr, po, frame, few, logged⟩ := offerTpEvent_frame (s.applyEdge level t) k
  rewrite [frame]
  refine ⟨applied.logged fun _ => few.mem, fun active room => ?_⟩
  rewrite [applied.phase, applied.record] at logged
  exact logged active ((applyEdge_atMost s level t).room room)

end TpEvent

/-! ### An edge taken from the source (R152) -/

section Take

variable {s : State} {level : Bool} {u : AbsTime}

/-- The state with the level last received stored. -/
def heardEdge (s : State) (level : Bool) : State := { s with tp := { s.tp with lastReceived := level } }

/-- How far an edge lies ahead, its delay included. -/
def edgeAhead (s : State) (u : AbsTime) : Int := s.aheadOf (u + s.tp.delay * 100)

theorem takeEdge_late (late : edgeAhead s u ≤ 0) :
    s.takeEdge level u = ((heardEdge s level).applyEdge level s.now).offerTpEvent .late := if_pos late

theorem takeEdge_placed (ahead : 0 < edgeAhead s u) (free : s.actions.held .tpEdge < 13) :
    s.takeEdge level u = { heardEdge s level with
      actions := s.actions.place (s.now + (edgeAhead s u).toNat) (.tpEdge level) none } :=
  (if_neg (not_le.2 ahead)).trans (if_pos (decide_eq_true free))

theorem takeEdge_dropped (ahead : 0 < edgeAhead s u) (full : 13 ≤ s.actions.held .tpEdge) :
    s.takeEdge level u = State.offerTpEvent
      { s with tp := { s.tp with lastReceived := level, resync := true } } .dropped :=
  (if_neg (not_le.2 ahead)).trans (if_neg (Bool.eq_false_iff.1 (decide_eq_false (not_lt.2 full))))

theorem place_mem {l : TimedList} (free : l.held .tpEdge < 13) (due : Nat) (level : Bool) :
    ∃ e ∈ (l.place due (.tpEdge level) none).entries, e.due = due ∧ e.work = .tpEdge level ∧ e.owner = none := by
  rewrite [TimedList.place_entries l due (.tpEdge level) none (decide_eq_true free)]
  exact ⟨_, (insertAction_mem _ _ _).2 (.inl rfl), rfl, rfl, rfl⟩

set_option Elab.async false in
theorem takeEdge_taken (s : State) (level : Bool) (u : AbsTime) :
    EdgeTaken s (s.takeEdge level u) level (edgeAhead s u) := by
  refine ⟨⟨fun late => ?_, fun ahead free => ?_, fun ahead full => ?_⟩, fun late => ?_, fun ahead free => ?_,
    fun ahead full => ?_⟩
  · obtain ⟨applied, logged⟩ := applyEdge_logged (heardEdge s level) level s.now .late
    rewrite [takeEdge_late late]
    exact ⟨applied.tp, applied.outputs, fun active room => logged active (Nat.le_trans (by omega) room)⟩
  · rewrite [takeEdge_placed ahead free]
    exact ⟨rfl, place_mem free _ level⟩
  · obtain ⟨lg, dr, po, frame, -, logged⟩ := offerTpEvent_frame
      { s with tp := { s.tp with lastReceived := level, resync := true } } .dropped
    rewrite [takeEdge_dropped ahead full, frame]
    exact ⟨rfl, fun active room => logged active (Nat.le_trans (by omega) room)⟩
  · obtain ⟨applied, -⟩ := applyEdge_logged (heardEdge s level) level s.now .late
    rewrite [takeEdge_late late]
    exact ⟨by rw [applied.tp, applied.peer]; exact applied.frame, applied.changed, applied.same⟩
  · rewrite [takeEdge_placed ahead free]
    rfl
  · obtain ⟨lg, dr, po, frame, -⟩ := offerTpEvent_frame
      { s with tp := { s.tp with lastReceived := level, resync := true } } .dropped
    rw [takeEdge_dropped ahead full, frame]

end Take

end Sys2Proof.Proofs.Edges
end

section
/-! PROOF. EVENT, STATE, ABORT and END frames, and TP_EDGE_DUE (O57). -/

namespace Sys2Proof.Proofs.Remote

open Sys2Proof Sys2Proof.Machine Sys2Proof.Proofs.Answering Sys2Proof.Proofs.Arming Sys2Proof.Proofs.Aborting
  Sys2Proof.Proofs.Amplifier Sys2Proof.Proofs.Consumers Sys2Proof.Proofs.Ledger Sys2Proof.Proofs.Linking Sys2Proof.Proofs.Agreeing
  Sys2Proof.Proofs.Edges Sys2Proof.Proofs.Records Sys2Proof.Proofs.DueActions

/-! ### A pending resync cleared (R154) -/

/-- The state with no resync pending. -/
def settled (s : State) : State := { s with tp := { s.tp with resync := false } }

section Settled

variable (s : State) (n t : Nat) (active : Bool) (src : OutputSource) (rule : OutputRole → Option Bool)

theorem offer_settled (b : RecordBody) : (settled s).offer t b = settled (s.offer t b) := by
  by_cases room : 1 ≤ s.log.unreserved
  · rewrite [State.offer, State.offer, if_pos room, if_pos (c := 1 ≤ (settled s).log.unreserved) room]
    rfl
  · rewrite [State.offer, State.offer, if_neg room, if_neg (c := 1 ≤ (settled s).log.unreserved) room]
    rfl

theorem signals_settled : (settled s).signals = s.signals := by
  have signal (k : Nat) : (settled s).signal k = s.signal k := rfl
  unfold State.signals
  simp only [signal]

theorem evaluated_settled : evaluated (settled s) n t = settled (evaluated s n t) := by
  unfold evaluated deliveredVisit deliveredStart deliveredActions
  rewrite [signals_settled]
  rfl

theorem freezeRamp_settled : (settled s).freezeRamp n t = settled (s.freezeRamp n t) := by
  by_cases stops : ∃ v r, StopsTheRamp s n true v r
  · obtain ⟨v, r, stops⟩ := stops
    rewrite [freezeRamp_stops (s := settled s) stops, freezeRamp_stops stops]
    exact offer_settled { s with synth := { s.synth with ramp := { s.synth.ramp with state := .frozen } } } _ _
  · rw [freezeRamp_stands fun v r h => stops ⟨v, r, h⟩, freezeRamp_stands (s := settled s) fun v r h => stops ⟨v, r, h⟩]

theorem deliver_settled : (settled s).deliver n active t = settled (s.deliver n active t) := by
  unfold State.deliver
  dsimp only
  rewrite [evaluated_eq, evaluated_eq, evaluated_settled]
  cases active with
  | false => rfl
  | true =>
    rewrite [if_pos rfl, if_pos rfl, freezeRamp_settled]
    rfl

theorem setOutput_silent {s : State} {k : Fin 4} {level : Bool} {src : OutputSource}
    (changes : (s.outputs[k]'k.isLt).level ≠ level) (idle : s.shotActive = false) : s.setOutput k level src
      = { s with outputs := s.outputs.set k { s.outputs[k]'k.isLt with level := level } k.isLt } :=
  (if_neg changes).trans (if_neg (Bool.eq_false_iff.1 idle))

theorem setOutput_settled (k : Fin 4) : (settled s).setOutput k active src = settled (s.setOutput k active src) := by
  by_cases same : (s.outputs[k]'k.isLt).level = active
  · exact (if_pos (c := ((settled s).outputs[k]'k.isLt).level = active) same).trans (congrArg settled (if_pos same).symm)
  · cases shot : s.shotActive with
    | true =>
      rewrite [setOutput_changes same shot, setOutput_changes (s := settled s) same shot]
      exact offer_settled { s with outputs := s.outputs.set k { s.outputs[k]'k.isLt with level := active } k.isLt } _ _
    | false =>
      rewrite [setOutput_silent same shot, setOutput_silent (s := settled s) same shot]
      rfl

theorem refreshOne_settled (k : Fin 4) : (settled s).refreshOne src rule k = settled (s.refreshOne src rule k) := by
  unfold State.refreshOne
  split
  next level ruled =>
    have ruled : rule (s.outputs[k]'k.isLt).role = some level := ruled
    rewrite [ruled]
    exact setOutput_settled s level src k
  next ruled =>
    have ruled : rule (s.outputs[k]'k.isLt).role = none := ruled
    rw [ruled]

theorem refreshOutputs_settled : (settled s).refreshOutputs src rule = settled (s.refreshOutputs src rule) := by
  simp only [refreshOutputs_eq, refreshOne_settled]

theorem applyEdge_settled : (settled s).applyEdge active t = settled (s.applyEdge active t) := by
  by_cases same : ReceiveFor s active = s.tp.receive
  · rewrite [applyEdge_same same, applyEdge_same (s := settled s) same]
    rfl
  · have rule : Teleprotection.outputLevel (appliedTp (settled s) active)
        = Teleprotection.outputLevel (appliedTp s active) := by
      funext role
      cases role <;> rfl
    rewrite [applyEdge_other same, applyEdge_other (s := settled s) same, rule, ← refreshOutputs_settled, ← deliver_settled]
    rfl

end Settled

/-! ### TP_EDGE_DUE (R153, R154) -/

section EdgeDue

variable {s t u m : State} {a : TimedAction} {level : Bool}

theorem resyncCheck_quiet (quiet : s.tp.resync = false ∨ s.actions.held .tpEdge ≠ 0) : s.resyncCheck = s := by
  refine if_neg fun due => ?_
  obtain ⟨resync, last⟩ := Bool.and_eq_true_iff.1 due
  rcases quiet with none | more
  · exact Bool.false_ne_true (none.symm.trans resync)
  · exact more (of_decide_eq_true last)

theorem resyncCheck_due (resync : s.tp.resync = true) (last : s.actions.held .tpEdge = 0) : s.resyncCheck
    = if s.tp.applied = s.tp.lastReceived then settled s
      else ((settled s).applyEdge s.tp.lastReceived s.now).offerTpEvent .resync :=
  if_pos (Bool.and_eq_true_iff.2 ⟨resync, decide_eq_true last⟩)

theorem resyncCheck_same (resync : s.tp.resync = true) (last : s.actions.held .tpEdge = 0)
    (same : s.tp.applied = s.tp.lastReceived) : s.resyncCheck = settled s :=
  (resyncCheck_due resync last).trans (if_pos same)

/-- A resync that changes the applied level. -/
theorem resyncCheck_applies (resync : s.tp.resync = true) (last : s.actions.held .tpEdge = 0)
    (other : s.tp.applied ≠ s.tp.lastReceived) :
    EdgeApplied (settled s) s.tp.lastReceived s.now s.resyncCheck
    ∧ (s.seq.phase ≠ .idle → 6 ≤ s.log.unreserved →
        s.makeRecord (s.shotTime s.now) (.tpEvent .resync) ∈ s.resyncCheck.log.records) := by
  rewrite [resyncCheck_due resync last, if_neg other]
  exact applyEdge_logged (settled s) s.tp.lastReceived s.now .resync

/-- What an edge that falls due may change. -/
def EdgeFrame (s t : State) : Prop :=
  t = { s with
    seq := t.seq, synth := t.synth, outputs := t.outputs, assess := t.assess, log := t.log
    drains := t.drains, actions := t.actions, tp := t.tp, ports := t.ports }

theorem EdgeFrame.trans (h : EdgeFrame s u) (k : EdgeFrame u t) : EdgeFrame s t :=
  Eq.trans k (congrArg (fun w : State => { w with
    seq := t.seq, synth := t.synth, outputs := t.outputs, assess := t.assess, log := t.log
    drains := t.drains, actions := t.actions, tp := t.tp, ports := t.ports }) h)

theorem EdgeFrame.time (h : EdgeFrame s t) : t.time = s.time := (congrArg State.time h).trans rfl

theorem EdgeFrame.time_now (h : EdgeFrame s t) : t.now = s.now := congrArg TimeBase.localTime h.time

/-- The TP_RECEIVE outputs stand at the receive level, and the others as they were. -/
def ReceiveOutputs (s t : State) : Prop :=
  ∀ n : Fin 4, (t.outputs[n]'n.isLt).role = (s.outputs[n]'n.isLt).role
    ∧ ((s.outputs[n]'n.isLt).role = .tpReceive → (t.outputs[n]'n.isLt).level = t.tp.receive)
    ∧ ((s.outputs[n]'n.isLt).role ≠ .tpReceive → t.outputs[n]'n.isLt = s.outputs[n]'n.isLt)

theorem receiveOutputs_of (follows : OutputsFollowReceive s t)
    (stood : ∀ n : Fin 4, (s.outputs[n]'n.isLt).role = .tpReceive → (s.outputs[n]'n.isLt).level = s.tp.receive) :
    ReceiveOutputs s t := fun n => by
  obtain ⟨output, -⟩ := follows n
  have output : t.outputs[n]'n.isLt = if (s.outputs[n]'n.isLt).role = .tpReceive ∧ t.tp.receive ≠ s.tp.receive
      then { role := .tpReceive, level := t.tp.receive } else s.outputs[n]'n.isLt := output
  by_cases role : (s.outputs[n]'n.isLt).role = .tpReceive
  · by_cases same : t.tp.receive = s.tp.receive
    · rewrite [if_neg fun h => h.2 same] at output
      rewrite [output, same]
      exact ⟨rfl, stood n, fun _ => rfl⟩
    · rewrite [if_pos ⟨role, same⟩] at output
      rewrite [output]
      exact ⟨role.symm, fun _ => rfl, absurd role⟩
  · rewrite [if_neg fun h => role h.1] at output
    rewrite [output]
    exact ⟨rfl, fun h => absurd h role, fun _ => rfl⟩

theorem ReceiveOutputs.trans (h : ReceiveOutputs s u) (k : ReceiveOutputs u t) : ReceiveOutputs s t := fun n => by
  obtain ⟨role, -, other⟩ := h n
  obtain ⟨role', level', other'⟩ := k n
  rewrite [role] at role' level' other'
  exact ⟨role', level', fun ne => (other' ne).trans (other ne)⟩

/-- The state without the action that falls due. -/
def without (s : State) (a : TimedAction) : State :=
  { s with actions := { s.actions with entries := s.actions.entries.erase a } }

theorem without_held (due : s.dueAction = some a) (work : a.work = .tpEdge level) :
    (without s a).actions.held .tpEdge + 1 = s.actions.held .tpEdge := by
  have split := ((List.perm_cons_erase (List.mem_of_find?_eq_some due)).filter
    fun b => decide (b.work.group = .tpEdge)).length_eq
  rewrite [List.filter_cons_of_pos (by rw [work]; rfl)] at split
  exact split.symm

theorem tpEdgeDue_own (due : s.dueAction = some a) (work : a.work = .tpEdge level) :
    exec .tpEdgeDue s = .next ((without s a).applyEdge level a.due).resyncCheck := by
  have drop := dropDue_erases due
  obtain ⟨at_, insertion, w, owner⟩ := a
  obtain rfl : w = .tpEdge level := work
  rewrite [exec, execTpEdgeDue, due]
  dsimp only
  rewrite [drop]
  rfl

theorem tpEdgeDue_other (other : ∀ a, s.dueAction = some a → a.work.group ≠ .tpEdge) : exec .tpEdgeDue s = .next s := by
  rewrite [exec, execTpEdgeDue]
  split
  next due => exact absurd rfl (other _ due)
  next => rfl

/-- The last edge, with a resync pending: the state in which the resync is made. -/
theorem tpEdgeDue_settled (due : s.dueAction = some a) (work : a.work = .tpEdge level) :
    exec .tpEdgeDue (settled s) = .next (settled ((without s a).applyEdge level a.due)) := by
  have due : (settled s).dueAction = some a := due
  rewrite [tpEdgeDue_own due work]
  have same : (without (settled s) a).applyEdge level a.due = settled ((without s a).applyEdge level a.due) :=
    applyEdge_settled (without s a) a.due level
  rw [same, resyncCheck_quiet (.inl rfl)]

set_option Elab.async false in
theorem edgeFallsDue (s : State) : EdgeFallsDue s := by
  refine ⟨tpEdgeDue_other, fun a level due work => ⟨_, tpEdgeDue_own due work, ?_⟩⟩
  have applied := applyEdge_applied (without s a) level a.due
  have left := without_held due work
  have settles := tpEdgeDue_settled due work
  have few := applyEdge_atMost (without s a) level a.due
  generalize (without s a).applyEdge level a.due = u at applied settles few ⊢
  have first : EdgeFrame s u := by
    rewrite [EdgeFrame, applied.tp]
    exact applied.frame.trans rfl
  have held : u.actions.held .tpEdge + 1 = s.actions.held .tpEdge := by rw [applied.held]; exact left
  have clears : EdgeFrame u (settled u) := rfl
  by_cases last : s.tp.resync = true ∧ s.actions.held .tpEdge = 1
  · obtain ⟨resync, one⟩ := last
    have quiet : ¬ (s.tp.resync = false ∨ 1 < s.actions.held .tpEdge) := by
      rewrite [resync, one]
      decide
    have pending : u.tp.resync = true := by rw [applied.tp]; exact resync
    have none : u.actions.held .tpEdge = 0 := by omega
    have own : u.tp.applied = level := by rw [applied.tp]; rfl
    have newest : u.tp.lastReceived = s.tp.lastReceived := by rw [applied.tp]; rfl
    by_cases same : u.tp.applied = u.tp.lastReceived
    · rewrite [resyncCheck_same pending none same]
      rewrite [own, newest] at same
      subst same
      refine ⟨first.trans clears, applied.phase, held, fun h => absurd h quiet, receiveOutputs_of applied.outputs,
        fun _ _ => ⟨congrArg (fun p : Teleprotection => { p with resync := false }) applied.tp, fun ne => absurd rfl ne,
          settled u, settles, fun _ => rfl, fun ne => absurd rfl ne⟩⟩
    · obtain ⟨again, logged⟩ := resyncCheck_applies pending none same
      rewrite [own, newest] at same
      rewrite [newest, first.time_now] at again
      generalize u.resyncCheck = t at again logged ⊢
      have step : EdgeFrame (settled u) t := by
        rewrite [EdgeFrame, again.tp]
        exact again.frame
      have receive : ReceiveFor (settled u) s.tp.lastReceived = ReceiveFor s s.tp.lastReceived := applied.levels _
      rewrite [applied.phase, applied.record] at logged
      refine ⟨first.trans (clears.trans step), again.phase.trans applied.phase, ?_, fun h => absurd h quiet,
        fun stood => ?_, fun _ _ => ⟨?_, fun _ active room => logged active (few.room (Nat.le_trans (by omega) room)),
          settled u, settles, fun same' => absurd same' same, fun _ => ⟨again.outputs, again.changed, again.same⟩⟩⟩
      · rewrite [again.held]
        exact held
      · have before := receiveOutputs_of (s := s) applied.outputs stood
        refine before.trans (receiveOutputs_of (s := settled u) again.outputs fun n role => ?_)
        obtain ⟨kept, level, -⟩ := before n
        exact level (kept.symm.trans role)
      · rewrite [again.tp, appliedTp, receive]
        exact congrArg (fun p : Teleprotection => { p with
          applied := s.tp.lastReceived, receive := ReceiveFor s s.tp.lastReceived, resync := false }) applied.tp
  · have more : s.tp.resync = false ∨ u.actions.held .tpEdge ≠ 0 := by
      rcases Bool.eq_false_or_eq_true s.tp.resync with resync | clear
      · exact .inr fun none => last ⟨resync, by omega⟩
      · exact .inl clear
    have quiet : u.tp.resync = false ∨ u.actions.held .tpEdge ≠ 0 := by rw [applied.tp]; exact more
    rewrite [resyncCheck_quiet quiet]
    exact ⟨first, applied.phase, held, fun _ => ⟨applied.tp, applied.outputs, applied.changed, applied.same⟩,
      receiveOutputs_of applied.outputs, fun resync one => absurd ⟨resync, one⟩ last⟩

end EdgeDue

end Sys2Proof.Proofs.Remote
end

section
/-! PROOF. EVENT, STATE, ABORT and END frames (O57). -/

namespace Sys2Proof.Proofs.FarEnd

open Sys2Proof Sys2Proof.Machine Sys2Proof.Proofs.Answering Sys2Proof.Proofs.Arming Sys2Proof.Proofs.Aborting
  Sys2Proof.Proofs.Amplifier Sys2Proof.Proofs.Linking Sys2Proof.Proofs.Agreeing Sys2Proof.Proofs.Edges Sys2Proof.Proofs.Remote

variable {s : State}

/-! ### The shot scale (R110, R148, R150) -/

theorem shotTimeOfAbs_some {f : Nat} {b : AbsTime} (entry : s.seq.firstEntryAt = some f) (start : s.seq.startTime = some b)
    (u : AbsTime) : s.shotTimeOfAbs u = if (aheadBy u b).toNat < 4294967296 then (aheadBy u b).toNat
      else (Config.freeShotTime s.freeUsed).toNat := by
  rw [State.shotTimeOfAbs, entry, start]

theorem shotTimeOfAbs_none (none : s.seq.firstEntryAt = none) (u : AbsTime) : s.shotTimeOfAbs u = 0 := by
  rw [State.shotTimeOfAbs, none]

theorem remoteTimesOnTheShotScale (s : State) : RemoteTimesOnTheShotScale s := by
  refine fun u => ⟨?_, fun none => shotTimeOfAbs_none none u, fun f b entry start => ⟨fun behind => ?_, fun ahead near => ?_⟩⟩
  · unfold State.shotTimeOfAbs
    split
    · dsimp only
      split
      next near => exact near
      next => exact (Config.freeShotTime s.freeUsed).isLt
    · decide
  · rw [shotTimeOfAbs_some entry start, Int.toNat_of_nonpos behind, if_pos (by decide)]
  · rw [shotTimeOfAbs_some entry start, if_pos (by omega), Int.toNat_of_nonneg ahead]

/-! ### EVENT (R150, R152) -/

section Event

variable {input : Nat} {role : InputRole} {level : Bool} {u : AbsTime}

/-- The shot part of an EVENT that has been heard. -/
def remoteLogged (s : State) (input : Nat) (level : Bool) (u : AbsTime) : State := (Heard s).logRemote input level u

theorem remoteLogged_late (outside : s.peerShot = false) : remoteLogged s input level u
    = { s with peer := { s.peer with
        lossAt := some (s.now + 50000), lateDrops := min 65535 (s.peer.lateDrops + 1) } } :=
  if_neg (Bool.eq_false_iff.1 outside)

theorem remoteLogged_frame (inside : s.peerShot = true) (input : Nat) (level : Bool) (u : AbsTime) : ∃ dr po,
    remoteLogged s input level u = { Heard s with
      log := s.log.offered (s.makeRecord (s.shotTimeOfAbs u) (.inputChange input level true u))
      drains := dr, ports := po, freeUsed := s.freeUsed + 1 } := by
  obtain ⟨dr, po, frame⟩ := offer_frame (Heard s).useFree (s.shotTimeOfAbs u) (.inputChange input level true u)
  exact ⟨dr, po, (if_pos inside).trans frame⟩

theorem remoteLogged_keeps (s : State) (input : Nat) (level : Bool) (u : AbsTime) :
    (remoteLogged s input level u).time = s.time ∧ (remoteLogged s input level u).tp = s.tp := by
  cases inside : s.peerShot with
  | true =>
    obtain ⟨dr, po, frame⟩ := remoteLogged_frame inside input level u
    rewrite [frame]
    exact ⟨rfl, rfl⟩
  | false =>
    rewrite [remoteLogged_late inside]
    exact ⟨rfl, rfl⟩

/-- Where an edge lies depends on the clock and the path alone. -/
theorem edgeAhead_congr {s m : State} (time : m.time = s.time) (tp : m.tp = s.tp) (u : AbsTime) :
    edgeAhead m u = edgeAhead s u := by
  unfold edgeAhead State.aheadOf State.timeOfDay
  rw [time, tp]

theorem takeEdge_peer (s : State) (level : Bool) (u : AbsTime) : (s.takeEdge level u).peer = s.peer := by
  by_cases late : edgeAhead s u ≤ 0
  · rewrite [takeEdge_late late]
    exact (applyEdge_logged (heardEdge s level) level s.now .late).1.peer
  · have ahead : 0 < edgeAhead s u := not_le.1 late
    by_cases free : s.actions.held .tpEdge < 13
    · rewrite [takeEdge_placed ahead free]
      rfl
    · obtain ⟨lg, dr, po, frame, -⟩ := offerTpEvent_frame
        { s with tp := { s.tp with lastReceived := level, resync := true } } .dropped
      rw [takeEdge_dropped ahead (not_lt.1 free), frame]

variable (up : s.peer.link = .up)
include up

theorem event_shot (carrier : Bool) (other : carrier = false ∨ s.tp.source ≠ .peer) :
    exec (.eventFrame input role level u true carrier) s = .next (remoteLogged s input level u) := by
  rewrite [exec, execEventFrame, receive_up up]
  refine congrArg Host.Outcome.next (if_neg fun ⟨on, peer⟩ => ?_)
  rcases other with off | other
  · exact Bool.false_ne_true (off.symm.trans on)
  · exact other ((congrArg Teleprotection.source (remoteLogged_keeps s input level u).2).symm.trans peer)

theorem event_both (source : s.tp.source = .peer) :
    exec (.eventFrame input role level u true true) s = .next ((remoteLogged s input level u).takeEdge level u) := by
  have peer : (remoteLogged s input level u).tp.source = .peer := by
    rewrite [(remoteLogged_keeps s input level u).2]
    exact source
  rewrite [exec, execEventFrame, receive_up up]
  exact congrArg Host.Outcome.next (if_pos ⟨rfl, peer⟩)

theorem event_carrier (source : s.tp.source = .peer) :
    exec (.eventFrame input role level u false true) s = .next ((Heard s).takeEdge level u) := by
  rewrite [exec, execEventFrame, receive_up up]
  exact congrArg Host.Outcome.next (if_pos ⟨rfl, source⟩)

theorem event_ignored (carrier : Bool) (other : carrier = false ∨ s.tp.source ≠ .peer) :
    exec (.eventFrame input role level u false carrier) s = .next (Heard s) := by
  rewrite [exec, execEventFrame, receive_up up]
  refine congrArg Host.Outcome.next (if_neg fun ⟨on, peer⟩ => ?_)
  rcases other with off | other
  · exact Bool.false_ne_true (off.symm.trans on)
  · exact other peer

theorem eventTaken : EventTaken s := by
  intro input role level u
  refine ⟨event_ignored up false (.inl rfl), fun outside => ?_, fun inside => ?_,
    fun other => event_ignored up true (.inr other),
    fun source => ⟨_, event_carrier up source, takeEdge_peer _ _ _, takeEdge_taken (Heard s) level u⟩,
    _, event_shot up false (.inl rfl), fun other => event_shot up true (.inr other),
    fun source => ⟨_, event_both up source, takeEdge_peer _ _ _, ?_⟩⟩
  · rw [event_shot up false (.inl rfl), remoteLogged_late outside]
  · obtain ⟨dr, po, frame⟩ := remoteLogged_frame inside input level u
    refine ⟨_, event_shot up false (.inl rfl), ?_, ?_⟩
    · rw [frame]
    · rw [frame]
  · obtain ⟨time, tp⟩ := remoteLogged_keeps s input level u
    have taken := takeEdge_taken (remoteLogged s input level u) level u
    rewrite [edgeAhead_congr time tp] at taken
    exact taken

end Event

/-! ### STATE, ABORT and END (R40, R148) -/

section Reports

theorem peerShot_iff (s : State) : s.peerShot = true ↔ s.seq.phase ≠ .idle ∧ s.seq.peerLinked = true := by
  rw [State.peerShot, Bool.and_eq_true, shotActive_iff]

variable (up : s.peer.link = .up)
include up

theorem abortFrame_aborts (linked : s.seq.peerLinked = true)
    (phase : s.seq.phase = .armed ∨ s.seq.phase = .running ∨ s.seq.phase = .rampingDown) (c : AbortCause) :
    exec (.abortFrame c) s = .next ((Heard s).softAbort .peerAbort) := by
  rewrite [exec, execAbortFrame, receive_up up]
  refine congrArg Host.Outcome.next ((if_pos linked).trans ?_)
  rcases phase with h | h | h
  all_goals
    have h : (Heard s).seq.phase = _ := h
    rw [h]

theorem abortFrame_ignored (phase : s.seq.peerLinked = false ∨ s.seq.phase = .closing ∨ s.seq.phase = .idle)
    (c : AbortCause) : exec (.abortFrame c) s = .next (Heard s) := by
  rewrite [exec, execAbortFrame, receive_up up]
  refine congrArg Host.Outcome.next ?_
  rcases phase with other | h | h
  · exact if_neg (Bool.eq_false_iff.1 other)
  all_goals
    have h : (Heard s).seq.phase = _ := h
    rewrite [h]
    exact ite_self _

theorem farEndReports : FarEndReports s := by
  refine ⟨fun outside => ⟨fun i c u => ?_, fun c => ?_, fun c => abortFrame_ignored up ?_ c⟩,
    fun inside => ⟨fun i c u => ?_, fun c => ?_, ?_⟩⟩
  · rewrite [exec, execStateFrame, receive_up up]
    exact congrArg Host.Outcome.next (if_neg (Bool.eq_false_iff.1 outside))
  · rewrite [exec, execEndFrame, receive_up up]
    exact congrArg Host.Outcome.next (if_neg (Bool.eq_false_iff.1 outside))
  · by_contra here
    simp only [not_or, Bool.not_eq_false] at here
    obtain ⟨linked, -, active⟩ := here
    exact Bool.eq_false_iff.1 outside ((peerShot_iff s).2 ⟨active, linked⟩)
  · rewrite [exec, execStateFrame, receive_up up]
    exact congrArg Host.Outcome.next (if_pos inside)
  · rewrite [exec, execEndFrame, receive_up up]
    exact congrArg Host.Outcome.next (if_pos inside)
  obtain ⟨-, linked⟩ := (peerShot_iff s).1 inside
  refine ⟨fun c running first => ?_, fun c armed visit => ?_, fun c later => ?_,
    fun c closing => abortFrame_ignored up (.inr (.inl closing)) c⟩
  · have notArmed : (Heard s).seq.phase ≠ .armed := running ▸ Phase.noConfusion
    obtain ⟨_, _, _, _, _, frame⟩ := softAbort_frame (s := Heard s) .peerAbort notArmed
    refine ⟨_, abortFrame_aborts up linked (.inr (.inl running)) c,
      (softAbort_running (s := Heard s) .peerAbort running first).1, ?_⟩
    rewrite [frame]
    rfl
  · exact ⟨_, abortFrame_aborts up linked (.inl armed) c, softAbort_inArmed (s := Heard s) .peerAbort armed visit⟩
  · have secondary : exec (.abortFrame c) s = .next ((Heard s).takeSecondary .peerAbort) := by
      rcases later with down | ⟨running, second, fixed⟩
      · rw [abortFrame_aborts up linked (.inr (.inr down)), softAbort_rampingDown (s := Heard s) .peerAbort down]
      · rw [abortFrame_aborts up linked (.inr (.inl running)),
          softAbort_again (s := Heard s) .peerAbort running second fixed]
    obtain ⟨_, _, frame, -⟩ := takeSecondary_frame (Heard s) .peerAbort
    refine ⟨_, secondary, takeSecondary_taken (Heard s) .peerAbort, ?_⟩
    rw [frame]

end Reports

set_option Elab.async false in
/-- Settles O57. -/
theorem remoteEventsAreTaken : Obligations.RemoteEventsAreTaken :=
  fun s => ⟨fun up => ⟨eventTaken up, farEndReports up⟩, remoteTimesOnTheShotScale s, edgeFallsDue s⟩

end Sys2Proof.Proofs.FarEnd
end

section
/-! PROOF. EXIT_TO_END, SHOT_LIMIT, RAMP_DOWN_START, RAMP_DOWN_END and CLOSING_LINGER_END (O53). -/

namespace Sys2Proof.Proofs.ShotEnd

open Sys2Proof Sys2Proof.Machine Sys2Proof.Proofs.Answering Sys2Proof.Proofs.Arming Sys2Proof.Proofs.EditControl
  Sys2Proof.Proofs.Aborting Sys2Proof.Proofs.Records Sys2Proof.Proofs.Ending Sys2Proof.Proofs.Guarding

variable {s u t : State} {v : Visit}

/-! ### The end of a visit, with nothing taken before it -/

theorem visitEndLogged_plain {byAbort : Bool} (verdicts : t.log.verdicts = (s.endVisit byAbort).log.verdicts)
    (extended : (s.endVisit byAbort).log.records <+: t.log.records) : VisitEndLogged s t byAbort [] := by
  have same : ((caused s s.seq.endCause s.seq.secondary s.log s.peer s.drains s.ports).endVisit byAbort).log
      = (s.endVisit byAbort).log := by
    rewrite [endVisit_log, endVisit_log]
    rfl
  rewrite [← same] at verdicts extended
  exact visitEndLogged_caused rfl (fun _ => ⟨(List.append_nil _).symm, rfl⟩) verdicts extended

/-! ### EXIT_TO_END (R36, R43, R148) -/

section Exit

/-- The state of an exit, its visit ended and its cause stored, before the entry to CLOSING. -/
def exited (s : State) : State :=
  { s.endVisit false with seq := { (s.endVisit false).seq with endCause := some s.exitCause } }

/-- The link once END has been sent. -/
def finishedPeer (s : State) : PeerLink :=
  { s.peer with sent := if s.seq.peerLinked = true ∧ s.peer.link = .up then s.peer.sent ++ [.finish s.exitCause]
                        else s.peer.sent }

/-- END is sent to a link that is up. -/
theorem finish_sent {c : State} (linked : c.seq.peerLinked = s.seq.peerLinked) (same : c.peer = s.peer) :
    (if c.passBoundary.seq.peerLinked = true then c.passBoundary.send (.finish s.exitCause) else c.passBoundary)
      = { c.passBoundary with peer := finishedPeer s } := by
  have linked : c.passBoundary.seq.peerLinked = s.seq.peerLinked := linked
  have same : c.passBoundary.peer = s.peer := same
  rewrite [linked]
  generalize c.passBoundary = d at same ⊢
  unfold State.send finishedPeer
  rewrite [same]
  cases s.seq.peerLinked with
  | false =>
    rewrite [if_neg Bool.false_ne_true, if_neg fun h => Bool.false_ne_true h.1, ← same]
    rfl
  | true =>
    rewrite [if_pos rfl]
    by_cases up : s.peer.link = .up
    · rw [if_pos up, if_pos ⟨rfl, up⟩]
    · rewrite [if_neg up, if_neg fun h => up h.2, ← same]
      rfl

theorem exited_seq (visit : s.seq.visit = some v) :
    (exited s).seq = { s.seq with visit := none, chosen := none, deferring := false, softEnd := none
                                  endCause := some s.exitCause } := by
  obtain ⟨ended, -⟩ := endVisit_seq s false v visit
  unfold exited
  dsimp only
  rw [ended]

theorem exitToEnd_eq (visit : s.seq.visit = some v) :
    s.exitToEnd = { (exited s).enterClosing.passBoundary with peer := finishedPeer s } := by
  obtain ⟨-, -, -, -, -, -, -, -, -, peer, -⟩ := endVisit_fields s false
  have before := exited_seq visit
  obtain ⟨seq, -, -, -, -, -, -, -, same⟩ := enterClosing_fields (exited s) (by rw [before])
  exact finish_sent (c := (exited s).enterClosing) (by rw [seq, before]) (same.trans peer)

/-- The entry to CLOSING of an exit. -/
theorem exited_closes (visit : s.seq.visit = some v) :
    ClosingEntered s (exited s).enterClosing
    ∧ (exited s).enterClosing.seq.endCause = some s.exitCause
    ∧ (exited s).enterClosing.seq.secondary = s.seq.secondary ∧ (exited s).enterClosing.assess = none
    ∧ (exited s).enterClosing.time = s.time := by
  obtain ⟨-, -, -, synth, -, -, outputs, breaker, time, -, tp, guard, -⟩ := endVisit_fields s false
  obtain ⟨-, assess, actions⟩ := endVisit_seq s false v visit
  have before := exited_seq visit
  have none : (exited s).seq.visit = none := by rw [before]
  obtain ⟨seq, -, -, -, closedAssess, -, -, closedTime, -⟩ := enterClosing_fields (exited s) none
  refine ⟨closingEntered_of none time (congrArg Guard.period guard) synth breaker tp outputs (fun a mem => ?_)
    fun a mem _ free => ?_, by rw [seq, before], by rw [seq, before], closedAssess.trans assess, closedTime.trans time⟩
  · have mem : a ∈ (s.endVisit false).actions.entries := mem
    rewrite [actions] at mem
    exact List.mem_of_mem_filter mem
  · show a ∈ (s.endVisit false).actions.entries
    rewrite [actions]
    exact List.mem_filter.2 ⟨mem, Option.isNone_iff_eq_none.2 free⟩

theorem exited_keeps (visit : s.seq.visit = some v) (running : s.seq.phase = .running) :
    (exited s).enterClosing.store = s.store ∧ (exited s).enterClosing.edit = s.edit
    ∧ (exited s).enterClosing.amp = s.amp ∧ (exited s).enterClosing.inputs = s.inputs
    ∧ VisitEndLogged s (exited s).enterClosing false [] := by
  obtain ⟨-, store, edit, amp, inputs⟩ := (Winds.endVisit s false).keeps
  have before := exited_seq visit
  have none : (exited s).seq.visit = none := by rw [before]
  have closes := Winds.enterClosing (exited s) (by rewrite [before, running]; decide)
  obtain ⟨-, store', edit', amp', inputs'⟩ := closes.keeps
  exact ⟨store'.trans store, edit'.trans edit, amp'.trans amp, inputs'.trans inputs,
    visitEndLogged_plain (enterClosing_verdicts none) closes.extends_⟩

theorem exitToEnd (s : State) : ExitToEnd s := by
  refine ⟨fun idle => congrArg Host.Outcome.next (if_neg (Bool.eq_false_iff.1 idle)), fun v c visit choice transition finish => ?_⟩
  have due : s.exitDue = true := by
    rewrite [State.exitDue, choice, transition]
    exact decide_eq_true finish
  have running : s.seq.phase = .running := by
    rewrite [State.choiceOpen, Bool.and_eq_true, Bool.and_eq_true, Bool.and_eq_true] at choice
    exact of_decide_eq_true choice.1.1.1
  obtain ⟨entered, endCause, secondary, assess, time⟩ := exited_closes visit
  obtain ⟨store, edit, amp, inputs, logged⟩ := exited_keeps visit running
  refine ⟨s.exitToEnd, s.exitCause, congrArg Host.Outcome.next (if_pos due), ?_⟩
  rewrite [exitToEnd_eq visit]
  generalize (exited s).enterClosing = d at entered endCause secondary assess time store edit amp inputs logged ⊢
  exact ⟨entered, rfl, endCause, secondary, assess, congrArg (fun x : TimeBase => { x with boundaryPassed := true }) time,
    rfl, store, edit, amp, inputs, logged⟩

end Exit

/-! ### SHOT_LIMIT and RAMP_DOWN_START (R36, R37) -/

section RampDown

/-- Where RUNNING is left, the fall of receive counts no verdicts. -/
theorem receiveFalls_verdicts (visit : u.seq.visit = none) (phase : u.seq.phase ≠ .armed) (time : Nat) :
    (u.refreshReceive time).log.verdicts = u.log.verdicts := by
  rewrite [refreshReceive_left u time visit phase]
  split
  · obtain ⟨-, -, receive⟩ := refreshOutputs_log_same { u with tp := { u.tp with receive := false } } .teleprotection
      (Teleprotection.outputLevel { u.tp with receive := false })
    exact receive
  · rfl

/-- Where RUNNING is left, an output of the receive role that was set falls, and no other output changes. -/
theorem receiveFalls_output (visit : u.seq.visit = none) (phase : u.seq.phase ≠ .armed) (time : Nat) (n : Fin 4) :
    ((u.refreshReceive time).outputs[n]'n.isLt).role = (u.outputs[n]'n.isLt).role
    ∧ ((u.outputs[n]'n.isLt).role = .tpReceive → u.tp.receive = true →
        ((u.refreshReceive time).outputs[n]'n.isLt).level = false)
    ∧ ((u.outputs[n]'n.isLt).role ≠ .tpReceive → (u.refreshReceive time).outputs[n]'n.isLt = u.outputs[n]'n.isLt) := by
  rewrite [refreshReceive_left u time visit phase]
  by_cases receive : u.tp.receive = true
  · simp only [if_pos receive, Fin.getElem_fin, refreshOutputs_outputs]
    cases kind : u.outputs[n]'n.isLt with
    | mk role level =>
      cases role <;> simp [Output.ruled, Teleprotection.outputLevel]
  · rewrite [if_neg receive]
    exact ⟨rfl, fun _ h => absurd h receive, fun _ => rfl⟩

theorem endVisit_rampingStarted (u : State) :
    (u.endVisit true).rampingStarted.seq.visit = none ∧ (u.endVisit true).rampingStarted.seq.phase ≠ .armed := by
  obtain ⟨-, -, -, -, -, -, -, -, -, -, -, -, visit, -⟩ := endVisit_fields u true
  exact ⟨visit, nofun⟩

theorem startRampDown_output (u : State) (n : Fin 4) :
    (u.startRampDown.outputs[n]'n.isLt).role = (u.outputs[n]'n.isLt).role
    ∧ ((u.outputs[n]'n.isLt).role = .tpReceive → u.tp.receive = true → (u.startRampDown.outputs[n]'n.isLt).level = false)
    ∧ ((u.outputs[n]'n.isLt).role ≠ .tpReceive → u.startRampDown.outputs[n]'n.isLt = u.outputs[n]'n.isLt) := by
  obtain ⟨-, -, -, -, -, -, outputs, -, -, -, tp, -⟩ := endVisit_fields u true
  obtain ⟨visit, phase⟩ := endVisit_rampingStarted u
  have falls := receiveFalls_output visit phase (u.endVisit true).rampingStarted.now n
  have outputs : (u.endVisit true).rampingStarted.outputs = u.outputs := outputs
  have tp : (u.endVisit true).rampingStarted.tp = u.tp := tp
  rewrite [outputs, tp] at falls
  rewrite [startRampDown_eq]
  exact falls

theorem startRampDown_logged (u : State) :
    u.startRampDown.log.verdicts = (u.endVisit true).log.verdicts
    ∧ (u.endVisit true).log.records <+: u.startRampDown.log.records := by
  obtain ⟨visit, phase⟩ := endVisit_rampingStarted u
  rewrite [startRampDown_eq]
  exact ⟨receiveFalls_verdicts visit phase _, (Reacts.refreshReceive (u.endVisit true).rampingStarted _).extends_⟩

theorem startRampDown_enters (visit : u.seq.visit = some v) (running : u.seq.phase = .running) :
    RampDownEntered u u.startRampDown := by
  obtain ⟨seq, guard, synth, breaker, assess, actions, tp, time, -⟩ := startRampDown_fields u v visit
  obtain ⟨-, store, edit, amp, inputs⟩ := (Winds.startRampDown u (by rewrite [running]; decide)).keeps
  unfold RampDownEntered
  rewrite [seq, synth]
  exact ⟨rfl, rfl, rfl, rfl, rfl, rfl, rfl, guard, PerChannel.get_mapWith _ _, rfl, breaker, assess, actions, tp, time,
    startRampDown_output u, store, edit, amp, inputs⟩

theorem shotLimit_enters {c : AbortCause} (visit : s.seq.visit = some v) (running : s.seq.phase = .running) :
    RampDownEntered s (s.takeEndCause c).startRampDown
    ∧ (s.takeEndCause c).startRampDown.seq.endCause = some (.abort c)
    ∧ (s.takeEndCause c).startRampDown.seq.secondary = s.seq.secondary
    ∧ (s.takeEndCause c).startRampDown.peer = { s.peer with sent := SentWithAbort s c }
    ∧ RecordFirst s (s.takeEndCause c).startRampDown (s.shotTime s.now) (.abort c false)
    ∧ VisitEndLogged s (s.takeEndCause c).startRampDown true [s.makeRecord (s.shotTime s.now) (.abort c false)] := by
  obtain ⟨dr, po, frame⟩ := takeEndCause_frame s c
  have taken : s.takeEndCause c = caused s (some (.abort c)) s.seq.secondary (s.log.offered (abortRecord s c))
    { s.peer with sent := SentWithAbort s c } dr po := frame
  rewrite [taken]
  generalize known : caused s (some (.abort c)) s.seq.secondary (s.log.offered (abortRecord s c))
    { s.peer with sent := SentWithAbort s c } dr po = w
  have stands : w.seq.visit = some v := by rewrite [← known]; exact visit
  obtain ⟨seq, -, -, -, -, -, -, -, peer⟩ := startRampDown_fields w v stands
  have entered := startRampDown_enters stands (by rewrite [← known]; exact running)
  obtain ⟨verdicts, extended⟩ := startRampDown_logged w
  have earlier := (Winds.endVisit w true).extends_.trans extended
  rewrite [seq, peer]
  subst known
  exact ⟨entered, rfl, rfl, rfl, recordFirst_of rfl earlier,
    visitEndLogged_caused (s.log.offered_verdicts _) (offered_logged _ _) verdicts extended⟩

theorem openBoundary_of (boundary : s.time.counter % 100 = 0) (passed : s.time.boundaryPassed = false) :
    s.openBoundary = true := by
  rewrite [State.openBoundary, State.atBoundary, passed]
  simp [boundary]

theorem rampDownBegins (s : State) : RampDownBegins s := by
  refine ⟨fun idle => congrArg Host.Outcome.next (if_neg (Bool.eq_false_iff.1 idle)),
    fun idle => congrArg Host.Outcome.next (if_neg (Bool.eq_false_iff.1 idle)),
    fun v visit running boundary passed => ⟨fun f entry late first => ?_, fun e soft late => ?_⟩⟩
  · have here : s.limitHere = true := by
      rewrite [State.limitHere, entry]
      dsimp only
      exact decide_eq_true late
    have due : s.shotLimitDue = true := by
      rewrite [State.shotLimitDue, openBoundary_of boundary passed, here, running]
      rfl
    have taken : s.takeRunningCause .shotLimit = s.takeEndCause .shotLimit := by
      rw [State.takeRunningCause, first]
    refine ⟨_, ?_, shotLimit_enters visit running⟩
    rw [exec, execShotLimit, if_pos due, taken]
  · have here : s.softEndHere = true := by
      rewrite [State.softEndHere, soft]
      exact decide_eq_true late
    have due : s.rampDownStartDue = true := by
      rewrite [State.rampDownStartDue, openBoundary_of boundary passed, here, running]
      rfl
    obtain ⟨seq, -, -, -, -, -, -, -, peer⟩ := startRampDown_fields s v visit
    obtain ⟨verdicts, extended⟩ := startRampDown_logged s
    refine ⟨s.startRampDown, congrArg Host.Outcome.next (if_pos due), startRampDown_enters visit running, ?_, ?_, peer,
      visitEndLogged_plain verdicts extended⟩
    · rw [seq]
    · rw [seq]

end RampDown

/-! ### RAMP_DOWN_END (R37, R65) -/

theorem rampDownEnds (s : State) : RampDownEnds s := by
  refine ⟨fun idle => congrArg Host.Outcome.next (if_neg (Bool.eq_false_iff.1 idle)), fun e down visit began late => ?_⟩
  have due : s.rampDownEndDue = true := by
    rewrite [State.rampDownEndDue, down, began]
    exact decide_eq_true late
  obtain ⟨seq, -, -, -, -, -, -, time, peer⟩ := enterClosing_fields s visit
  obtain ⟨-, store, -, amp, inputs⟩ := (Winds.enterClosing s (by rewrite [down]; decide)).keeps
  refine ⟨s.enterClosing, congrArg Host.Outcome.next (if_pos due),
    closingEntered_of visit rfl rfl rfl rfl rfl rfl (fun _ mem => mem) (fun _ mem _ _ => mem), ?_, ?_, time, peer, store,
    amp, inputs, enterClosing_verdicts visit⟩
  · rw [seq]
  · rw [seq]

/-! ### CLOSING_LINGER_END (R44, R61, R70, R116, R161) -/

section Linger

theorem writeShotEnd_frame (s : State) (time : Nat) (b : RecordBody) :
    ∃ dr po, s.writeShotEnd time b = { s with
      log := { s.log with records := s.log.records ++ [s.makeRecord time b], reservation := 0 }
      drains := dr, ports := po } ∧ ∀ q, (s.ports.get q).Grows (po.get q) := by
  refine ⟨_, _, rfl, fun q => ?_⟩
  have port := copyBoth_port
    { s with log := { s.log.write (s.makeRecord time b) with reservation := 0 } } q
  exact port ▸ PortInterface.Grows.raiseTimes _ _ _

theorem applyPoint_grows (s : State) (q : Port) : (s.ports.get q).Grows (s.applyPoint.ports.get q) := by
  unfold State.applyPoint
  split
  · rewrite [raiseBoth_ports, PerPort.get_map]
    exact PortInterface.Grows.raise _ _
  · exact PortInterface.Grows.refl _

theorem raised_of_later {w : State} {c : NotifyCause} (earlier : ∀ q, (s.ports.get q).Grows (w.ports.get q))
    (raised : Raised w t c) : Raised s t c := fun q => by
  obtain ⟨requests, repeated⟩ := raised q
  refine ⟨requests, fun held => repeated ?_⟩
  rewrite [BitVec.and_comm] at held ⊢
  exact and_absorb_trans _ _ _ held (earlier q).1

/-- What the return to IDLE leaves: every item but the program's slots and the ports is fixed, and pending copies are
applied where neither port holds. -/
theorem returnToIdle_leaves (s : State) :
    ∃ st po, s.returnToIdle = idleAgain s st po ∧ Raised s (idleAgain s st po) .shotEnded
      ∧ (s.noHold = true → PendingCopiesApplied s (idleAgain s st po)) ∧ (s.noHold = false → st = s.store)
      ∧ st.config = s.store.config := by
  have run : s.returnToIdle = ((idleAgain s s.store s.ports).raiseBoth .shotEnded).applyPoint := rfl
  rewrite [run]
  generalize known : (idleAgain s s.store s.ports).raiseBoth .shotEnded = w
  have store : w.store = s.store := by rw [← known]; rfl
  have noHold : w.noHold = s.noHold := by rw [← known]; rfl
  have port (q : Port) : w.ports.get q = (s.ports.get q).raise .shotEnded := by
    rewrite [← known]
    exact PerPort.get_map _ _ q
  have same (st : ProgramStore) (po : PerPort PortInterface) : { w with store := st, ports := po } = idleAgain s st po := by
    rw [← known]
    rfl
  have copies := pendingCopiesApplied_applyPoint w
  have held := applyPoint_held w
  have config := applyPoint_config w
  have grows := applyPoint_grows w
  obtain ⟨st, po, frame⟩ := applyPoint_frame w
  rewrite [frame, same] at copies held config grows
  rewrite [frame, same]
  refine ⟨st, po, rfl, raised_of_grows fun q => port q ▸ grows q, fun free i => ?_, fun holds => ?_, config.trans (by rw [store])⟩
  · have copied := copies (noHold.trans free) i
    rewrite [store] at copied
    exact copied
  · exact (congrArg State.store (held (noHold.trans holds))).trans store

theorem lingerEnds (s : State) : LingerEnds s := by
  refine ⟨fun idle => congrArg Host.Outcome.next (if_neg (Bool.eq_false_iff.1 idle)), fun e cause phase closing late ended => ?_⟩
  have due : s.lingerDue = true := by
    rewrite [State.lingerDue, phase, closing]
    exact decide_eq_true late
  obtain ⟨dr, po, written, earlier⟩ := writeShotEnd_frame s (s.shotTime s.now) s.shotEndBody
  obtain ⟨st, po', idle, raised, copies, held, config⟩ := returnToIdle_leaves
    (s.writeShotEnd (s.shotTime s.now) s.shotEndBody)
  have raised := raised_of_later (s := s) (by rewrite [written]; exact earlier) raised
  have run : exec .closingLingerEnd s = .next (idleAgain (s.writeShotEnd (s.shotTime s.now) s.shotEndBody) st po') :=
    congrArg Host.Outcome.next ((if_pos due).trans idle)
  rewrite [written] at run raised copies held config
  refine ⟨_, s.clipMask, run, ?_, fun c => ⟨?_, ?_⟩, raised, copies, held,
    config⟩
  · have record : s.makeRecord (s.shotTime s.now) s.shotEndBody
        = { shot := s.seq.shotNumber, time := s.shotTime s.now, degraded := false
            body := .shotEnd cause s.seq.secondary s.log.lost s.log.saturated s.clipMask s.log.verdicts
              (if s.time.degraded then .degraded else .good) } := by
      rewrite [State.shotEndBody, ended, State.makeRecord, degradedFlag]
      exact congrArg (fun flag => LogRecord.mk _ _ flag _) (Bool.and_false _)
    rewrite [record]
    rfl
  · exact PerChannel.get_mapWith _ _ c
  · exact PerChannel.get_mapWith _ _ c

end Linger

set_option Elab.async false in
/-- Settles O53. -/
theorem shotEndsInOrder : Obligations.ShotEndsInOrder := fun s =>
  ⟨exitToEnd s, rampDownBegins s, rampDownEnds s, lingerEnds s⟩

end Sys2Proof.Proofs.ShotEnd
end

section
/-! PROOF. Bytes that stand at a place of a list, and the fields read there (12.5). -/

namespace Sys2Proof.Proofs.Layouts

open Sys2Proof Sys2Proof.Machine

variable {b x y : List Byte} {o n len : Nat}

/-- The bytes `x` stand in `b` from the offset `o` on. -/
def Stands (b : List Byte) (o : Nat) (x : List Byte) : Prop := (b.drop o).take x.length = x

theorem stands_self (b : List Byte) : Stands b 0 b := List.take_length

theorem stands_of_eq (h : x = b) : Stands b 0 x := h ▸ stands_self x

theorem stands_append : Stands b o (x ++ y) ↔ Stands b o x ∧ Stands b (o + x.length) y := by
  unfold Stands
  rewrite [List.length_append, List.take_add, List.drop_drop]
  refine ⟨fun h => ?_, fun ⟨first, second⟩ => by rw [first, second]⟩
  have first : (b.drop o).take x.length = x := by
    have cut := congrArg (List.take x.length) h
    rewrite [List.take_left, ← List.drop_drop, ← List.take_add, List.take_take, Nat.min_eq_left (Nat.le_add_right _ _)] at cut
    exact cut
  rewrite [first] at h
  exact ⟨first, List.append_cancel_left h⟩

theorem stands_drop {k : Nat} : Stands (b.drop k) o x ↔ Stands b (k + o) x := by
  unfold Stands
  rw [List.drop_drop]

theorem fieldAt_of_stands (h : Stands b o x) : fieldAt b o x.length = natOfBytes x := congrArg natOfBytes h

/-! ### Numbers -/

@[simp] theorem bytesOf_length (len n : Nat) : (bytesOf len n).length = len := by
  induction len generalizing n with
  | zero => rfl
  | succ len ih => rw [bytesOf, List.length_append, ih, List.length_singleton]

@[simp] theorem byteOf_length (n : Nat) : (byteOf n).length = 1 := bytesOf_length 1 n

@[simp] theorem boolByte_length (v : Bool) : (boolByte v).length = 1 := bytesOf_length 1 _

@[simp] theorem signedBytes_length (len : Nat) (v : Int) : (signedBytes len v).length = len := bytesOf_length len _

@[simp] theorem timeBytes_length (t : AbsTime) : (timeBytes t).length = 7 := by
  rw [timeBytes, List.length_append, bytesOf_length, bytesOf_length]

theorem natOfBytes_bytesOf (len n : Nat) : natOfBytes (bytesOf len n) = n % 256 ^ len := by
  induction len generalizing n with
  | zero => rw [Nat.pow_zero, Nat.mod_one]; rfl
  | succ len ih =>
    have step : natOfBytes (bytesOf (len + 1) n) = natOfBytes (bytesOf len (n / 256)) * 256 + n % 256 := by
      rewrite [natOfBytes, bytesOf, List.foldl_append]
      exact congrArg _ (BitVec.toNat_ofNat n 8)
    rewrite [step, ih, Nat.pow_succ, Nat.mul_comm _ 256, Nat.mul_comm _ 256, Nat.mod_mul]
    exact Nat.add_comm _ _

/-- A number in range is read as it was written. -/
theorem Stands.number (h : Stands b o (bytesOf len n)) (fits : n < 256 ^ len) : fieldAt b o len = n := by
  have field := fieldAt_of_stands h
  rwa [bytesOf_length, natOfBytes_bytesOf, Nat.mod_eq_of_lt fits] at field

theorem Stands.byte (h : Stands b o (byteOf n)) (fits : n < 256) : fieldAt b o 1 = n := h.number fits

theorem Stands.bool {v : Bool} (h : Stands b o (boolByte v)) : fieldAt b o 1 = if v = true then 1 else 0 := by
  refine Stands.number h ?_
  split <;> decide

theorem Stands.mask {m : Mask} (h : Stands b o (bytesOf 2 m.toNat)) : maskAt b o = m := by
  rewrite [maskAt, h.number m.isLt]
  exact (BitVec.ofNat_toNat 16 m).trans m.setWidth_eq

theorem Stands.signed {v : Int} (h : Stands b o (signedBytes len v)) (fits : fitsSigned len v = true) : signedAt b o len = v := by
  have fits := of_decide_eq_true fits
  rewrite [signedBytes] at h
  have positive : (0 : Int) < (256 ^ len : Nat) := Int.natCast_pos.2 (Nat.pow_pos (by decide))
  have small := Int.emod_lt_of_pos v positive
  have least := Int.emod_nonneg v (Int.ne_of_gt positive)
  have field := h.number (by omega)
  have cast : ((256 : Int) ^ len) = ((256 ^ len : Nat) : Int) := by push_cast; rfl
  rewrite [cast] at fits
  unfold signedAt
  rewrite [field]
  dsimp only
  generalize 256 ^ len = m at *
  by_cases sign : 0 ≤ v
  · have same : v % (m : Int) = v := Int.emod_eq_of_lt sign (by omega)
    rewrite [same] at field ⊢
    rewrite [if_pos (by omega)]
    omega
  · have same : v % (m : Int) = v + m := by
      rw [← Int.add_emod_right, Int.emod_eq_of_lt (by omega) (by omega)]
    rewrite [same]
    rewrite [if_neg (by omega)]
    omega

theorem Stands.time {t : AbsTime} (h : Stands b o (timeBytes t)) (fits : t < 256 ^ 4 * 1000000) : timeAt b o = t := by
  obtain ⟨seconds, rest⟩ := stands_append.1 h
  rewrite [bytesOf_length] at rest
  have early : t / 1000000 < 256 ^ 4 := Nat.div_lt_of_lt_mul (Nat.mul_comm _ _ ▸ fits)
  have late : t % 1000000 < 256 ^ 3 := (Nat.mod_lt t (by decide)).trans (by decide)
  rewrite [timeAt, seconds.number early, rest.number late]
  exact Nat.div_add_mod' t 1000000

/-! ### Zeros and padding -/

theorem natOfBytes_replicate (k : Nat) : natOfBytes (List.replicate k 0#8) = 0 := by
  induction k with
  | zero => rfl
  | succ k ih => exact ih

theorem Stands.zeros (h : Stands b o (List.replicate len 0#8)) : fieldAt b o len = 0 := by
  have field := fieldAt_of_stands h
  rwa [List.length_replicate, natOfBytes_replicate] at field

theorem padTo_eq (fits : x.length ≤ len) : padTo len x = x ++ List.replicate (len - x.length) 0#8 := by
  rw [padTo, List.take_append, List.take_of_length_le fits, List.take_replicate, Nat.min_eq_left (Nat.sub_le _ _)]
  rfl

set_option Elab.async false in
theorem stands_padTo (fits : x.length ≤ len) :
    Stands b o (padTo len x) ↔ Stands b o x ∧ Stands b (o + x.length) (List.replicate (len - x.length) 0#8) := by
  rw [padTo_eq fits, stands_append]

end Sys2Proof.Proofs.Layouts
end

section
/-! PROOF. Peer frames read back (O59). -/

namespace Sys2Proof.Proofs.PeerBytes

open Sys2Proof Sys2Proof.Machine Sys2Proof.Proofs.Layouts

/-! ### A frame and its payload (R143) -/

/-- The bytes over which the CRC of a frame is taken. -/
def headOf (f : PeerFrame) : List Byte :=
  BitVec.ofNat 8 f.payload.1 :: BitVec.ofNat 8 f.payload.2.length :: f.payload.2

theorem bytes_eq (f : PeerFrame) : f.bytes = BitVec.ofNat 8 f.payload.1 :: BitVec.ofNat 8 f.payload.2.length
    :: (f.payload.2 ++ bytesOf 2 (crc16 (headOf f)).toNat) := rfl

theorem payload_size (f : PeerFrame) :
    payloadBytes f.payload.1 = some f.payload.2.length ∧ f.payload.1 < 256 ∧ f.payload.2.length < 256 := by
  cases f <;> simp [PeerFrame.payload, payloadBytes]

theorem byte_toNat {n : Nat} (fits : n < 256) : (BitVec.ofNat 8 n).toNat = n :=
  (BitVec.toNat_ofNat n 8).trans (Nat.mod_eq_of_lt fits)

/-- A frame is valid at the far end, and the event is that of its payload. -/
theorem event_bytes (f : PeerFrame) : eventOfPeerFrame f.bytes = peerEvent f.payload.1 f.payload.2 := by
  obtain ⟨size, kind, length⟩ := payload_size f
  have crc : Stands (f.payload.2 ++ bytesOf 2 (crc16 (headOf f)).toNat) f.payload.2.length
      (bytesOf 2 (crc16 (headOf f)).toNat) := by
    have parts := stands_append.1 (stands_self (f.payload.2 ++ bytesOf 2 (crc16 (headOf f)).toNat))
    rewrite [Nat.zero_add] at parts
    exact parts.2
  have valid := crc.number (crc16 (headOf f)).isLt
  rewrite [bytes_eq, eventOfPeerFrame, byte_toNat kind, byte_toNat length, List.take_left]
  exact if_pos ⟨size, by rw [List.length_append, bytesOf_length], valid.symm⟩

theorem event_dropLast (f : PeerFrame) : eventOfPeerFrame f.bytes.dropLast = .invalidPeerFrame := by
  obtain ⟨-, -, length⟩ := payload_size f
  have cut : f.bytes.dropLast = BitVec.ofNat 8 f.payload.1 :: BitVec.ofNat 8 f.payload.2.length
      :: (f.payload.2 ++ bytesOf 2 (crc16 (headOf f)).toNat).dropLast := by
    rewrite [bytes_eq, List.dropLast_cons_of_ne_nil (by simp), List.dropLast_cons_of_ne_nil]
    · rfl
    · exact List.append_ne_nil_of_right_ne_nil _ (List.ne_nil_of_length_pos (by rw [bytesOf_length]; decide))
  rewrite [cut, eventOfPeerFrame, byte_toNat length]
  refine if_neg fun ⟨_, rest, _⟩ => ?_
  rewrite [List.length_dropLast, List.length_append, bytesOf_length] at rest
  omega

/-! ### The codes (12.5) -/

theorem reasonOfCode_reasonCode (r : RejectReason) : reasonOfCode (reasonCode r) = some r := by cases r <;> rfl

theorem inputRole_ofCode (r : InputRole) : InputRole.ofCode (inputRoleCode r) = some r := by cases r <;> rfl

theorem abortOfCode_abortCode (c : AbortCause) : abortOfCode (abortCode c) = some c := by cases c <;> rfl

theorem endOfCode_endCode (c : EndCause) : endOfCode (endCode c) = some c := by
  cases c with
  | completed => rfl
  | abort c => cases c <;> rfl

theorem entryOfCode_entryCode (c : EntryCause) : entryOfCode (entryCode c) = some c := by
  cases c with
  | start => rfl
  | condition i => exact (if_neg (Nat.succ_ne_zero _)).trans (dif_pos i.isLt)
  | timeout => rfl

theorem entryCode_lt (c : EntryCause) : entryCode c < 256 := by
  cases c with
  | condition i => exact (Nat.succ_lt_succ i.isLt).trans (by decide)
  | _ => decide

theorem reasonCode_lt (r : RejectReason) : reasonCode r < 256 := by cases r <;> decide

theorem inputRoleCode_lt (r : InputRole) : inputRoleCode r < 256 := by cases r <;> decide

theorem abortCode_lt (c : AbortCause) : abortCode c < 256 := by cases c <;> decide

theorem endCode_lt (c : EndCause) : endCode c < 256 := by
  cases c with
  | completed => decide
  | abort c => exact abortCode_lt c

theorem bool_read (v : Bool) : decide ((if v = true then 1 else 0) ≠ 0) = v := by cases v <;> rfl

/-! ### Each payload read (Table 12-8) -/

theorem hello_read (version : Byte) (tag : BitVec 64) (heard : Bool) :
    peerEvent 0 ([version] ++ bytesOf 8 tag.toNat ++ boolByte heard) = .hello version tag heard := by
  generalize written : [version] ++ bytesOf 8 tag.toNat ++ boolByte heard = b
  have layout := stands_of_eq written
  simp only [stands_append, List.length_append, List.length_singleton, bytesOf_length, Nat.reduceAdd] at layout
  obtain ⟨⟨first, number⟩, flag⟩ := layout
  have first : fieldAt b 0 1 = version.toNat := (fieldAt_of_stands first).trans (Nat.zero_add _)
  rewrite [peerEvent, first, number.number tag.isLt, flag.bool, bool_read]
  simp

theorem timed_read {t : AbsTime} (fits : t < daySpan) {x : List Byte} : timeAt (timeBytes t ++ x) 0 = t :=
  (stands_append.1 (stands_self (timeBytes t ++ x))).1.time fits

theorem time_read {t : AbsTime} (fits : t < daySpan) : timeAt (timeBytes t) 0 = t := (stands_self _).time fits

theorem reject_read {t : AbsTime} (fits : t < daySpan) (r : RejectReason) :
    peerEvent 4 (timeBytes t ++ byteOf (reasonCode r)) = .startReject t r := by
  have layout := (stands_append.1 (stands_self (timeBytes t ++ byteOf (reasonCode r)))).2
  rewrite [timeBytes_length] at layout
  rw [peerEvent, layout.byte (reasonCode_lt r), reasonOfCode_reasonCode, timed_read fits]

theorem event_read {input : Nat} {t : AbsTime} (known : input < 256) (fits : t < daySpan) (role : InputRole)
    (level shot carrier : Bool) :
    peerEvent 5 (byteOf input ++ byteOf (inputRoleCode role) ++ boolByte level ++ timeBytes t
      ++ byteOf ((if shot then 1 else 0) + if carrier then 2 else 0)) = .eventFrame input role level t shot carrier := by
  generalize written : byteOf input ++ byteOf (inputRoleCode role) ++ boolByte level ++ timeBytes t
    ++ byteOf ((if shot then 1 else 0) + if carrier then 2 else 0) = b
  have layout := stands_of_eq written
  simp only [stands_append, List.length_append, byteOf_length, boolByte_length, timeBytes_length, Nat.reduceAdd] at layout
  obtain ⟨⟨⟨⟨number, kind⟩, value⟩, time⟩, flags⟩ := layout
  have flags := flags.byte (by cases shot <;> cases carrier <;> decide)
  rewrite [peerEvent, number.byte known, kind.byte (inputRoleCode_lt role), value.bool, time.time fits, flags,
    inputRole_ofCode, bool_read]
  cases shot <;> cases carrier <;> rfl

theorem state_read {i : Nat} {t : AbsTime} (known : i < 256) (fits : t < daySpan) (cause : EntryCause) :
    peerEvent 6 (byteOf i ++ byteOf (entryCode cause) ++ timeBytes t) = .stateFrame i cause t := by
  generalize written : byteOf i ++ byteOf (entryCode cause) ++ timeBytes t = b
  have layout := stands_of_eq written
  simp only [stands_append, List.length_append, byteOf_length, Nat.reduceAdd] at layout
  obtain ⟨⟨number, kind⟩, time⟩ := layout
  rw [peerEvent, number.byte known, kind.byte (entryCode_lt cause), entryOfCode_entryCode, time.time fits]

theorem abort_read (c : AbortCause) : peerEvent 7 (byteOf (abortCode c)) = .abortFrame c := by
  rw [peerEvent, (stands_self _).byte (abortCode_lt c), abortOfCode_abortCode, Option.getD_some]

theorem finish_read (c : EndCause) : peerEvent 8 (byteOf (endCode c)) = .endFrame c := by
  rw [peerEvent, (stands_self _).byte (endCode_lt c), endOfCode_endCode]

theorem payload_read (f : PeerFrame) (fits : (arrival f).wellFormed = true)
    (times : ∀ t, (f = .startPropose t ∨ f = .startAccept t ∨ (∃ r, f = .startReject t r)
      ∨ (∃ i c, f = .state i c t) ∨ ∃ i r l a b, f = .event i r l t a b) → t < daySpan) :
    peerEvent f.payload.1 f.payload.2 = arrival f := by
  cases f with
  | hello version tag heard => exact hello_read version tag heard
  | keepalive => rfl
  | startPropose t => exact congrArg Instr.startPropose (time_read (times t (.inl rfl)))
  | startAccept t => exact congrArg Instr.startAccept (time_read (times t (.inr (.inl rfl))))
  | startReject t r => exact reject_read (times t (.inr (.inr (.inl ⟨r, rfl⟩)))) r
  | event input role level t shot carrier =>
    have time := times t (.inr (.inr (.inr (.inr ⟨input, role, level, shot, carrier, rfl⟩))))
    have known := of_decide_eq_true (Bool.and_eq_true_iff.1 fits).1
    exact event_read (by omega) time role level shot carrier
  | state i cause t =>
    have time := times t (.inr (.inr (.inr (.inl ⟨i, cause, rfl⟩))))
    have known := of_decide_eq_true (Bool.and_eq_true_iff.1 fits).1
    exact state_read (by omega) time cause
  | abort c => exact abort_read c
  | finish c => exact finish_read c

set_option Elab.async false in
/-- Settles O59. -/
theorem peerFramesRoundTrip : Obligations.PeerFramesRoundTrip := fun f fits times =>
  ⟨(event_bytes f).trans (payload_read f fits times), event_dropLast f⟩

end Sys2Proof.Proofs.PeerBytes
end

section
/-! PROOF. Report records and responses in bytes (O60). -/

namespace Sys2Proof.Proofs.ReportBytes

open Sys2Proof Sys2Proof.Machine Sys2Proof.Proofs.Layouts Sys2Proof.Proofs.PeerBytes

variable {b : List Byte} {o n len : Nat}

/-! ### Zeros, low bytes and flags -/

/-- A field among bytes that are all 0. -/
theorem zerosAt (h : Stands b o (List.replicate n 0#8)) (k : Nat) (fits : k + len ≤ n) : fieldAt b (o + k) len = 0 := by
  obtain ⟨rest, rfl⟩ := Nat.exists_eq_add_of_le fits
  rewrite [Nat.add_assoc, List.replicate_add, List.replicate_add, stands_append, stands_append, List.length_replicate] at h
  exact h.2.1.zeros

theorem lowByte (h : Stands b o (byteOf n)) : fieldAt b o 1 = n % 256 :=
  (fieldAt_of_stands h).trans (natOfBytes_bytesOf 1 n)

theorem bytesOf_four (n : Nat) :
    bytesOf 4 n = byteOf (n / 256 / 256 / 256) ++ byteOf (n / 256 / 256) ++ byteOf (n / 256) ++ byteOf n := rfl

/-- The four bytes of a number put together from four bytes. -/
theorem bytes_of_four {w x y z : Nat} (fitsW : w < 256) (fitsX : x < 256) (fitsY : y < 256) (fitsZ : z < 256) :
    ((((w * 256 + x) * 256 + y) * 256 + z) / 256 / 256 / 256) % 256 = w
    ∧ ((((w * 256 + x) * 256 + y) * 256 + z) / 256 / 256) % 256 = x
    ∧ ((((w * 256 + x) * 256 + y) * 256 + z) / 256) % 256 = y ∧ (((w * 256 + x) * 256 + y) * 256 + z) % 256 = z := by
  have cut {m n : Nat} (fits : n < 256) : (m * 256 + n) / 256 = m ∧ (m * 256 + n) % 256 = n := by omega
  rewrite [(cut fitsZ).1, (cut fitsY).1, (cut fitsX).1, (cut fitsX).2, (cut fitsY).2, (cut fitsZ).2]
  exact ⟨Nat.mod_eq_of_lt fitsW, rfl, rfl, rfl⟩

/-- Three flags as the lowest bits of a number. -/
def flagSum (x y z : Bool) : Nat := (if x then 1 else 0) + (if y then 2 else 0) + (if z then 4 else 0)

theorem flagSum_bits (x y z : Bool) :
    flagSum x y z < 8 ∧ (flagSum x y z).testBit 0 = x ∧ (flagSum x y z).testBit 1 = y ∧ (flagSum x y z).testBit 2 = z := by
  revert x y z
  decide

/-- The clip mask as bits, the last channel first. -/
theorem clipByte_eq (m : PerChannel Bool) : clipByte m
    = Nat.bit m.va (Nat.bit m.vb (Nat.bit m.vc (Nat.bit m.vx (Nat.bit m.ia (Nat.bit m.ib (Nat.bit m.ic 0)))))) := by
  have place (v : Bool) (k : Nat) : (if v = true then 2 ^ k else 0) = 2 ^ k * v.toNat := by
    cases v <;> simp
  have sum : clipByte m = 0 + 2 ^ 0 * m.va.toNat + 2 ^ 1 * m.vb.toNat + 2 ^ 2 * m.vc.toNat + 2 ^ 3 * m.vx.toNat
      + 2 ^ 4 * m.ia.toNat + 2 ^ 5 * m.ib.toNat + 2 ^ 6 * m.ic.toNat := by
    rewrite [← place, ← place, ← place, ← place, ← place, ← place, ← place]
    rfl
  rewrite [sum]
  simp only [Nat.bit_val]
  omega

theorem clipByte_bits (m : PerChannel Bool) :
    clipByte m < 256 ∧ ∀ c : Channel, (clipByte m).testBit (channelCode c) = m.get c := by
  rewrite [clipByte_eq]
  refine ⟨?_, fun c => ?_⟩
  · have small (v : Bool) {n k : Nat} (h : n < k) : Nat.bit v n < 2 * k := by
      have := v.toNat_lt
      rewrite [Nat.bit_val]
      omega
    exact (small _ (small _ (small _ (small _ (small _ (small _ (small _ (by decide : 0 < 1)))))))).trans (by decide)
  · cases c <;> simp only [channelCode, Channel.position, Nat.reduceSub, Nat.testBit_bit_succ, Nat.testBit_bit_zero,
      PerChannel.get]

/-! ### The bytes of a report record (Table 12-7) -/

theorem record_layout (r : LogRecord) :
    Stands r.bytes 0 (byteOf r.body.fields.1) ∧ Stands r.bytes 1 (byteOf r.shot) ∧ Stands r.bytes 2 (byteOf r.flagByte)
    ∧ Stands r.bytes 3 (bytesOf 4 r.time) ∧ Stands r.bytes 7 (padTo 17 r.body.fields.2) := by
  have layout : Stands r.bytes 0 (byteOf r.body.fields.1 ++ byteOf r.shot ++ byteOf r.flagByte ++ bytesOf 4 r.time
    ++ padTo 17 r.body.fields.2) := stands_of_eq rfl
  simp only [stands_append, List.length_append, byteOf_length, bytesOf_length, Nat.reduceAdd] at layout
  obtain ⟨⟨⟨⟨kind, shot⟩, flags⟩, time⟩, rest⟩ := layout
  exact ⟨kind, shot, flags, time, rest⟩

theorem portCode_lt (p : Port) : portCode p < 256 := by cases p <;> decide
theorem modeCode_lt (m : StartMode) : modeCode m < 256 := by cases m <;> simp [modeCode]
theorem lockCode_lt (q : LockState) : lockCode q < 256 := by cases q <;> decide
theorem sourceCode_lt (c : OutputSource) : sourceCode c < 256 := by cases c <;> decide
theorem poleCode_lt (p : Pole) : poleCode p < 256 := by cases p <;> decide
theorem outcomeCode_lt (c : BreakerOutcome) : outcomeCode c < 256 := by cases c <;> decide
theorem verdictCode_lt (v : Verdict) : verdictCode v < 256 := by cases v <;> decide
theorem tpKindCode_lt (k : TpEventKind) : tpKindCode k < 256 := by cases k <;> decide
theorem quantityCode_lt (q : Quantity) : quantityCode q < 256 := by cases q <;> decide
theorem channelCode_lt (c : Channel) : channelCode c < 256 := by cases c <;> decide

theorem targetCode_lt (t : Target) : targetCode t < 256 := by
  cases t with
  | channel c => exact channelCode_lt c
  | group g => cases g <;> decide

theorem index_lt {k : Nat} (i : Fin k) (fits : k ≤ 256) : i.val < 256 := Nat.lt_of_lt_of_le i.isLt fits

section Fields

variable {t : Option AbsTime}

theorem shotStart_fields {p : Port} {m : StartMode} {q : LockState} (fits : ∀ u, t = some u → u < daySpan)
    (kind : fieldAt b 0 1 = 1) (rest : Stands b 7 (padTo 17 (RecordBody.shotStart p m q t).fields.2)) :
    KindFieldsAt b (.shotStart p m q t) := by
  cases t with
  | none =>
    simp only [RecordBody.fields, Option.map_none, Option.getD_none, List.append_nil, stands_padTo, stands_append,
      List.length_append, byteOf_length, Nat.reduceAdd, Nat.reduceLeDiff, Nat.reduceSub] at rest
    obtain ⟨⟨⟨port, mode⟩, lock⟩, zeros⟩ := rest
    refine ⟨kind, port.byte (portCode_lt p), mode.byte (modeCode_lt m), lock.byte (lockCode_lt q), ?_,
      zerosAt zeros 7 (by decide)⟩
    rw [timeAt, zerosAt zeros 0 (by decide), zerosAt zeros 4 (by decide)]
    rfl
  | some u =>
    simp only [RecordBody.fields, Option.map_some, Option.getD_some, stands_padTo, stands_append, List.length_append,
      byteOf_length, timeBytes_length, Nat.reduceAdd, Nat.reduceLeDiff, Nat.reduceSub] at rest
    obtain ⟨⟨⟨⟨port, mode⟩, lock⟩, time⟩, zeros⟩ := rest
    exact ⟨kind, port.byte (portCode_lt p), mode.byte (modeCode_lt m), lock.byte (lockCode_lt q), time.time (fits u rfl),
      zeros.zeros⟩

theorem verdict_fields {w : VerdictCounts} (counts : Stands b 14 (bytesOf 4 w.packed)) (fits : w.pass < 16 ∧ w.early < 16
      ∧ w.late < 16 ∧ w.noTrip < 16 ∧ w.unexpected < 16 ∧ w.alreadyActive < 16 ∧ w.aborted < 16) :
    fieldAt b 14 1 = w.pass * 16 + w.early ∧ fieldAt b 15 1 = w.late * 16 + w.noTrip
    ∧ fieldAt b 16 1 = w.unexpected * 16 + w.alreadyActive ∧ fieldAt b 17 1 = w.aborted * 16 := by
  rewrite [bytesOf_four] at counts
  simp only [stands_append, List.length_append, byteOf_length, Nat.reduceAdd] at counts
  obtain ⟨⟨⟨first, second⟩, third⟩, fourth⟩ := counts
  rewrite [lowByte first, lowByte second, lowByte third, lowByte fourth]
  obtain ⟨pass, early, late, noTrip, unexpected, alreadyActive, aborted⟩ := fits
  have packed : w.packed = (((w.pass * 16 + w.early) * 256 + (w.late * 16 + w.noTrip)) * 256
      + (w.unexpected * 16 + w.alreadyActive)) * 256 + w.aborted * 16 := by
    show (((((((0 * 16 + w.pass) * 16 + w.early) * 16 + w.late) * 16 + w.noTrip) * 16 + w.unexpected) * 16
      + w.alreadyActive) * 16 + w.aborted) * 16 + 0 = _
    omega
  rewrite [packed]
  have first : w.pass * 16 + w.early < 256 := by omega
  have second : w.late * 16 + w.noTrip < 256 := by omega
  have third : w.unexpected * 16 + w.alreadyActive < 256 := by omega
  have fourth : w.aborted * 16 < 256 := by omega
  exact bytes_of_four first second third fourth

theorem shotEnd_fields {e : EndCause} {secondary : Option AbortCause} {lost : Nat} {saturated : Bool}
    {clips : PerChannel Bool} {w : VerdictCounts} {q : Quality}
    (fits : BodyInRange (.shotEnd e secondary lost saturated clips w q)) (kind : fieldAt b 0 1 = 12)
    (rest : Stands b 7 (padTo 17 (RecordBody.shotEnd e secondary lost saturated clips w q).fields.2)) :
    KindFieldsAt b (.shotEnd e secondary lost saturated clips w q) := by
  obtain ⟨fitsLost, fits⟩ := fits
  obtain ⟨clipsFit, bits⟩ := clipByte_bits clips
  simp only [RecordBody.fields, stands_padTo, stands_append, List.length_append, byteOf_length, bytesOf_length,
    Nat.reduceAdd, Nat.reduceLeDiff, Nat.reduceSub] at rest
  obtain ⟨⟨⟨⟨⟨⟨cause, second⟩, number⟩, clip⟩, counts⟩, quality⟩, zeros⟩ := rest
  obtain ⟨first, next, third, fourth⟩ := verdict_fields counts fits
  refine ⟨kind, cause.byte (endCode_lt e), second.byte ?_, number.number fitsLost, fun c => ?_, first, next, third, fourth,
    quality.byte ?_, zeros.zeros⟩
  · cases secondary with
    | none => decide
    | some c => exact abortCode_lt c
  · rewrite [clip.byte clipsFit]
    exact bits c
  · cases q <;> decide

theorem fitsSigned_four {v : Int} (low : -2147483648 ≤ v) (high : v < 2147483648) : fitsSigned 4 v = true :=
  decide_eq_true ⟨low, high⟩

/-- The bytes 7 onward of each kind (Table 12-7). -/
theorem kindFields {body : RecordBody} (fits : BodyInRange body) (kind : fieldAt b 0 1 = body.fields.1)
    (rest : Stands b 7 (padTo 17 body.fields.2)) : KindFieldsAt b body := by
  cases body with
  | shotStart p m q t => exact shotStart_fields fits kind rest
  | shotEnd e secondary lost saturated clips w q => exact shotEnd_fields fits kind rest
  | stateEntry i c d =>
    simp only [RecordBody.fields, stands_padTo, stands_append, List.length_append, byteOf_length, Nat.reduceAdd,
      Nat.reduceLeDiff, Nat.reduceSub] at rest
    obtain ⟨⟨state, cause⟩, zeros⟩ := rest
    exact ⟨kind, state.byte (index_lt i (by decide)), cause.byte (entryCode_lt c), zeros.zeros⟩
  | inputChange i level remote t =>
    simp only [RecordBody.fields, stands_padTo, stands_append, List.length_append, byteOf_length, boolByte_length,
      timeBytes_length, Nat.reduceAdd, Nat.reduceLeDiff, Nat.reduceSub] at rest
    obtain ⟨⟨⟨⟨input, value⟩, far⟩, time⟩, zeros⟩ := rest
    obtain ⟨known, day⟩ := fits
    exact ⟨kind, input.byte known, value.bool, far.bool, time.time day, zeros.zeros⟩
  | outputChange i level src =>
    simp only [RecordBody.fields, stands_padTo, stands_append, List.length_append, byteOf_length, boolByte_length,
      Nat.reduceAdd, Nat.reduceLeDiff, Nat.reduceSub] at rest
    obtain ⟨⟨⟨output, value⟩, source⟩, zeros⟩ := rest
    exact ⟨kind, output.byte (by omega), value.bool, source.byte (sourceCode_lt src), zeros.zeros⟩
  | breakerOp p c d =>
    simp only [RecordBody.fields, stands_padTo, stands_append, List.length_append, byteOf_length, Nat.reduceAdd,
      Nat.reduceLeDiff, Nat.reduceSub] at rest
    obtain ⟨⟨pole, outcome⟩, zeros⟩ := rest
    exact ⟨kind, pole.byte (poleCode_lt p), outcome.byte (outcomeCode_lt c), zeros.zeros⟩
  | assessment i number v m low high =>
    simp only [RecordBody.fields, stands_padTo, stands_append, List.length_append, byteOf_length, bytesOf_length,
      Nat.reduceAdd, Nat.reduceLeDiff, Nat.reduceSub] at rest
    obtain ⟨⟨⟨⟨⟨⟨state, entry⟩, verdict⟩, least⟩, most⟩, measured⟩, zeros⟩ := rest
    obtain ⟨known, fitsLow, fitsHigh, fitsMeasured⟩ := fits
    refine ⟨kind, state.byte (index_lt i (by decide)), entry.byte known, verdict.byte (verdictCode_lt v),
      least.number fitsLow, most.number fitsHigh, measured.number ?_, zeros.zeros⟩
    cases m with
    | none => decide
    | some x => exact fitsMeasured x rfl
  | rampResult i t q v =>
    simp only [RecordBody.fields, stands_padTo, stands_append, List.length_append, byteOf_length, boolByte_length,
      signedBytes_length, Nat.reduceAdd, Nat.reduceLeDiff, Nat.reduceSub] at rest
    obtain ⟨⟨⟨⟨⟨state, target⟩, quantity⟩, outcome⟩, value⟩, zeros⟩ := rest
    refine ⟨kind, state.byte (index_lt i (by decide)), target.byte (targetCode_lt t), quantity.byte (quantityCode_lt q),
      outcome.bool.trans ?_, value.signed ?_, zeros.zeros⟩
    · cases v <;> rfl
    · cases v with
      | none => decide
      | some x => exact fitsSigned_four (fits x rfl).1 (fits x rfl).2
  | adjust t q v p =>
    simp only [RecordBody.fields, stands_padTo, stands_append, List.length_append, byteOf_length, signedBytes_length,
      Nat.reduceAdd, Nat.reduceLeDiff, Nat.reduceSub] at rest
    obtain ⟨⟨⟨⟨target, quantity⟩, port⟩, value⟩, zeros⟩ := rest
    exact ⟨kind, target.byte (targetCode_lt t), quantity.byte (quantityCode_lt q), port.byte (portCode_lt p),
      value.signed (fitsSigned_four fits.1 fits.2), zeros.zeros⟩
  | clip c i =>
    simp only [RecordBody.fields, stands_padTo, stands_append, List.length_append, byteOf_length, Nat.reduceAdd,
      Nat.reduceLeDiff, Nat.reduceSub] at rest
    obtain ⟨⟨channel, state⟩, zeros⟩ := rest
    exact ⟨kind, channel.byte (channelCode_lt c), state.byte (index_lt i (by decide)), zeros.zeros⟩
  | tpEvent k =>
    simp only [RecordBody.fields, stands_padTo, byteOf_length, Nat.reduceAdd, Nat.reduceLeDiff, Nat.reduceSub] at rest
    exact ⟨kind, rest.1.byte (tpKindCode_lt k), rest.2.zeros⟩
  | abort c d =>
    simp only [RecordBody.fields, stands_padTo, byteOf_length, Nat.reduceAdd, Nat.reduceLeDiff, Nat.reduceSub] at rest
    exact ⟨kind, rest.1.byte (abortCode_lt c), rest.2.zeros⟩

end Fields

theorem record_length (r : LogRecord) : r.bytes.length = 24 := by
  simp only [LogRecord.bytes, List.length_append, byteOf_length, bytesOf_length, padTo_length]

theorem reportRecordBytes : ReportRecordBytes := fun r shot time fits => by
  obtain ⟨kind, number, flags, instant, rest⟩ := record_layout r
  obtain ⟨small, bits⟩ := flagSum_bits r.degraded r.body.ownFlag r.body.hasOptional
  have flags : fieldAt r.bytes 2 1 = flagSum r.degraded r.body.ownFlag r.body.hasOptional := flags.byte (small.trans (by decide))
  have kind := kind.byte (by cases r.body <;> simp [RecordBody.fields])
  rewrite [flags]
  exact ⟨record_length r, kindFields fits kind rest, number.byte shot, instant.number time, small, bits⟩

/-! ### The bytes of a state record, and their number (Table 12-6) -/

@[simp] theorem channel_length (e : ChannelEntry) : e.bytes.length = 11 := by simp [ChannelEntry.bytes]

@[simp] theorem stateRecord_length (r : StateRecord) : (StateRecord.bytes r).length = 216 := by simp [StateRecord.bytes]

/-! ### What a transaction clocks out (R168, Table 12-5) -/

theorem padTo_getElem? {x : List Byte} {k : Nat} (lt : k < len) : (padTo len x)[k]? = some (x.getD k 0#8) := by
  rewrite [padTo, List.getElem?_take_of_lt lt, List.getD_eq_getElem?_getD]
  by_cases held : k < x.length
  · rw [List.getElem?_append_left held, List.getElem?_eq_getElem held, Option.getD_some]
  · rewrite [List.getElem?_append_right (by omega), List.getElem?_replicate, if_pos (by omega),
      List.getElem?_eq_none (by omega)]
    rfl

theorem data_length (q : Response) : q.dataBytes.length ≤ 250 := List.length_take_le _ _

theorem statusCode_lt (st : Status) : st.code < 256 := by cases st <;> decide

theorem responsesAreClockedOut : ResponsesAreClockedOut := by
  rintro s p sent q rfl
  have short := data_length (s.ports.get p).response
  refine ⟨rfl, short, clockedOut_length _ _, fun k lt => ?_⟩
  have out : (s.transaction p sent).1[k]? = some ((s.ports.get p).response.bytes.getD k 0#8) := padTo_getElem? lt
  rewrite [out]
  match k with
  | 0 => exact congrArg some (byte_toNat (statusCode_lt _))
  | 1 => exact congrArg some (byte_toNat (by omega))
  | k + 2 => exact congrArg some rfl

/-! ### The data of some answers -/

theorem dataBytes_eq {st : Status} {d : RespData} (fits : d.bytes.length ≤ 250) : (Response.mk st d).dataBytes = d.bytes :=
  List.take_of_length_le fits

theorem tagCode_lt (tag : Option Port) : tagCode tag < 256 := by
  cases tag with
  | none => decide
  | some p => cases p <;> decide

theorem recordFound_bytes (st : Status) (revision : Nat) (tag : Option Port) (r : StateRecord) :
    (Response.mk st (.record revision tag (some r))).dataBytes
      = bytesOf 2 revision ++ byteOf (tagCode tag) ++ boolByte true ++ StateRecord.bytes r :=
  dataBytes_eq (by simp [RespData.bytes])

theorem recordMissing_bytes (st : Status) (revision : Nat) (tag : Option Port) :
    (Response.mk st (.record revision tag none)).dataBytes = bytesOf 2 revision ++ byteOf (tagCode tag) ++ boolByte false :=
  (dataBytes_eq (by simp [RespData.bytes])).trans (List.append_nil _)

theorem records_length (records : List LogRecord) : (records.flatMap LogRecord.bytes).length = 24 * records.length := by
  induction records with
  | nil => rfl
  | cons r rest ih =>
    rewrite [List.flatMap_cons, List.length_append, record_length, ih, List.length_cons]
    omega

theorem records_stand {records : List LogRecord} (h : Stands b o (records.flatMap LogRecord.bytes)) {k : Nat} {r : LogRecord}
    (found : records[k]? = some r) : Stands b (o + 24 * k) r.bytes := by
  induction records generalizing o k with
  | nil => cases found
  | cons x rest ih =>
    rewrite [List.flatMap_cons, stands_append, record_length] at h
    cases k with
    | zero =>
      rewrite [List.getElem?_cons_zero] at found
      cases found
      exact h.1
    | succ k =>
      have later := ih h.2 ((List.getElem?_cons_succ (l := rest) (a := x)).symm.trans found)
      rwa [Nat.add_assoc, Nat.add_comm 24, ← Nat.mul_succ] at later

theorem page_bytes (st : Status) (name : PageName) (number : Nat) (cause : HandoverCause) (count : Nat)
    {records : List LogRecord} (few : records.length ≤ 8) :
    (Response.mk st (.page name number (some cause) count records)).dataBytes
      = byteOf (pageCode name) ++ bytesOf 2 number ++ byteOf (handoverCode cause) ++ byteOf count
        ++ records.flatMap LogRecord.bytes := by
  refine dataBytes_eq ?_
  simp only [RespData.bytes, List.length_append, byteOf_length, bytesOf_length, records_length]
  omega

theorem pageIsRead (st : Status) (name : PageName) (number : Nat) (cause : HandoverCause) (count : Nat)
    (records : List LogRecord) (fitsNumber : number < 65536) (fitsCount : count < 256) (few : records.length ≤ 8)
    (written : b = (Response.mk st (.page name number (some cause) count records)).dataBytes) :
    b.length = 5 + 24 * records.length ∧ fieldAt b 0 1 = pageCode name ∧ fieldAt b 1 2 = number
    ∧ fieldAt b 3 1 = handoverCode cause ∧ fieldAt b 4 1 = count
    ∧ ∀ k r, records[k]? = some r → (b.drop (5 + 24 * k)).take 24 = LogRecord.bytes r := by
  rewrite [page_bytes st name number cause count few] at written
  have layout := stands_of_eq written.symm
  simp only [stands_append, List.length_append, byteOf_length, bytesOf_length, Nat.reduceAdd] at layout
  obtain ⟨⟨⟨⟨page, order⟩, why⟩, size⟩, held⟩ := layout
  refine ⟨?_, page.byte (by cases name <;> decide), order.number fitsNumber, why.byte (by cases cause <;> decide),
    size.byte fitsCount, fun k r found => ?_⟩
  · simp only [written, List.length_append, byteOf_length, bytesOf_length, records_length]
  · have stands := records_stand held found
    unfold Stands at stands
    rwa [record_length] at stands

theorem dataOfAnswers : DataOfAnswers := by
  refine ⟨fun st => rfl, fun st revision tag r fits => ?_, fun st revision tag fits => ?_,
    fun st name number cause count records fitsNumber fitsCount few =>
      pageIsRead st name number cause count records fitsNumber fitsCount few rfl⟩
  · have layout := stands_of_eq (recordFound_bytes st revision tag r).symm
    simp only [stands_append, List.length_append, byteOf_length, bytesOf_length, boolByte_length, Nat.reduceAdd] at layout
    obtain ⟨⟨⟨number, code⟩, mark⟩, held⟩ := layout
    refine ⟨by simp [recordFound_bytes], number.number fits, code.byte (tagCode_lt tag), mark.bool, ?_⟩
    rw [recordFound_bytes]
    exact List.drop_left' (by simp)
  · have layout := stands_of_eq (recordMissing_bytes st revision tag).symm
    simp only [stands_append, List.length_append, byteOf_length, bytesOf_length, Nat.reduceAdd] at layout
    obtain ⟨⟨number, code⟩, mark⟩ := layout
    exact ⟨by simp [recordMissing_bytes], number.number fits, code.byte (tagCode_lt tag), mark.bool⟩

set_option Elab.async false in
/-- Settles O60. -/
theorem bytesOfRecordsAndResponses : Obligations.BytesOfRecordsAndResponses :=
  ⟨reportRecordBytes, responsesAreClockedOut, dataOfAnswers⟩

end Sys2Proof.Proofs.ReportBytes
end

section
/-! PROOF. State records read back from their 216 bytes (O58). -/

namespace Sys2Proof.Proofs.RecordBytes

open Sys2Proof Sys2Proof.Machine Sys2Proof.Proofs.Layouts Sys2Proof.Proofs.PeerBytes Sys2Proof.Proofs.ReportBytes
  Sys2Proof.Proofs.Invariants Sys2Proof.Proofs.Checking

variable {b : List Byte} {o : Nat}

/-! ### Codes that are known are written as they were read (12.5) -/

theorem linkCode_stored {n : Nat} (known : (BreakerLink.ofCode n).isSome = true) :
    linkCode ((BreakerLink.ofCode n).getD .configured) = n := by
  match n with
  | 0 | 1 | 2 | 3 | 4 => rfl
  | n + 5 => cases known

theorem nextCode_stored {n : Nat} (known : (Next.ofCode n).isSome = true) : nextCode ((Next.ofCode n).getD .finish) = n := by
  unfold Next.ofCode at known ⊢
  split at known
  next state => rw [dif_pos state]; rfl
  next above =>
    split at known
    next finish => rw [dif_neg above, if_pos finish]; exact finish.symm
    next => cases known

theorem channelCode_stored {n : Nat} (known : (Channel.ofCode n).isSome = true) :
    channelCode ((Channel.ofCode n).getD .va) = n := by
  match n with
  | 0 | 1 | 2 | 3 | 4 | 5 | 6 => rfl
  | n + 7 => cases known

theorem targetCode_stored {n : Nat} (known : (Target.ofCode n).isSome = true) :
    targetCode ((Target.ofCode n).getD (.channel .va)) = n := by
  match n with
  | 0 | 1 | 2 | 3 | 4 | 5 | 6 | 7 | 8 => rfl
  | n + 9 => rw [target_unknown.2 (by omega)] at known; cases known

theorem quantityCode_stored {n : Nat} (known : (Quantity.ofCode n).isSome = true) :
    quantityCode ((Quantity.ofCode n).getD .amplitude) = n := by
  match n with
  | 0 | 1 | 2 => rfl
  | n + 3 => cases known

theorem expectationCode_stored {n : Nat} (known : (Expectation.ofCode n).isSome = true) :
    expectationCode ((Expectation.ofCode n).getD .mustTrip) = n := by
  match n with
  | 0 | 1 => rfl
  | n + 2 => cases known

theorem outputCode_stored {n : Nat} (known : (outputOfCode n).isSome = true) : ((outputOfCode n).getD 0).val + 1 = n := by
  unfold outputOfCode at known ⊢
  split at known
  next output =>
    rewrite [dif_pos output]
    exact Nat.sub_add_cancel output.1
  next => cases known

theorem level_stored {n : Nat} (known : n ≤ 1) : (if (n == 1) = true then 1 else 0) = n := by
  match n with
  | 0 | 1 => rfl

/-! ### Each part read where it stands (Table 12-6) -/

theorem fits_of {len n : Nat} (h : fitsBytes len n = true) : n < 256 ^ len := of_decide_eq_true h

theorem channel_read {e : RawChannel} (h : Stands b o (RawChannel.stored e).bytes) (fits : e.wellFormed = true)
    (known : (BreakerLink.ofCode e.link).isSome = true) : channelAt b o = e := by
  simp only [RawChannel.wellFormed, Bool.and_eq_true] at fits
  obtain ⟨⟨⟨⟨amplitude, phase⟩, frequency⟩, tau⟩, link⟩ := fits
  simp only [RawChannel.stored, ChannelEntry.bytes, linkCode_stored known, stands_append, List.length_append, bytesOf_length,
    signedBytes_length, Nat.reduceAdd] at h
  obtain ⟨⟨⟨⟨amplitudeAt, phaseAt⟩, frequencyAt⟩, tauAt⟩, linkAt⟩ := h
  rw [channelAt, amplitudeAt.number (fits_of amplitude), phaseAt.signed phase, frequencyAt.number (fits_of frequency),
    tauAt.number (fits_of tau), linkAt.byte (fits_of link)]

theorem condition_read {c : RawCondition} (h : Stands b o (RawCondition.stored c).bytes) (fits : c.wellFormed = true)
    (known : (Next.ofCode c.next).isSome = true) : conditionAt b o = c := by
  simp only [RawCondition.wellFormed, Bool.and_eq_true] at fits
  obtain ⟨hold, next⟩ := fits
  simp only [RawCondition.stored, Condition.bytes, nextCode_stored known, stands_append, List.length_append, bytesOf_length,
    Nat.reduceAdd] at h
  obtain ⟨⟨⟨enableAt, valueAt⟩, holdAt⟩, nextAt⟩ := h
  rw [conditionAt, enableAt.mask, valueAt.mask, holdAt.number (fits_of hold), nextAt.byte (fits_of next)]

theorem ramp_read {r : RawRamp} (h : Stands b o (RawRamp.stored r).bytes) (fits : r.wellFormed = true)
    (target : (Target.ofCode r.target).isSome = true) (quantity : (Quantity.ofCode r.quantity).isSome = true) :
    rampAt b o = r := by
  simp only [RawRamp.wellFormed, Bool.and_eq_true] at fits
  obtain ⟨⟨⟨⟨⟨fitsTarget, fitsQuantity⟩, start⟩, step⟩, limit⟩, dwell⟩ := fits
  simp only [RawRamp.stored, Ramp.bytes, targetCode_stored target, quantityCode_stored quantity, stands_append,
    List.length_append, byteOf_length, bytesOf_length, signedBytes_length, Nat.reduceAdd] at h
  obtain ⟨⟨⟨⟨⟨⟨targetAt, quantityAt⟩, startAt⟩, stepAt⟩, limitAt⟩, dwellAt⟩, stopAt⟩ := h
  rw [rampAt, targetAt.byte (fits_of fitsTarget), quantityAt.byte (fits_of fitsQuantity), startAt.signed start,
    stepAt.signed step, limitAt.signed limit, dwellAt.number (fits_of dwell), stopAt.mask]

theorem assessment_read {a : RawAssessment} (h : Stands b o (RawAssessment.stored a).bytes) (fits : a.wellFormed = true)
    (known : (Expectation.ofCode a.expectation).isSome = true) : assessmentAt b o = a := by
  simp only [RawAssessment.wellFormed, Bool.and_eq_true] at fits
  obtain ⟨⟨⟨expectation, nominal⟩, tolerance⟩, permille⟩ := fits
  simp only [RawAssessment.stored, Assessment.bytes, expectationCode_stored known, stands_append, List.length_append,
    byteOf_length, bytesOf_length, Nat.reduceAdd] at h
  obtain ⟨⟨⟨⟨maskAt, expectationAt⟩, nominalAt⟩, toleranceAt⟩, permilleAt⟩ := h
  rw [assessmentAt, maskAt.mask, expectationAt.byte (fits_of expectation), nominalAt.number (fits_of nominal),
    toleranceAt.number (fits_of tolerance), permilleAt.number (fits_of permille)]

theorem action_read {a : RawAction} (h : Stands b o (RawAction.stored a).bytes) (fits : a.wellFormed = true)
    (known : (outputOfCode a.output).isSome = true) (level : a.level ≤ 1) : actionAt b o = a := by
  simp only [RawAction.wellFormed, Bool.and_eq_true] at fits
  obtain ⟨⟨output, -⟩, delay⟩ := fits
  simp only [RawAction.stored, OutputAction.bytes, outputCode_stored known, stands_append, List.length_append, byteOf_length,
    boolByte_length, bytesOf_length, Nat.reduceAdd] at h
  obtain ⟨⟨⟨outputAt, levelAt⟩, delayAt⟩, onceAt⟩ := h
  rw [actionAt, outputAt.byte (fits_of output), levelAt.bool, level_stored level, delayAt.number (fits_of delay),
    onceAt.bool, bool_read]

/-! ### Lists of entries -/

section Entries

variable {α β : Type} {l : List α} {width : Nat} {stored : α → β} {bytes : β → List Byte} {read : List Byte → Nat → α}

theorem entry_read (h : Stands b o ((l.map stored).flatMap bytes)) (wide : ∀ x, (bytes x).length = width)
    (each : ∀ x ∈ l, ∀ o, Stands b o (bytes (stored x)) → read b o = x) {k : Nat} (lt : k < l.length) :
    read b (o + width * k) = l[k] := by
  induction l generalizing o k with
  | nil => cases lt
  | cons x rest ih =>
    rewrite [List.map_cons, List.flatMap_cons, stands_append, wide] at h
    cases k with
    | zero => exact each x (List.mem_cons_self ..) o h.1
    | succ k =>
      have later := ih h.2 (fun y mem => each y (List.mem_cons_of_mem x mem)) (Nat.lt_of_succ_lt_succ lt)
      rwa [Nat.add_assoc, Nat.add_comm width, ← Nat.mul_succ] at later

/-- The four places of a list. -/
def fourAt (read : List Byte → Nat → α) (b : List Byte) (o width : Nat) : List α :=
  [read b o, read b (o + width * 1), read b (o + width * 2), read b (o + width * 3)]

theorem fourAt_take {count : Nat} (h : Stands b o (((l.take count).map stored).flatMap bytes))
    (wide : ∀ x, (bytes x).length = width) (four : l.length = 4) (few : count ≤ 4)
    (each : ∀ x ∈ l.take count, ∀ o, Stands b o (bytes (stored x)) → read b o = x) :
    (fourAt read b o width).take count = l.take count := by
  have places : fourAt read b o width = (List.range 4).map fun k => read b (o + width * k) := rfl
  have size : (l.take count).length = count := by rw [List.length_take, four, Nat.min_eq_left few]
  rewrite [places]
  refine List.ext_getElem (by simp [four]) fun k lt lt' => ?_
  rewrite [List.getElem_take, List.getElem_map, List.getElem_range]
  exact entry_read h wide each lt'

theorem entries_length (wide : ∀ x, (bytes x).length = width) (l : List β) : (l.flatMap bytes).length = width * l.length := by
  induction l with
  | nil => rfl
  | cons x rest ih => rw [List.flatMap_cons, List.length_append, wide, ih, List.length_cons, Nat.mul_succ, Nat.add_comm]

set_option Elab.async false in
theorem entries_stand {pad : Nat} {l : List β} (h : Stands b o (padTo pad (l.flatMap bytes)))
    (wide : ∀ x, (bytes x).length = width) (few : l.length ≤ 4) (room : width * 4 ≤ pad) : Stands b o (l.flatMap bytes) := by
  refine ((stands_padTo ?_).1 h).1
  rewrite [entries_length wide]
  exact (Nat.mul_le_mul_left width few).trans room

end Entries

end Sys2Proof.Proofs.RecordBytes
end

section
/-! PROOF. Stored records written as bytes and read back (O58). -/

namespace Sys2Proof.Proofs.RecordRoundTrip

open Sys2Proof Sys2Proof.Machine Sys2Proof.Proofs.Layouts Sys2Proof.Proofs.PeerBytes Sys2Proof.Proofs.ReportBytes
  Sys2Proof.Proofs.Invariants Sys2Proof.Proofs.Checking Sys2Proof.Proofs.RecordBytes

variable {b : List Byte} {raw w : RawRecord} {cfg : PerChannel ChannelConfig} {index n : Nat}

/-! ### What the checks say of the codes (R12) -/

theorem conditions_known {l : List RawCondition} (h : ∀ x ∈ conditionChecks n l, x.passes = true) :
    ∀ c ∈ l, (Next.ofCode c.next).isSome = true := by
  induction l generalizing n with
  | nil => exact fun c mem => absurd mem List.not_mem_nil
  | cons d rest ih =>
    simp only [conditionChecks, List.forall_mem_cons] at h ⊢
    exact ⟨h.2.1, ih h.2.2⟩

theorem assessments_known {l : List RawAssessment} (h : ∀ x ∈ assessmentChecks n l, x.passes = true) :
    ∀ a ∈ l, (Expectation.ofCode a.expectation).isSome = true := by
  induction l generalizing n with
  | nil => exact fun a mem => absurd mem List.not_mem_nil
  | cons d rest ih =>
    simp only [assessmentChecks, List.forall_mem_cons] at h ⊢
    exact ⟨h.2.1, ih h.2.2.2.2.2⟩

theorem actions_known {l : List RawAction} (h : ∀ x ∈ actionChecks n l, x.passes = true) :
    ∀ a ∈ l, (outputOfCode a.output).isSome = true ∧ a.level ≤ 1 := by
  induction l generalizing n with
  | nil => exact fun a mem => absurd mem List.not_mem_nil
  | cons d rest ih =>
    simp only [actionChecks, List.forall_mem_cons] at h ⊢
    exact ⟨⟨h.1, of_decide_eq_true h.2.1⟩, ih h.2.2.2⟩

theorem ramp_known {r : RawRamp} (h : ∀ x ∈ rampChecks cfg r, x.passes = true) :
    (Target.ofCode r.target).isSome = true ∧ (Quantity.ofCode r.quantity).isSome = true := by
  cases target : Target.ofCode r.target with
  | none => simp [rampChecks, target] at h
  | some t =>
    cases quantity : Quantity.ofCode r.quantity with
    | none => simp [rampChecks, target, quantity] at h
    | some q => exact ⟨rfl, rfl⟩

theorem link_known {c : Channel} {e : RawChannel} (h : ∀ x ∈ channelChecks cfg c e, x.passes = true) :
    (BreakerLink.ofCode e.link).isSome = true := by
  cases link : BreakerLink.ofCode e.link with
  | none => simp [channelChecks, link] at h
  | some l => rfl

/-- The codes and the counts that a record's bytes depend on, in range. -/
structure CodesKnown (index : Nat) (raw : RawRecord) : Prop where
  index : index < 32
  next : (Next.ofCode raw.timeoutNext).isSome = true
  links : ∀ c, (BreakerLink.ofCode (raw.channels.get c).link).isSome = true
  inception : raw.inceptionPresent = true → (Channel.ofCode raw.inceptionRef).isSome = true
  conditionCount : raw.conditionCount ≤ 4
  conditions : ∀ c ∈ raw.conditions.take raw.conditionCount, (Next.ofCode c.next).isSome = true
  ramp : raw.rampPresent = true →
    (Target.ofCode raw.ramp.target).isSome = true ∧ (Quantity.ofCode raw.ramp.quantity).isSome = true
  assessmentCount : raw.assessmentCount ≤ 4
  assessments : ∀ a ∈ raw.assessments.take raw.assessmentCount, (Expectation.ofCode a.expectation).isSome = true
  actionCount : raw.actionCount ≤ 4
  actions : ∀ a ∈ raw.actions.take raw.actionCount, (outputOfCode a.output).isSome = true ∧ a.level ≤ 1

theorem codesKnown (h : firstFailure (recordChecks cfg index raw) = none) : CodesKnown index raw := by
  have passes := firstFailure_none.1 h
  have links (c : Channel) := link_known fun x mem => passes x (mem_recordChecks_channel cfg index raw c x mem)
  simp only [recordChecks, List.forall_mem_append, List.forall_mem_cons, decide_eq_true_eq] at passes
  obtain ⟨⟨⟨⟨⟨⟨⟨⟨head, inception⟩, conditionCount, -⟩, conditions⟩, ramp⟩, assessmentCount, -⟩, assessments⟩,
    actionCount, -⟩, actions⟩ := passes
  obtain ⟨⟨⟨⟨⟨⟨⟨⟨first, -, next, -⟩, -⟩, -⟩, -⟩, -⟩, -⟩, -⟩, -⟩ := head
  refine ⟨first, next, links, fun present => ?_, conditionCount, conditions_known conditions, fun present => ?_,
    assessmentCount, assessments_known assessments, actionCount, actions_known actions⟩
  · rewrite [if_pos present] at inception
    exact inception _ (List.mem_cons_self ..)
  · rewrite [if_pos present] at ramp
    exact ramp_known ramp

/-! ### Records that agree where they are looked at (R3, R12) -/

/-- Two written records with the same fields, the absent parts and the entries beyond a count not looked at. -/
structure SameLooked (w raw : RawRecord) : Prop where
  frame : w = { raw with inceptionRef := w.inceptionRef, inceptionAngle := w.inceptionAngle, conditions := w.conditions
                         ramp := w.ramp, assessments := w.assessments, actions := w.actions }
  inception : raw.inceptionPresent = true → w.inceptionRef = raw.inceptionRef ∧ w.inceptionAngle = raw.inceptionAngle
  conditions : w.conditions.take raw.conditionCount = raw.conditions.take raw.conditionCount
  ramp : raw.rampPresent = true → w.ramp = raw.ramp
  assessments : w.assessments.take raw.assessmentCount = raw.assessments.take raw.assessmentCount
  actions : w.actions.take raw.actionCount = raw.actions.take raw.actionCount

/-- The parts that are looked at agree, present or not. -/
theorem SameLooked.eq (h : SameLooked w raw) :
    (∀ {α : Type} (f : Nat → Int → α) (x : α), (if w.inceptionPresent = true then f w.inceptionRef w.inceptionAngle else x)
      = if raw.inceptionPresent = true then f raw.inceptionRef raw.inceptionAngle else x)
    ∧ ∀ {α : Type} (f : RawRamp → α) (x : α),
      (if w.rampPresent = true then f w.ramp else x) = if raw.rampPresent = true then f raw.ramp else x := by
  obtain ⟨frame, inception, -, ramp, -⟩ := h
  refine ⟨fun f x => ite_congr (congrArg (·.inceptionPresent = true) frame) (fun present => ?_) fun _ => rfl,
    fun f x => ite_congr (congrArg (·.rampPresent = true) frame) (fun present => ?_) fun _ => rfl⟩
  · rw [(inception present).1, (inception present).2]
  · rw [ramp present]

theorem recordChecks_congr (h : SameLooked w raw) : recordChecks cfg index w = recordChecks cfg index raw := by
  obtain ⟨inceptionPart, rampPart⟩ := h.eq
  obtain ⟨frame, -, conditions, -, assessments, actions⟩ := h
  have conditionCount : w.conditionCount = raw.conditionCount := congrArg (·.conditionCount) frame
  have assessmentCount : w.assessmentCount = raw.assessmentCount := congrArg (·.assessmentCount) frame
  have actionCount : w.actionCount = raw.actionCount := congrArg (·.actionCount) frame
  have duration : w.duration = raw.duration := congrArg (·.duration) frame
  have next : w.timeoutNext = raw.timeoutNext := congrArg (·.timeoutNext) frame
  have channels : w.channels = raw.channels := congrArg (·.channels) frame
  unfold recordChecks
  rw [inceptionPart fun ref angle =>
      [FieldCheck.mk 9 0 (Channel.ofCode ref).isSome, FieldCheck.mk 10 0 (angleInRange angle)],
    rampPart (rampChecks cfg), conditionCount, assessmentCount, actionCount, conditions, assessments, actions, duration, next,
    channels]

theorem stored_congr (h : SameLooked w raw) : RawRecord.stored w = RawRecord.stored raw := by
  obtain ⟨inceptionPart, rampPart⟩ := h.eq
  obtain ⟨frame, -, conditions, -, assessments, actions⟩ := h
  have conditionCount : w.conditionCount = raw.conditionCount := congrArg (·.conditionCount) frame
  have assessmentCount : w.assessmentCount = raw.assessmentCount := congrArg (·.assessmentCount) frame
  have actionCount : w.actionCount = raw.actionCount := congrArg (·.actionCount) frame
  have duration : w.duration = raw.duration := congrArg (·.duration) frame
  have next : w.timeoutNext = raw.timeoutNext := congrArg (·.timeoutNext) frame
  have blocked : w.tpBlocked = raw.tpBlocked := congrArg (·.tpBlocked) frame
  have channels : w.channels = raw.channels := congrArg (·.channels) frame
  unfold RawRecord.stored
  rw [inceptionPart fun ref angle => some (Inception.mk ((Channel.ofCode ref).getD .va) angle),
    rampPart fun r => some (RawRamp.stored r), conditionCount, assessmentCount, actionCount, conditions, assessments, actions,
    duration, next, blocked, channels]

/-! ### The parts of a record's bytes, at their offsets (Table 12-6) -/

/-- The bytes of an inception, if there is one. -/
def inceptionBytes : Option Inception → List Byte
  | some i => byteOf (channelCode i.reference) ++ signedBytes 2 i.angle
  | none => []

/-- The bytes of a ramp, if there is one. -/
def rampBytes : Option Ramp → List Byte
  | some p => p.bytes
  | none => []

theorem recordBytes_eq (r : StateRecord) : StateRecord.bytes r
    = bytesOf 4 r.duration ++ byteOf (nextCode r.timeoutNext) ++ byteOf r.flagByte ++ r.channels.va.bytes
      ++ r.channels.vb.bytes ++ r.channels.vc.bytes ++ r.channels.vx.bytes ++ r.channels.ia.bytes ++ r.channels.ib.bytes
      ++ r.channels.ic.bytes ++ padTo 3 (inceptionBytes r.inception) ++ byteOf r.conditions.length
      ++ padTo 32 (r.conditions.flatMap Condition.bytes) ++ padTo 19 (rampBytes r.ramp) ++ byteOf r.assessments.length
      ++ padTo 52 (r.assessments.flatMap Assessment.bytes) ++ byteOf r.actions.length
      ++ padTo 24 (r.actions.flatMap OutputAction.bytes) := rfl

/-- Where each part of a record stands. -/
structure RecordLayout (b : List Byte) (r : StateRecord) : Prop where
  duration : Stands b 0 (bytesOf 4 r.duration)
  next : Stands b 4 (byteOf (nextCode r.timeoutNext))
  flags : Stands b 5 (byteOf r.flagByte)
  va : Stands b 6 r.channels.va.bytes
  vb : Stands b 17 r.channels.vb.bytes
  vc : Stands b 28 r.channels.vc.bytes
  vx : Stands b 39 r.channels.vx.bytes
  ia : Stands b 50 r.channels.ia.bytes
  ib : Stands b 61 r.channels.ib.bytes
  ic : Stands b 72 r.channels.ic.bytes
  inception : Stands b 83 (padTo 3 (inceptionBytes r.inception))
  conditionCount : Stands b 86 (byteOf r.conditions.length)
  conditions : Stands b 87 (padTo 32 (r.conditions.flatMap Condition.bytes))
  ramp : Stands b 119 (padTo 19 (rampBytes r.ramp))
  assessmentCount : Stands b 138 (byteOf r.assessments.length)
  assessments : Stands b 139 (padTo 52 (r.assessments.flatMap Assessment.bytes))
  actionCount : Stands b 191 (byteOf r.actions.length)
  actions : Stands b 192 (padTo 24 (r.actions.flatMap OutputAction.bytes))

theorem recordLayout (r : StateRecord) : RecordLayout (StateRecord.bytes r) r := by
  have layout := stands_of_eq (recordBytes_eq r).symm
  simp only [stands_append, List.length_append, byteOf_length, bytesOf_length, channel_length, Machine.padTo_length,
    Nat.reduceAdd] at layout
  obtain ⟨⟨⟨⟨⟨⟨⟨⟨⟨⟨⟨⟨⟨⟨⟨⟨⟨duration, next⟩, flags⟩, va⟩, vb⟩, vc⟩, vx⟩, ia⟩, ib⟩, ic⟩, inception⟩, conditionCount⟩, conditions⟩,
    ramp⟩, assessmentCount⟩, assessments⟩, actionCount⟩, actions⟩ := layout
  exact ⟨duration, next, flags, va, vb, vc, vx, ia, ib, ic, inception, conditionCount, conditions, ramp, assessmentCount,
    assessments, actionCount, actions⟩

/-- The widths of a record's fields. -/
structure Widths (raw : RawRecord) : Prop where
  duration : raw.duration < 256 ^ 4
  next : raw.timeoutNext < 256
  channels : ∀ c, (raw.channels.get c).wellFormed = true
  reference : raw.inceptionRef < 256
  angle : fitsSigned 2 raw.inceptionAngle = true
  fourConditions : raw.conditions.length = 4
  conditions : ∀ c ∈ raw.conditions, c.wellFormed = true
  ramp : raw.ramp.wellFormed = true
  fourAssessments : raw.assessments.length = 4
  assessments : ∀ a ∈ raw.assessments, a.wellFormed = true
  fourActions : raw.actions.length = 4
  actions : ∀ a ∈ raw.actions, a.wellFormed = true

theorem widths (h : raw.wellFormed = true) : Widths raw := by
  simp only [RawRecord.wellFormed, Bool.and_eq_true, beq_iff_eq, List.all_eq_true] at h
  obtain ⟨⟨⟨⟨⟨⟨⟨⟨⟨⟨⟨⟨⟨⟨⟨⟨⟨⟨⟨⟨duration, next⟩, va⟩, vb⟩, vc⟩, vx⟩, ia⟩, ib⟩, ic⟩, reference⟩, angle⟩, -⟩, fourConditions⟩, conditions⟩,
    ramp⟩, -⟩, fourAssessments⟩, assessments⟩, -⟩, fourActions⟩, actions⟩ := h
  refine ⟨fits_of duration, fits_of next, fun c => ?_, fits_of reference, angle, fourConditions, conditions, ramp,
    fourAssessments, assessments, fourActions, actions⟩
  cases c with
  | va => exact va
  | vb => exact vb
  | vc => exact vc
  | vx => exact vx
  | ia => exact ia
  | ib => exact ib
  | ic => exact ic

/-! ### The record read back -/

section ReadBack

variable (known : CodesKnown index raw) (fits : Widths raw) (layout : RecordLayout b (RawRecord.stored raw))

include layout in
theorem flags_read : (fieldAt b 5 1).testBit 0 = raw.tpBlocked ∧ (fieldAt b 5 1).testBit 1 = raw.inceptionPresent
    ∧ (fieldAt b 5 1).testBit 2 = raw.rampPresent := by
  have flags : (RawRecord.stored raw).flagByte = flagSum raw.tpBlocked raw.inceptionPresent raw.rampPresent := by
    unfold StateRecord.flagByte flagSum RawRecord.stored
    cases raw.inceptionPresent <;> cases raw.rampPresent <;> rfl
  obtain ⟨small, bits⟩ := flagSum_bits raw.tpBlocked raw.inceptionPresent raw.rampPresent
  have stands := layout.flags
  rewrite [flags] at stands
  rewrite [stands.byte (small.trans (by decide))]
  exact bits

include known fits layout

theorem channels_read : (recordOfBytes b).channels = raw.channels := by
  have channel {o : Nat} (c : Channel) (h : Stands b o (RawChannel.stored (raw.channels.get c)).bytes) :
      channelAt b o = raw.channels.get c := channel_read h (fits.channels c) (known.links c)
  show (PerChannel.mk _ _ _ _ _ _ _ : PerChannel RawChannel) = raw.channels
  rewrite [channel .va layout.va, channel .vb layout.vb, channel .vc layout.vc, channel .vx layout.vx,
    channel .ia layout.ia, channel .ib layout.ib, channel .ic layout.ic]
  rfl

theorem inception_read (present : raw.inceptionPresent = true) :
    fieldAt b 83 1 = raw.inceptionRef ∧ signedAt b 84 2 = raw.inceptionAngle := by
  have stored : (RawRecord.stored raw).inception
      = some { reference := (Channel.ofCode raw.inceptionRef).getD .va, angle := raw.inceptionAngle } := if_pos present
  have stands := layout.inception
  rewrite [stored] at stands
  simp only [inceptionBytes, channelCode_stored (known.inception present), stands_padTo, stands_append, List.length_append,
    byteOf_length, signedBytes_length, Nat.reduceAdd, Nat.reduceLeDiff] at stands
  obtain ⟨⟨reference, angle⟩, -⟩ := stands
  exact ⟨reference.byte fits.reference, angle.signed fits.angle⟩

theorem rampPart_read (present : raw.rampPresent = true) : rampAt b 119 = raw.ramp := by
  have stored : (RawRecord.stored raw).ramp = some (RawRamp.stored raw.ramp) := if_pos present
  have stands := layout.ramp
  rewrite [stored] at stands
  obtain ⟨target, quantity⟩ := known.ramp present
  exact ramp_read ((stands_padTo (by simp [rampBytes, Ramp.bytes])).1 stands).1 fits.ramp target quantity

theorem counts_read : fieldAt b 86 1 = raw.conditionCount ∧ fieldAt b 138 1 = raw.assessmentCount
    ∧ fieldAt b 191 1 = raw.actionCount := by
  have few : raw.conditionCount ≤ 4 ∧ raw.assessmentCount ≤ 4 ∧ raw.actionCount ≤ 4 :=
    ⟨known.conditionCount, known.assessmentCount, known.actionCount⟩
  have conditions := layout.conditionCount
  have assessments := layout.assessmentCount
  have actions := layout.actionCount
  simp only [RawRecord.stored, List.length_map, List.length_take, fits.fourConditions, fits.fourAssessments, fits.fourActions,
    Nat.min_eq_left few.1, Nat.min_eq_left few.2.1, Nat.min_eq_left few.2.2] at conditions assessments actions
  exact ⟨conditions.byte (by omega), assessments.byte (by omega), actions.byte (by omega)⟩

theorem conditions_read : (recordOfBytes b).conditions.take raw.conditionCount = raw.conditions.take raw.conditionCount := by
  have wide (c : Condition) : c.bytes.length = 8 := by simp [Condition.bytes]
  have stands := entries_stand layout.conditions wide (by simp [RawRecord.stored, known.conditionCount]) (by decide)
  exact fourAt_take (stored := RawCondition.stored) (read := conditionAt) stands wide fits.fourConditions known.conditionCount
    fun c mem o h => condition_read h (fits.conditions c (List.mem_of_mem_take mem)) (known.conditions c mem)

theorem assessments_read :
    (recordOfBytes b).assessments.take raw.assessmentCount = raw.assessments.take raw.assessmentCount := by
  have wide (a : Assessment) : a.bytes.length = 13 := by simp [Assessment.bytes]
  have stands := entries_stand layout.assessments wide (by simp [RawRecord.stored, known.assessmentCount]) (by decide)
  exact fourAt_take (stored := RawAssessment.stored) (read := assessmentAt) stands wide fits.fourAssessments
    known.assessmentCount
    fun a mem o h => assessment_read h (fits.assessments a (List.mem_of_mem_take mem)) (known.assessments a mem)

theorem actions_read : (recordOfBytes b).actions.take raw.actionCount = raw.actions.take raw.actionCount := by
  have wide (a : OutputAction) : a.bytes.length = 6 := by simp [OutputAction.bytes]
  have stands := entries_stand layout.actions wide (by simp [RawRecord.stored, known.actionCount]) (by decide)
  exact fourAt_take (stored := RawAction.stored) (read := actionAt) stands wide fits.fourActions known.actionCount
    fun a mem o h =>
      have ⟨output, level⟩ := known.actions a mem
      action_read h (fits.actions a (List.mem_of_mem_take mem)) output level

theorem sameLooked_read : SameLooked (recordOfBytes b) raw := by
  refine ⟨?_, inception_read known fits layout, conditions_read known fits layout, rampPart_read known fits layout,
    assessments_read known fits layout, actions_read known fits layout⟩
  have next := layout.next
  simp only [RawRecord.stored, nextCode_stored known.next] at next
  obtain ⟨blocked, inception, ramp⟩ := flags_read layout
  obtain ⟨conditionCount, assessmentCount, actionCount⟩ := counts_read known fits layout
  have duration : (recordOfBytes b).duration = raw.duration := layout.duration.number fits.duration
  have next : (recordOfBytes b).timeoutNext = raw.timeoutNext := next.byte fits.next
  have blocked : (recordOfBytes b).tpBlocked = raw.tpBlocked := blocked
  have inception : (recordOfBytes b).inceptionPresent = raw.inceptionPresent := inception
  have ramp : (recordOfBytes b).rampPresent = raw.rampPresent := ramp
  have conditionCount : (recordOfBytes b).conditionCount = raw.conditionCount := conditionCount
  have assessmentCount : (recordOfBytes b).assessmentCount = raw.assessmentCount := assessmentCount
  have actionCount : (recordOfBytes b).actionCount = raw.actionCount := actionCount
  rw [← duration, ← next, ← blocked, ← inception, ← ramp, ← conditionCount, ← assessmentCount, ← actionCount,
    ← channels_read known fits layout]

end ReadBack

/-! ### The frame that carries a record (R11, Table 12-1) -/

theorem writeState_read (p : Port) {index expected : Nat} (small : index < 256) (fits : expected < 65536) {b : List Byte}
    (size : b.length = 216) :
    commandOfFrame p ([0x07#8, 219#8] ++ bytesOf 1 index ++ bytesOf 2 expected ++ b)
      = .writeState p index expected (recordOfBytes b) := by
  generalize written : bytesOf 1 index ++ bytesOf 2 expected ++ b = rest
  have frame : [0x07#8, 219#8] ++ bytesOf 1 index ++ bytesOf 2 expected ++ b = 0x07#8 :: 219#8 :: rest := by
    rewrite [← written]
    rfl
  have length : rest.length = 219 := by simp [← written, size]
  have layout := stands_of_eq written
  simp only [stands_append, List.length_append, bytesOf_length, Nat.reduceAdd] at layout
  obtain ⟨⟨first, second⟩, -⟩ := layout
  have record : rest.drop 3 = b := by
    rewrite [← written]
    exact List.drop_left' (by simp)
  have run : commandOfFrame p (0x07#8 :: 219#8 :: rest)
      = if rest.length < 219 then .badFrame p else commandOf p 7 (rest.take 219) := rfl
  rewrite [frame, run, length, if_neg (Nat.lt_irrefl _), List.take_of_length_le (Nat.le_of_eq length)]
  show Instr.writeState p (fieldAt rest 0 1) (fieldAt rest 1 2) (recordOfBytes (rest.drop 3)) = _
  rw [first.number small, second.number fits, record]

set_option Elab.async false in
/-- Settles O58. -/
theorem recordBytesRoundTrip : Obligations.RecordBytesRoundTrip := by
  rintro p cfg index expected raw r wellFormed passes fits rfl
  have known := codesKnown passes
  have same := sameLooked_read known (widths wellFormed) (recordLayout (RawRecord.stored raw))
  have size := stateRecord_length (RawRecord.stored raw)
  exact ⟨size, writeState_read p (known.index.trans (by decide)) fits size, (congrArg firstFailure (recordChecks_congr same)).trans passes,
    stored_congr same⟩

end Sys2Proof.Proofs.RecordRoundTrip
end

section
/-! PROOF. The exit conditions and the list at the entry of a state (O51 and O52, in part). -/

namespace Sys2Proof.Proofs.EntryConditions

open Sys2Proof Sys2Proof.Machine Sys2Proof.Proofs.Consumers

variable {signals : Mask} {now next : Nat} {i k : Fin 4} {l : TimedList}

/-! ### One condition (R31, R32) -/

/-- A condition as the entry of its record leaves it; `next` is the boundary after the entry. -/
def freshCondition (signals : Mask) (next : Nat) (c : Condition) : CondState :=
  { condition := c, truth := c.holds signals
    candidate := if c.holds signals = true ∧ c.hold = 0 then some next else none }

/-- The list once a condition of the entered record has been evaluated at the entry. -/
def freshList (signals : Mask) (now : Nat) (i : Fin 4) (c : Condition) (l : TimedList) : TimedList :=
  if c.holds signals = true then
    (if c.hold = 0 then { l with next := l.next + 1 } else l.place (now + c.hold * 100) (.condition i) (some now))
  else l

theorem evaluate_fresh (c : Condition) (i : Fin 4) (l : TimedList) :
    c.unevaluated.evaluate i signals now now next false now l = (freshCondition signals next c, freshList signals now i c l) := by
  unfold freshCondition freshList
  cases holds : c.holds signals with
  | false =>
    rewrite [evaluate_same (c := c.unevaluated) holds, if_neg fun h => Bool.false_ne_true h.1, if_neg Bool.false_ne_true]
    rfl
  | true =>
    rewrite [if_pos rfl]
    by_cases zero : c.hold = 0
    · have both : true = true ∧ c.hold = 0 := ⟨rfl, zero⟩
      rewrite [evaluate_rises_now (c := c.unevaluated) holds rfl (by show now + c.hold * 100 ≤ now; omega), if_pos both,
        if_pos zero]
      rfl
    · rewrite [evaluate_rises_later (c := c.unevaluated) holds rfl (by show now < now + c.hold * 100; omega),
        if_neg fun h => zero h.2, if_neg zero]
      rfl

/-! ### All conditions of a visit -/

/-- The list once all conditions of the entered record have been evaluated at the entry. -/
def freshActions (signals : Mask) (now : Nat) (cs : List Condition) (j : Nat) (l : TimedList) : TimedList :=
  (cs.zipIdx j).foldl (fun m x => freshList signals now (Fin.ofNat 4 x.2) x.1 m) l

section Reevaluated

variable {s : State} {v : Visit} {cs : List Condition}

theorem reevaluated_fresh (fresh : v.conditions = cs.map Condition.unevaluated) (entry : v.entry = s.now)
    (free : s.seq.deferring = false) (l : TimedList) :
    ConditionsReevaluated s v signals s.now l = cs.map (freshCondition signals s.nextBoundary)
    ∧ ListReevaluated s v signals s.now l = freshActions signals s.now cs 0 l := by
  unfold ConditionsReevaluated ListReevaluated freshActions
  rewrite [fresh, entry, free, Nat.max_self, List.zipIdx_map, List.map_map, List.foldl_map]
  refine ⟨?_, ?_⟩
  · have first : cs.map (freshCondition signals s.nextBoundary)
        = (cs.zipIdx 0).map fun x => freshCondition signals s.nextBoundary x.1 := by
      conv_lhs => rw [← List.zipIdx_map_fst 0 cs, List.map_map]
      rfl
    rewrite [first]
    exact List.map_congr_left fun x _ => congrArg Prod.fst (evaluate_fresh x.1 (Fin.ofNat 4 x.2) l)
  · congr 1
    funext m x
    exact congrArg Prod.snd (evaluate_fresh x.1 (Fin.ofNat 4 x.2) m)

/-- A second evaluation against the same vector changes nothing. -/
theorem reevaluated_settled (settled : ∀ c ∈ v.conditions, c.condition.holds signals = c.truth) (t : Nat) (l : TimedList) :
    ConditionsReevaluated s v signals t l = v.conditions ∧ ListReevaluated s v signals t l = l := by
  have one (x : CondState × Nat) (mem : x ∈ v.conditions.zipIdx) (m : TimedList) :
      CondState.evaluate x.1 (Fin.ofNat 4 x.2) signals (max t v.entry) s.now s.nextBoundary s.seq.deferring v.entry m
        = (x.1, m) := evaluate_same (settled _ (List.fst_mem_of_mem_zipIdx mem))
  unfold ConditionsReevaluated ListReevaluated
  refine ⟨?_, ?_⟩
  · refine (List.map_congr_left fun x mem => ?_).trans (List.zipIdx_map_fst 0 v.conditions)
    exact congrArg Prod.fst (one x mem l)
  · generalize v.conditions.zipIdx = xs at one
    induction xs with
    | nil => rfl
    | cons x rest ih =>
      rewrite [List.foldl_cons, one x List.mem_cons_self]
      exact ih fun y mem => one y (List.mem_cons_of_mem x mem)

theorem freshCondition_settled : ∀ c ∈ cs.map (freshCondition signals next), c.condition.holds signals = c.truth := by
  intro c mem
  obtain ⟨d, -, rfl⟩ := List.mem_map.1 mem
  rfl

end Reevaluated

/-! ### The actions of the conditions on the list (R32, R139) -/

/-- The due times and owners of the actions of condition `k`. -/
def owedTo (k : Fin 4) (l : TimedList) : List (Nat × Option Nat) :=
  (l.entries.filter fun a => decide (a.work = .condition k)).map fun a => (a.due, a.owner)

theorem insertAction_filter_skip {f : TimedAction → Bool} {a : TimedAction} (other : f a = false) (xs : List TimedAction) :
    (insertAction a xs).filter f = xs.filter f := by
  induction xs with
  | nil => rw [insertAction, List.filter_cons_of_neg (Bool.eq_false_iff.1 other)]
  | cons x rest ih =>
    rewrite [insertAction]
    split
    · rw [List.filter_cons, List.filter_cons, ih]
    · rw [List.filter_cons_of_neg (Bool.eq_false_iff.1 other)]

theorem insertAction_filter_only {f : TimedAction → Bool} {a : TimedAction} (own : f a = true) {xs : List TimedAction}
    (none : xs.filter f = []) : (insertAction a xs).filter f = [a] := by
  induction xs with
  | nil => rw [insertAction, List.filter_cons_of_pos own, List.filter_nil]
  | cons x rest ih =>
    have first : ¬ f x = true := List.filter_eq_nil_iff.1 none x List.mem_cons_self
    rewrite [List.filter_cons_of_neg first] at none
    rewrite [insertAction]
    split
    · rw [List.filter_cons_of_neg first, ih none]
    · rw [List.filter_cons_of_pos own, List.filter_cons_of_neg first, none]

theorem owedTo_place_other {w : Work} (other : w ≠ .condition k) (due : Nat) (o : Option Nat) :
    owedTo k (l.place due w o) = owedTo k l := by
  unfold TimedList.place
  split
  · exact congrArg (List.map _) (insertAction_filter_skip (decide_eq_false other) _)
  · rfl

theorem owedTo_place (none : owedTo k l = []) (free : l.held .condition < 4) (due : Nat) (o : Option Nat) :
    owedTo k (l.place due (.condition k) o) = [(due, o)] := by
  unfold owedTo at none ⊢
  rewrite [TimedList.place_entries l due (.condition k) o (decide_eq_true free),
    insertAction_filter_only (decide_eq_true rfl) (List.map_eq_nil_iff.1 none)]
  rfl

theorem held_place_le (l : TimedList) (due : Nat) (w : Work) (o : Option Nat) (g : Group) :
    (l.place due w o).held g ≤ l.held g + 1 := by
  unfold TimedList.place
  split
  · unfold TimedList.held
    rewrite [insertAction_filter_length]
    split <;> omega
  · exact Nat.le_succ _

theorem held_place_other {w : Work} {g : Group} (other : w.group ≠ g) (due : Nat) (o : Option Nat) :
    (l.place due w o).held g = l.held g := by
  unfold TimedList.place
  split
  · unfold TimedList.held
    rewrite [insertAction_filter_length, if_neg (Bool.eq_false_iff.1 (decide_eq_false other))]
    rfl
  · rfl

theorem freshList_held_le (c : Condition) : (freshList signals now i c l).held .condition ≤ l.held .condition + 1 := by
  unfold freshList
  split
  · split
    · exact Nat.le_succ _
    · exact held_place_le _ _ _ _ _
  · exact Nat.le_succ _

theorem freshList_held_other (c : Condition) {g : Group} (other : g ≠ .condition) :
    (freshList signals now i c l).held g = l.held g := by
  unfold freshList
  split
  · split
    · rfl
    · exact held_place_other (w := .condition i) (Ne.symm other) _ _
  · rfl

/-- What a condition evaluated at its entry owes. -/
def owes (signals : Mask) (now : Nat) (c : Condition) : List (Nat × Option Nat) :=
  if c.holds signals = true ∧ 0 < c.hold then [(now + c.hold * 100, some now)] else []

theorem owedTo_freshList_own (none : owedTo i l = []) (free : l.held .condition < 4) (c : Condition) :
    owedTo i (freshList signals now i c l) = owes signals now c := by
  unfold freshList owes
  by_cases holds : c.holds signals = true
  · rewrite [if_pos holds]
    by_cases zero : c.hold = 0
    · rewrite [if_pos zero, if_neg fun h => Nat.ne_of_gt h.2 zero]
      exact none
    · rewrite [if_neg zero, if_pos ⟨holds, Nat.pos_of_ne_zero zero⟩]
      exact owedTo_place none free _ _
  · rewrite [if_neg holds, if_neg fun h => holds h.1]
    exact none

theorem owedTo_freshList_other (other : i ≠ k) (c : Condition) : owedTo k (freshList signals now i c l) = owedTo k l := by
  unfold freshList
  split
  · split
    · rfl
    · exact owedTo_place_other (fun same => other (Work.condition.inj same)) _ _
  · rfl

theorem ofNat_of_lt {j : Nat} (lt : j < 4) : (Fin.ofNat 4 j).val = j := Nat.mod_eq_of_lt lt

/-- After the evaluation of the conditions from `j` on, each has just what it owes on the list. -/
theorem owedTo_freshActions (cs : List Condition) {j : Nat} {l : TimedList} (few : j + cs.length ≤ 4)
    (none : ∀ k : Fin 4, j ≤ k.val → owedTo k l = []) (room : l.held .condition + cs.length ≤ 4) (k : Fin 4) :
    owedTo k (freshActions signals now cs j l)
      = if k.val < j then owedTo k l else (cs[k.val - j]?.map (owes signals now)).getD [] := by
  induction cs generalizing j l with
  | nil =>
    show owedTo k l = _
    split
    · rfl
    · next above => exact none k (Nat.le_of_not_lt above)
  | cons c rest ih =>
    rewrite [List.length_cons] at few room
    have here : (Fin.ofNat 4 j).val = j := ofNat_of_lt (by omega)
    have held := freshList_held_le (signals := signals) (now := now) (i := Fin.ofNat 4 j) (l := l) c
    have step := ih (j := j + 1) (l := freshList signals now (Fin.ofNat 4 j) c l) (by omega)
      (fun m above => by
        rewrite [owedTo_freshList_other (fun same => by rw [← same, here] at above; omega)]
        exact none m (by omega)) (by omega)
    refine Eq.trans step ?_
    by_cases before : k.val < j
    · rw [if_pos (by omega), if_pos before, owedTo_freshList_other fun same => by rw [← same, here] at before; omega]
    · rewrite [if_neg before]
      by_cases at_ : k.val = j
      · have same : Fin.ofNat 4 j = k := Fin.ext (here.trans at_.symm)
        rewrite [if_pos (by omega), same, owedTo_freshList_own (none k (Nat.le_of_eq at_.symm)) (by omega), at_, Nat.sub_self]
        rfl
      · have later : k.val - j = (k.val - (j + 1)) + 1 := by omega
        rw [if_neg (by omega), later, List.getElem?_cons_succ]

set_option Elab.async false in
theorem freshActions_held_other (cs : List Condition) (j : Nat) (l : TimedList) {g : Group} (other : g ≠ .condition) :
    (freshActions signals now cs j l).held g = l.held g := by
  induction cs generalizing j l with
  | nil => rfl
  | cons c rest ih => exact (ih _ _).trans (freshList_held_other c other)

end Sys2Proof.Proofs.EntryConditions
end

section
/-! PROOF. Receive and the exit conditions at the entry of a state (O51 and O52, in part). -/

namespace Sys2Proof.Proofs.EntryReceive

open Sys2Proof Sys2Proof.Machine Sys2Proof.Proofs.Answering Sys2Proof.Proofs.Arming Sys2Proof.Proofs.Consumers
  Sys2Proof.Proofs.Deliveries Sys2Proof.Proofs.Ledger Sys2Proof.Proofs.Edges Sys2Proof.Proofs.EntryConditions

variable {b c d : State} {v : Visit} {cs : List Condition}

/-- A visit of fresh conditions has begun at this instant. -/
structure Begun (b : State) (v : Visit) (cs : List Condition) : Prop where
  phase : b.seq.phase = .running
  visit : b.seq.visit = some v
  conditions : v.conditions = cs.map Condition.unevaluated
  entry : v.entry = b.now
  deferring : b.seq.deferring = false

/-- The visit once its conditions have been evaluated. -/
def evaluatedVisit (v : Visit) (signals : Mask) (next : Nat) (cs : List Condition) : Visit :=
  { v with conditions := cs.map (freshCondition signals next) }

/-- What the receive level and the evaluation of the conditions leave of a visit that has begun. -/
structure Received (b : State) (v : Visit) (cs : List Condition) (d : State) : Prop where
  frame : d = { b with
    seq := { b.seq with visit := some (evaluatedVisit v d.signals b.nextBoundary cs) }
    synth := { b.synth with ramp := d.synth.ramp }, outputs := d.outputs, assess := d.assess, log := d.log
    drains := d.drains, actions := freshActions d.signals b.now cs 0 b.actions
    tp := { b.tp with receive := ReceiveFor b b.tp.applied }, ports := d.ports }
  few : AtMost 5 b.log d.log
  outputs : ∀ n : Fin 4, d.outputs[n]'n.isLt = if (b.outputs[n]'n.isLt).role = .tpReceive ∧ d.tp.receive ≠ b.tp.receive
    then { role := .tpReceive, level := d.tp.receive } else b.outputs[n]'n.isLt
  logged : ∀ n : Fin 4, (d.outputs[n]'n.isLt).level ≠ (b.outputs[n]'n.isLt).level → 5 ≤ b.log.unreserved →
    b.makeRecord (b.shotTime b.now) (.outputChange n (d.outputs[n]'n.isLt).level .teleprotection) ∈ d.log.records

theorem deliveredVisit_fresh (h : Begun b v cs) :
    deliveredVisit b b.now = some (evaluatedVisit v b.signals b.nextBoundary cs)
    ∧ deliveredActions b b.now = freshActions b.signals b.now cs 0 b.actions := by
  obtain ⟨-, visit, fresh, entry, free⟩ := h
  obtain ⟨conditions, -⟩ := reevaluated_fresh (signals := b.signals) fresh entry free b.actions
  obtain ⟨-, actions⟩ := reevaluated_fresh (signals := b.signals) fresh entry free b.actions
  unfold deliveredVisit deliveredActions
  rewrite [visit]
  refine ⟨?_, actions⟩
  rewrite [Option.map_some, conditions]
  rfl

theorem evaluateConditions_settled {signals : Mask} {next : Nat} (same : c.signals = signals)
    (visit : c.seq.visit = some (evaluatedVisit v signals next cs)) (t : Nat) : c.evaluateConditions t = c := by
  have settled : ∀ x ∈ (evaluatedVisit v signals next cs).conditions, x.condition.holds c.signals = x.truth := by
    rewrite [same]
    exact freshCondition_settled
  obtain ⟨conditions, list⟩ := reevaluated_settled (s := c) settled t c.actions
  have kept : deliveredVisit c t = c.seq.visit := by
    unfold deliveredVisit
    rewrite [visit]
    exact congrArg (fun xs : List CondState => some { evaluatedVisit v signals next cs with conditions := xs }) conditions
  have actions : deliveredActions c t = c.actions := by
    unfold deliveredActions
    rewrite [visit]
    exact list
  rw [evaluateConditions_eq, kept, actions]

theorem received_same (h : Begun b v cs) (same : ReceiveFor b b.tp.applied = b.tp.receive) :
    Received b v cs ((b.refreshReceive b.now).evaluateConditions b.now) := by
  have start : b.refreshReceive b.now = { b with tp := appliedTp b b.tp.applied } := applyEdge_same same b.now
  rewrite [start]
  have begun : Begun { b with tp := appliedTp b b.tp.applied } v cs := ⟨h.phase, h.visit, h.conditions, h.entry, h.deferring⟩
  obtain ⟨visit, actions⟩ := deliveredVisit_fresh begun
  rewrite [evaluateConditions_eq]
  have signals : State.signals { b with
      seq := { b.seq with visit := deliveredVisit { b with tp := appliedTp b b.tp.applied } b.now }
      actions := deliveredActions { b with tp := appliedTp b b.tp.applied } b.now, tp := appliedTp b b.tp.applied }
      = State.signals { b with tp := appliedTp b b.tp.applied } := signals_congr rfl rfl rfl
  refine ⟨?_, (AtMost.refl _).mono (Nat.zero_le _), fun n => ?_, fun n changes => absurd rfl changes⟩
  · rewrite [signals]
    dsimp only
    exact congrArg₂ (fun w l => { b with
      seq := { b.seq with visit := w }, actions := l, tp := appliedTp b b.tp.applied }) visit actions
  · exact (if_neg fun other => other.2 same).symm

theorem received_other (h : Begun b v cs) (other : ReceiveFor b b.tp.applied ≠ b.tp.receive) :
    Received b v cs ((b.refreshReceive b.now).evaluateConditions b.now) := by
  have start : b.refreshReceive b.now = _ := applyEdge_other other b.now
  have begun : Begun (received b b.tp.applied) v cs := ⟨h.phase, h.visit, h.conditions, h.entry, h.deferring⟩
  obtain ⟨visit, actions⟩ := deliveredVisit_fresh begun
  have visit : deliveredVisit (received b b.tp.applied) b.now
      = some (evaluatedVisit v (received b b.tp.applied).signals b.nextBoundary cs) := visit
  have actions : deliveredActions (received b b.tp.applied) b.now
      = freshActions (received b b.tp.applied).signals b.now cs 0 b.actions := actions
  have running : deliveredStart (received b b.tp.applied) 15 = b.seq.startBoundary :=
    deliveredStart_other _ _ fun _ _ armed => absurd (h.phase.symm.trans armed) (by decide)
  have few := deliver_atMost (received b b.tp.applied) 15 (ReceiveFor b b.tp.applied) b.now
  have vector := deliver_signals (received b b.tp.applied) 15 (ReceiveFor b b.tp.applied) b.now
  obtain ⟨ra, lg, dr, po, delivers, -⟩ := deliver_frame (received b b.tp.applied) 15 (ReceiveFor b b.tp.applied) b.now
  rewrite [start]
  generalize (received b b.tp.applied).deliver 15 (ReceiveFor b b.tp.applied) b.now = m at few vector delivers ⊢
  have more := refreshOutputs_atMost (src := .teleprotection) (rule := Teleprotection.outputLevel (appliedTp b b.tp.applied)) m
  have outputs := refreshOutputs_output m .teleprotection (Teleprotection.outputLevel (appliedTp b b.tp.applied))
  have records {n : Fin 4} {x : Bool} := refreshOutputs_records (src := .teleprotection)
    (rule := Teleprotection.outputLevel (appliedTp b b.tp.applied)) (s := m) (n := n) (level := x)
  obtain ⟨ou, lg', dr', po', refreshes⟩ := refreshOutputs_frame (src := .teleprotection)
    (rule := Teleprotection.outputLevel (appliedTp b b.tp.applied)) m
  generalize m.refreshOutputs .teleprotection (Teleprotection.outputLevel (appliedTp b b.tp.applied)) = c
    at more outputs records refreshes ⊢
  have stood : c.seq.visit = some (evaluatedVisit v (received b b.tp.applied).signals b.nextBoundary cs) := by
    rewrite [refreshes, delivers]
    exact visit
  have signals : c.signals = (received b b.tp.applied).signals := by
    rewrite [← vector, refreshes]
    exact signals_congr rfl rfl rfl
  have before (n : Fin 4) : m.outputs[n]'n.isLt = b.outputs[n]'n.isLt := by rw [delivers]; rfl
  have record (x : RecordBody) : m.makeRecord (m.shotTime m.now) x = b.makeRecord (b.shotTime b.now) x := by
    rewrite [delivers]
    rfl
  have receive : c.tp.receive = ReceiveFor b b.tp.applied := by rw [refreshes, delivers]; rfl
  have active : m.shotActive = true := (shotActive_iff m).2 (by
    rewrite [delivers]
    exact fun idle => absurd (h.phase.symm.trans idle) (by decide))
  have after (n : Fin 4) : c.outputs[n]'n.isLt = if (b.outputs[n]'n.isLt).role = .tpReceive
      then { role := .tpReceive, level := ReceiveFor b b.tp.applied } else b.outputs[n]'n.isLt := by
    rewrite [outputs n, before n, ruled_outputLevel]
    rfl
  rewrite [evaluateConditions_settled signals stood]
  refine ⟨?_, ?_, fun n => ?_, fun n changes room => ?_⟩
  · rewrite [signals, refreshes, delivers, delivered, visit, running, actions]
    rfl
  · have few : AtMost 1 b.log m.log := few
    exact few.trans more
  · rewrite [after n, receive]
    exact if_congr (and_iff_left other).symm rfl rfl
  · have role : (b.outputs[n]'n.isLt).role = .tpReceive := by
      by_contra unlike
      rewrite [after n, if_neg unlike] at changes
      exact changes rfl
    rewrite [after n, if_pos role] at changes ⊢
    refine record _ ▸ records ?_ ?_ active (AtMost.room few (Nat.le_trans (by decide) room))
    · rewrite [before, role]
      rfl
    · rewrite [before]
      exact changes

set_option Elab.async false in
theorem receivesAtEntry (h : Begun b v cs) : Received b v cs ((b.refreshReceive b.now).evaluateConditions b.now) := by
  by_cases same : ReceiveFor b b.tp.applied = b.tp.receive
  · exact received_same h same
  · exact received_other h same

end Sys2Proof.Proofs.EntryReceive
end

section
/-! PROOF. The working set at the entry of a state (O51 and O52, in part). -/

namespace Sys2Proof.Proofs.EntrySynth

open Sys2Proof Sys2Proof.Machine

variable {s : State} {r : StateRecord} {first : Bool} {c : Channel} {old : SynthChannel}

/-! ### One channel (R50, R51, R56, R57, R61, R68) -/

/-- A channel with its entry and its link loaded. -/
def relinked (s : State) (r : StateRecord) (first : Bool) (c : Channel) : SynthChannel :=
  ((s.synth.channels.get c).loadEntry (s.store.config.get c) (r.channels.get c)).relink s.breaker.poles
    (s.store.config.get c) (r.channels.get c) first

/-- A channel with the start of a ramp set on it. -/
def ramped (s : State) (r : StateRecord) (c : Channel) (ch : SynthChannel) : SynthChannel :=
  match r.ramp with
  | some w => if w.target.covers c then
      ch.setQuantity (s.store.config.get c) w.quantity (w.channelValue r.channels c w.start) else ch
  | none => ch

theorem loadSynth_channel (s : State) (r : StateRecord) (first : Bool) (c : Channel) :
    (s.loadSynth r first).synth.channels.get c
      = (ramped s r c (relinked s r first c)).continuity (r.channels.get c).offsetTau := by
  unfold State.loadSynth ramped
  dsimp only
  have settled (u : State) : u.settleInterruptions.synth = u.synth := rfl
  rewrite [settled, PerChannel.get_mapWith]
  cases r.ramp with
  | none =>
    rewrite [PerChannel.get_mapWith]
    rfl
  | some w =>
    dsimp only
    rewrite [setRampValue, PerChannel.get_mapWith, PerChannel.get_mapWith]
    rfl

/-- The items of a channel that a ramp start does not touch. -/
theorem ramped_keeps (s : State) (r : StateRecord) (c : Channel) (ch : SynthChannel) :
    (ramped s r c ch).acc = ch.acc ∧ (ramped s r c ch).last = ch.last ∧ (ramped s r c ch).clip = ch.clip
    ∧ (ramped s r c ch).clipRecorded = ch.clipRecorded ∧ (ramped s r c ch).resuming = ch.resuming
    ∧ (ramped s r c ch).link = ch.link ∧ (ramped s r c ch).decay = ch.decay
    ∧ (ramped s r c ch).silencing = ch.silencing := by
  unfold ramped
  split
  · split
    · next w _ _ => cases w.quantity <;> exact ⟨rfl, rfl, rfl, rfl, rfl, rfl, rfl, rfl⟩
    · exact ⟨rfl, rfl, rfl, rfl, rfl, rfl, rfl, rfl⟩
  · exact ⟨rfl, rfl, rfl, rfl, rfl, rfl, rfl, rfl⟩

theorem lead_of_covers {w : Ramp} {c' : Channel} (target : w.target = .channel c') (covers : w.target.covers c = true) :
    c = w.target.lead := by
  rewrite [target] at covers ⊢
  simpa [Target.covers, Target.channels, Target.lead] using covers

theorem channelValue_phase {w : Ramp} (phase : w.quantity = .phase) (covers : w.target.covers c = true)
    (entries : PerChannel ChannelEntry) (x : Int) : w.channelValue entries c x
      = if c = w.target.lead then x else wrapAngle ((entries.get c).phase + x - (entries.get w.target.lead).phase) := by
  unfold Ramp.channelValue
  rewrite [phase]
  cases target : w.target with
  | channel c' =>
    have lead := lead_of_covers target covers
    rewrite [target] at lead
    rw [if_pos lead]
  | group g => rfl

theorem channelValue_other {w : Ramp} (other : w.quantity ≠ .phase) (entries : PerChannel ChannelEntry) (x : Int) :
    w.channelValue entries c x = x := by
  unfold Ramp.channelValue
  split
  next phase _ => exact absurd phase other
  next => rfl

theorem rampOn_covered {w : Ramp} (ramp : r.ramp = some w) (covers : w.target.covers c = true) (q : Quantity) :
    RampOn r c q = if w.quantity = q then some w else none := by
  rewrite [RampOn, ramp, Option.filter_some, covers, Bool.true_and]
  simp only [decide_eq_true_eq]

theorem rampOn_other (other : ∀ w, r.ramp = some w → ¬ w.target.covers c = true) (q : Quantity) : RampOn r c q = none := by
  unfold RampOn
  cases ramp : r.ramp with
  | none => rfl
  | some w => rw [Option.filter_some, Bool.eq_false_iff.2 (other w ramp), Bool.false_and, if_neg Bool.false_ne_true]

theorem ramped_other (other : ∀ w, r.ramp = some w → ¬ w.target.covers c = true) (ch : SynthChannel) :
    ramped s r c ch = ch := by
  unfold ramped
  split
  next w ramp => exact if_neg (other w ramp)
  next => rfl

theorem ramped_covered {w : Ramp} (ramp : r.ramp = some w) (covers : w.target.covers c = true) (ch : SynthChannel) :
    ramped s r c ch = ch.setQuantity (s.store.config.get c) w.quantity (w.channelValue r.channels c w.start) := by
  unfold ramped
  rewrite [ramp]
  exact if_pos covers

/-- The working set of a channel, with its ramp start. -/
theorem workingSet_ramped (s : State) (r : StateRecord) (first : Bool) (c : Channel) :
    WorkingSetLoaded r c (s.store.config.get c) (ramped s r c (relinked s r first c)) := by
  unfold WorkingSetLoaded
  by_cases covered : ∃ w, r.ramp = some w ∧ w.target.covers c = true
  · obtain ⟨w, ramp, covers⟩ := covered
    simp only [ramped_covered ramp covers, rampOn_covered ramp covers]
    cases quantity : w.quantity with
    | amplitude =>
      rewrite [channelValue_other (by rewrite [quantity]; decide)]
      exact ⟨rfl, rfl, rfl, rfl, rfl, rfl⟩
    | phase =>
      rewrite [channelValue_phase quantity covers]
      exact ⟨rfl, rfl, rfl, rfl, rfl, rfl⟩
    | frequency =>
      rewrite [channelValue_other (by rewrite [quantity]; decide)]
      exact ⟨rfl, rfl, rfl, rfl, rfl, rfl⟩
  · have other : ∀ w, r.ramp = some w → ¬ w.target.covers c = true := fun w ramp covers => covered ⟨w, ramp, covers⟩
    simp only [ramped_other other, rampOn_other other]
    exact ⟨rfl, rfl, rfl, rfl, rfl, rfl⟩

/-- What the entry of a state leaves of a channel (R50, R56, R57, R61, R67, R68). -/
theorem channel_atEntry (s : State) (r : StateRecord) (first : Bool) (c : Channel) :
    ∀ ch old e cfg, ch = (s.loadSynth r first).synth.channels.get c → old = s.synth.channels.get c →
      e = r.channels.get c → cfg = s.store.config.get c →
      ch.acc = old.acc ∧ ch.last = old.last ∧ ch.clip = old.clip ∧ ch.clipRecorded = false
      ∧ ch.resuming = false ∧ ch.link = e.link.resolve cfg ∧ ch.decay = decayFactor e.offsetTau
      ∧ ch.silencing = (if first = true ∨ e.link.resolve cfg ≠ old.link
                        then placeSilencing s.breaker.poles (e.link.resolve cfg) else old.silencing)
      ∧ ch.offset = (if ch.silencing = .silenced ∨ e.offsetTau = 0 then 0
                     else old.last - acSample ch.peak (old.acc + ch.phaseOffset))
      ∧ WorkingSetLoaded r c cfg ch := by
  rintro ch old e cfg rfl rfl rfl rfl
  obtain ⟨acc, last, clip, recorded, resuming, link, decay, silencing⟩ := ramped_keeps s r c (relinked s r first c)
  have loaded := workingSet_ramped s r first c
  rewrite [loadSynth_channel]
  generalize ramped s r c (relinked s r first c) = ch at acc last clip recorded resuming link decay silencing loaded ⊢
  refine ⟨acc, last, clip, recorded, resuming, link, decay, silencing.trans ?_, ?_, loaded⟩
  · show (if (first || decide (_ ≠ _)) = true then _ else _) = _
    refine if_congr ?_ rfl rfl
    rw [Bool.or_eq_true, decide_eq_true_iff]
    rfl
  · have acc : ch.acc = (s.synth.channels.get c).acc := acc
    have last : ch.last = (s.synth.channels.get c).last := last
    show (if _ then _ else ch.last - acSample ch.peak (ch.acc + ch.phaseOffset)) = _
    rewrite [acc, last]
    rfl

/-! ### The breaker and the ramp (R61, R95) -/

theorem loadSynth_frame (s : State) (r : StateRecord) (first : Bool) : s.loadSynth r first = { s with
    synth := { channels := (s.loadSynth r first).synth.channels, ramp := rampContextOf r.ramp s.now }
    breaker := { s.breaker with poles := (s.loadSynth r first).breaker.poles } } := rfl

theorem settled_pole (u : State) (q : Pole) :
    (u.settleInterruptions.breaker.poles.get q).position = (u.breaker.poles.get q).position
    ∧ (u.settleInterruptions.breaker.poles.get q).openSignal = (u.breaker.poles.get q).openSignal
    ∧ (u.settleInterruptions.breaker.poles.get q).start = (u.breaker.poles.get q).start := by
  unfold State.settleInterruptions
  dsimp only
  rewrite [PerPole.get_mapWith]
  split <;> exact ⟨rfl, rfl, rfl⟩

theorem pole_atEntry (s : State) (r : StateRecord) (first : Bool) (q : Pole) :
    ((s.loadSynth r first).breaker.poles.get q).position = (s.breaker.poles.get q).position
    ∧ ((s.loadSynth r first).breaker.poles.get q).openSignal = (s.breaker.poles.get q).openSignal
    ∧ ((s.loadSynth r first).breaker.poles.get q).start = (s.breaker.poles.get q).start := settled_pole _ q

theorem loadSynth_signals (s : State) (r : StateRecord) (first : Bool) : (s.loadSynth r first).signals = s.signals := by
  obtain ⟨-, a, -⟩ := pole_atEntry s r first .a
  obtain ⟨-, b, -⟩ := pole_atEntry s r first .b
  obtain ⟨-, c, -⟩ := pole_atEntry s r first .c
  have a : (s.loadSynth r first).breaker.poles.a.openSignal = s.breaker.poles.a.openSignal := a
  have b : (s.loadSynth r first).breaker.poles.b.openSignal = s.breaker.poles.b.openSignal := b
  have c : (s.loadSynth r first).breaker.poles.c.openSignal = s.breaker.poles.c.openSignal := c
  have signal (n : Nat) : (s.loadSynth r first).signal n = s.signal n := by
    unfold State.signal
    simp only [loadSynth_keeps, a, b, c]
  unfold State.signals
  simp only [signal]

set_option Elab.async false in
theorem rampContext_atEntry (r : StateRecord) (now : Nat) :
    ((rampContextOf r.ramp now).ramp = r.ramp ∧ (rampContextOf r.ramp now).entry = now
      ∧ (rampContextOf r.ramp now).nextStep = 1)
    ∧ (r.ramp = none → (rampContextOf r.ramp now).state = .none)
    ∧ ∀ w, r.ramp = some w → (rampContextOf r.ramp now).value = w.start
      ∧ (rampContextOf r.ramp now).state = if w.limit = w.start then .atLimit else .stepping := by
  cases r.ramp with
  | none => exact ⟨⟨rfl, rfl, rfl⟩, fun _ => rfl, nofun⟩
  | some w =>
    refine ⟨⟨rfl, rfl, rfl⟩, nofun, fun w' h => ?_⟩
    cases h
    exact ⟨rfl, rfl⟩

end Sys2Proof.Proofs.EntrySynth
end

section
/-! PROOF. The output actions at the entry of a state (O51 and O52, in part). -/

namespace Sys2Proof.Proofs.EntryOutputs

open Sys2Proof Sys2Proof.Machine Sys2Proof.Proofs.Answering Sys2Proof.Proofs.Outputs Sys2Proof.Proofs.Ledger
  Sys2Proof.Proofs.EntryConditions

/-! ### One action (R83) -/

section One

variable {s : State} {fv : Bool} {a : OutputAction}

theorem scheduleAction_skipped (once : a.once = true) (later : fv = false) : s.scheduleAction fv a = s :=
  if_pos (by rewrite [once, later]; rfl)

theorem scheduled_iff : ¬ (a.once && !fv) = true ↔ (a.once = true → fv = true) := by
  cases a.once <;> cases fv <;> decide

theorem scheduleAction_now (scheduled : a.once = true → fv = true) (zero : a.delay = 0) :
    s.scheduleAction fv a = State.setOutput { s with actions := s.actions.placeAndTake } a.output a.level .state :=
  (if_neg (scheduled_iff.2 scheduled)).trans (if_pos zero)

theorem scheduleAction_later (scheduled : a.once = true → fv = true) (delayed : a.delay ≠ 0) : s.scheduleAction fv a
    = { s with actions := s.actions.place (s.now + a.delay * 100) (.stateOutput a.output a.level) (some s.now) } :=
  (if_neg (scheduled_iff.2 scheduled)).trans (if_neg delayed)

/-- What one action leaves: its state differs in the list, the outputs and the log alone. -/
structure ActionTaken (s : State) (u : State) : Prop where
  frame : u = { s with outputs := u.outputs, actions := u.actions, log := u.log, drains := u.drains, ports := u.ports }
  owed : ∀ k, owedTo k u.actions = owedTo k s.actions
  stays : ∀ e ∈ s.actions.entries, e ∈ u.actions.entries
  few : AtMost 1 s.log u.log
  held : u.actions.held .stateOutput ≤ s.actions.held .stateOutput + 1

theorem ActionTaken.refl (s : State) : ActionTaken s s :=
  ⟨rfl, fun _ => rfl, fun _ mem => mem, (AtMost.refl _).mono (Nat.zero_le _), Nat.le_succ _⟩

theorem place_stays (l : TimedList) (due : Nat) (w : Work) (o : Option Nat) : ∀ e ∈ l.entries, e ∈ (l.place due w o).entries := by
  intro e mem
  unfold TimedList.place
  split
  · exact (insertAction_mem _ _ _).2 (.inr mem)
  · exact mem

theorem scheduleAction_taken (s : State) (fv : Bool) (a : OutputAction) : ActionTaken s (s.scheduleAction fv a) := by
  by_cases scheduled : a.once = true → fv = true
  · by_cases zero : a.delay = 0
    · rewrite [scheduleAction_now scheduled zero]
      have few := setOutput_atMost (src := .state) { s with actions := s.actions.placeAndTake } a.output a.level
      obtain ⟨lg, dr, po, frame⟩ := setOutput_frame (src := .state) { s with actions := s.actions.placeAndTake } a.output a.level
      rewrite [frame] at few ⊢
      exact ⟨rfl, fun _ => rfl, fun _ mem => mem, few, Nat.le_succ _⟩
    · rewrite [scheduleAction_later scheduled zero]
      exact ⟨rfl, fun k => owedTo_place_other (w := .stateOutput a.output a.level) (fun h => by cases h) _ _,
        place_stays _ _ _ _, (AtMost.refl _).mono (Nat.zero_le _), held_place_le _ _ _ _ _⟩
  · have once : a.once = true := by
      by_contra off
      exact scheduled fun h => absurd h off
    rewrite [scheduleAction_skipped once (Bool.eq_false_iff.2 fun first => scheduled fun _ => first)]
    exact ActionTaken.refl s

theorem ActionTaken.record {u : State} (h : ActionTaken s u) (b : RecordBody) :
    u.makeRecord (u.shotTime u.now) b = s.makeRecord (s.shotTime s.now) b := by
  rewrite [h.frame]
  rfl

theorem ActionTaken.seq {u : State} (h : ActionTaken s u) : u.seq = s.seq := (congrArg State.seq h.frame).trans rfl

theorem ActionTaken.now {u : State} (h : ActionTaken s u) : u.now = s.now := (congrArg State.now h.frame).trans rfl

/-- A scheduled action with a delay finds its place where its group has a free entry. -/
theorem scheduleAction_placed (scheduled : a.once = true → fv = true) (delayed : 0 < a.delay)
    (room : s.actions.held .stateOutput < 4) : ∃ e ∈ (s.scheduleAction fv a).actions.entries,
      e.due = s.now + a.delay * 100 ∧ e.work = .stateOutput a.output a.level ∧ e.owner = some s.now := by
  rewrite [scheduleAction_later scheduled (Nat.ne_of_gt delayed)]
  show ∃ e ∈ (s.actions.place _ (.stateOutput a.output a.level) _).entries, _
  rewrite [TimedList.place_entries _ _ (.stateOutput a.output a.level) _ (decide_eq_true room)]
  exact ⟨_, (insertAction_mem _ _ _).2 (.inl rfl), rfl, rfl, rfl⟩

/-- The action sets output `n` at once. -/
def immediate (fv : Bool) (n : Fin 4) (a : OutputAction) : Bool :=
  decide (a.output = n ∧ a.delay = 0 ∧ (a.once = true → fv = true))

theorem immediate_iff {fv : Bool} {n : Fin 4} {a : OutputAction} :
    immediate fv n a = true ↔ a.output = n ∧ a.delay = 0 ∧ (a.once = true → fv = true) := decide_eq_true_iff

theorem scheduleAction_output (n : Fin 4) : (immediate fv n a = true →
      (s.scheduleAction fv a).outputs[n]'n.isLt = { s.outputs[n]'n.isLt with level := a.level })
    ∧ (¬ immediate fv n a = true → (s.scheduleAction fv a).outputs[n]'n.isLt = s.outputs[n]'n.isLt) := by
  have set (m : Fin 4) (level : Bool) : (State.setOutput { s with actions := s.actions.placeAndTake } m level .state).outputs
      = s.outputs.set m { s.outputs[m]'m.isLt with level := level } m.isLt := setOutput_outputs _ _ _ _
  refine ⟨fun sets => ?_, fun other => ?_⟩
  · obtain ⟨output, zero, scheduled⟩ := immediate_iff.1 sets
    rewrite [scheduleAction_now scheduled zero, set, output]
    exact Vector.getElem_set_self _
  · by_cases scheduled : a.once = true → fv = true
    · by_cases zero : a.delay = 0
      · rewrite [scheduleAction_now scheduled zero, set]
        exact Vector.getElem_set_ne _ _ fun same => other (immediate_iff.2 ⟨Fin.ext same, zero, scheduled⟩)
      · rw [scheduleAction_later scheduled zero]
    · have once : a.once = true := by
        by_contra off
        exact scheduled fun h => absurd h off
      rw [scheduleAction_skipped once (Bool.eq_false_iff.2 fun first => scheduled fun _ => first)]

/-- An output that the action changes leaves its record. -/
theorem scheduleAction_logged (active : s.shotActive = true) (room : 1 ≤ s.log.unreserved) (n : Fin 4)
    (changes : ((s.scheduleAction fv a).outputs[n]'n.isLt).level ≠ (s.outputs[n]'n.isLt).level) :
    s.makeRecord (s.shotTime s.now) (.outputChange n ((s.scheduleAction fv a).outputs[n]'n.isLt).level .state)
      ∈ (s.scheduleAction fv a).log.records := by
  obtain ⟨sets, stands⟩ := scheduleAction_output (s := s) (fv := fv) (a := a) n
  by_cases at_once : immediate fv n a = true
  · obtain ⟨rfl, zero, scheduled⟩ := immediate_iff.1 at_once
    rewrite [sets at_once] at changes ⊢
    have log := setOutput_log { s with actions := s.actions.placeAndTake } a.output a.level .state
    rewrite [if_pos ⟨changes.symm, active⟩] at log
    rewrite [scheduleAction_now scheduled zero, log]
    exact offered_mem room _
  · rewrite [stands at_once] at changes
    exact absurd rfl changes

end One

/-! ### All actions of a record (R83, R84) -/

section All

variable {s : State} {fv : Bool}

/-- The state once all output actions of a list have been scheduled. -/
def scheduleAll (fv : Bool) (l : List OutputAction) (s : State) : State := l.foldl (fun s a => s.scheduleAction fv a) s

/-- The output action that gives output `n` its level, if one does. -/
def lastImmediate (fv : Bool) (n : Fin 4) (l : List OutputAction) : Option OutputAction :=
  (l.filter (immediate fv n)).getLast?

theorem scheduleAll_frame (l : List OutputAction) (s : State) : scheduleAll fv l s = { s with
      outputs := (scheduleAll fv l s).outputs, actions := (scheduleAll fv l s).actions, log := (scheduleAll fv l s).log
      drains := (scheduleAll fv l s).drains, ports := (scheduleAll fv l s).ports }
    ∧ (∀ k, owedTo k (scheduleAll fv l s).actions = owedTo k s.actions)
    ∧ (∀ e ∈ s.actions.entries, e ∈ (scheduleAll fv l s).actions.entries) ∧ AtMost l.length s.log (scheduleAll fv l s).log := by
  induction l generalizing s with
  | nil => exact ⟨rfl, fun _ => rfl, fun _ mem => mem, AtMost.refl _⟩
  | cons a rest ih =>
    have one := scheduleAction_taken s fv a
    obtain ⟨frame, owed, stays, few⟩ := ih (s.scheduleAction fv a)
    have step : scheduleAll fv (a :: rest) s = scheduleAll fv rest (s.scheduleAction fv a) := rfl
    rewrite [step]
    refine ⟨frame.trans ?_, fun k => (owed k).trans (one.owed k), fun e mem => stays e (one.stays e mem),
      (one.few.trans few).mono (by rw [List.length_cons]; omega)⟩
    exact congrArg (fun u : State => { u with
      outputs := (scheduleAll fv rest (s.scheduleAction fv a)).outputs
      actions := (scheduleAll fv rest (s.scheduleAction fv a)).actions
      log := (scheduleAll fv rest (s.scheduleAction fv a)).log
      drains := (scheduleAll fv rest (s.scheduleAction fv a)).drains
      ports := (scheduleAll fv rest (s.scheduleAction fv a)).ports }) one.frame

theorem scheduleAll_skipped {l : List OutputAction} (once : ∀ a ∈ l, a.once = true) (later : fv = false) (s : State) :
    scheduleAll fv l s = s := by
  induction l generalizing s with
  | nil => rfl
  | cons a rest ih =>
    have step : scheduleAll fv (a :: rest) s = scheduleAll fv rest (s.scheduleAction fv a) := rfl
    rw [step, scheduleAction_skipped (once a List.mem_cons_self) later, ih fun e mem => once e (List.mem_cons_of_mem a mem)]

theorem scheduleAll_placed (l : List OutputAction) (s : State) (room : s.actions.held .stateOutput + l.length ≤ 4) :
    ∀ a ∈ l, 0 < a.delay → (a.once = true → fv = true) → ∃ e ∈ (scheduleAll fv l s).actions.entries,
      e.due = s.now + a.delay * 100 ∧ e.work = .stateOutput a.output a.level ∧ e.owner = some s.now := by
  induction l generalizing s with
  | nil => exact fun a mem => absurd mem List.not_mem_nil
  | cons x rest ih =>
    intro a mem delayed scheduled
    rewrite [List.length_cons] at room
    have one := scheduleAction_taken s fv x
    have held := one.held
    have step : scheduleAll fv (x :: rest) s = scheduleAll fv rest (s.scheduleAction fv x) := rfl
    rewrite [step]
    rcases List.mem_cons.1 mem with rfl | later
    · obtain ⟨-, -, stays, -⟩ := scheduleAll_frame (fv := fv) rest (s.scheduleAction fv a)
      obtain ⟨e, placed, items⟩ := scheduleAction_placed scheduled delayed (by omega : s.actions.held .stateOutput < 4)
      exact ⟨e, stays e placed, items⟩
    · rewrite [← one.now]
      exact ih (s.scheduleAction fv x) (by omega) a later delayed scheduled

theorem scheduleAll_output (l : List OutputAction) (s : State) (n : Fin 4) : (scheduleAll fv l s).outputs[n]'n.isLt
    = { s.outputs[n]'n.isLt with level := ((lastImmediate fv n l).map (·.level)).getD (s.outputs[n]'n.isLt).level } := by
  induction l generalizing s with
  | nil => rfl
  | cons a rest ih =>
    have step : scheduleAll fv (a :: rest) s = scheduleAll fv rest (s.scheduleAction fv a) := rfl
    obtain ⟨sets, stands⟩ := scheduleAction_output (s := s) (fv := fv) (a := a) n
    rewrite [step, ih]
    unfold lastImmediate
    by_cases at_once : immediate fv n a = true
    · rewrite [sets at_once, List.filter_cons_of_pos at_once, List.getLast?_cons]
      cases (rest.filter (immediate fv n)).getLast? <;> rfl
    · rw [stands at_once, List.filter_cons_of_neg at_once]

set_option Elab.async false in
theorem scheduleAll_logged (l : List OutputAction) (s : State) (active : s.shotActive = true)
    (room : l.length ≤ s.log.unreserved) (n : Fin 4)
    (changes : ((scheduleAll fv l s).outputs[n]'n.isLt).level ≠ (s.outputs[n]'n.isLt).level) :
    s.makeRecord (s.shotTime s.now) (.outputChange n ((scheduleAll fv l s).outputs[n]'n.isLt).level .state)
      ∈ (scheduleAll fv l s).log.records := by
  induction l generalizing s with
  | nil => exact absurd rfl changes
  | cons a rest ih =>
    have step : scheduleAll fv (a :: rest) s = scheduleAll fv rest (s.scheduleAction fv a) := rfl
    rewrite [List.length_cons] at room
    rewrite [step] at changes ⊢
    have one := scheduleAction_taken s fv a
    obtain ⟨-, -, -, few⟩ := scheduleAll_frame (fv := fv) rest (s.scheduleAction fv a)
    by_cases here : ((scheduleAll fv rest (s.scheduleAction fv a)).outputs[n]'n.isLt).level
        = ((s.scheduleAction fv a).outputs[n]'n.isLt).level
    · rewrite [here] at changes ⊢
      exact few.mem (scheduleAction_logged active (by omega) n changes)
    · rewrite [← one.record]
      exact ih _ ((shotActive_iff _).2 (by rw [one.seq]; exact (shotActive_iff s).1 active)) (one.few.room (by omega)) here

end All

end Sys2Proof.Proofs.EntryOutputs
end

section
/-! PROOF. The entry of a state, its parts put together (O51 and O52, in part). -/

namespace Sys2Proof.Proofs.Entering

open Sys2Proof Sys2Proof.Machine Sys2Proof.Proofs.Invariants Sys2Proof.Proofs.Answering Sys2Proof.Proofs.Arming
  Sys2Proof.Proofs.Ledger
  Sys2Proof.Proofs.Guarding Sys2Proof.Proofs.ShotEnd
  Sys2Proof.Proofs.Edges Sys2Proof.Proofs.EntryConditions Sys2Proof.Proofs.EntryReceive Sys2Proof.Proofs.EntrySynth
  Sys2Proof.Proofs.EntryOutputs

variable {u d : State} {i : Fin 32} {r : StateRecord} {cause : EntryCause} {deferred first : Bool}

/-! ### The stages (R30) -/

/-- The visit as it begins. -/
def openedVisit (u : State) (i : Fin 32) (r : StateRecord) : Visit := Visit.opened i u.now u.timeOfDay r

/-- Receive has been set and the conditions have been evaluated. -/
def settledEntry (u : State) (i : Fin 32) (r : StateRecord) (first : Bool) : State :=
  ((u.beginVisit i r first).refreshReceive u.now).evaluateConditions u.now

/-- The entry is recorded and notified. -/
def announced (d : State) (i : Fin 32) (cause : EntryCause) (deferred first : Bool) : State :=
  State.raiseBoth (if first then (d.offer (d.shotTime d.now) (.stateEntry i cause deferred)).raiseBoth .shotStarted
    else d.offer (d.shotTime d.now) (.stateEntry i cause deferred)) .stateEntered

/-- The context, the STATE frame and the keepalive timer. -/
def finished (h : State) (i : Fin 32) (r : StateRecord) (cause : EntryCause) (first : Bool) : State :=
  { h with
    assess := some ⟨i, h.shotTime h.now, r.assessments.map fun a => a.opened h.signals⟩
    peer := { h.peer with sent := if h.seq.peerLinked = true ∧ h.peer.link = .up
                                  then h.peer.sent ++ [.state i.val cause h.timeOfDay] else h.peer.sent }
    guard := { h.guard with expiry := if first then
        (if h.guard.period = 0 then none else some (h.now + h.guard.period * 1000)) else h.guard.expiry } }

theorem sent_linked (k : State) (f : PeerFrame) : (if k.seq.peerLinked = true then k.send f else k) = { k with
    peer := { k.peer with
      sent := if k.seq.peerLinked = true ∧ k.peer.link = .up then k.peer.sent ++ [f] else k.peer.sent } } := by
  unfold State.send
  by_cases linked : k.seq.peerLinked = true
  · by_cases up : k.peer.link = .up
    · rw [if_pos linked, if_pos up, if_pos ⟨linked, up⟩]
    · rw [if_pos linked, if_neg up, if_neg fun both => up both.2]
  · rw [if_neg linked, if_neg fun both => linked both.1]

theorem finished_eq (h : State) : (let t := h.openContext i r
    let t := if t.seq.peerLinked then t.send (.state i.val cause t.timeOfDay) else t
    if first then t.startKeepalive else t) = finished h i r cause first := by
  dsimp only
  rewrite [sent_linked]
  cases first <;> rfl

theorem refreshReceive_now (s : State) (t : Nat) : (s.refreshReceive t).now = s.now := by
  obtain ⟨-, -, -, -, -, time, -⟩ := (Reacts.refreshReceive s t).keeps
  rw [State.now, time, State.now]

theorem foldl_scheduleAction (l : List OutputAction) (s : State) :
    l.foldl (fun s a => s.scheduleAction (decide (s.seq.visitCounts[i]'i.isLt = 1)) a) s
      = scheduleAll (decide (s.seq.visitCounts[i]'i.isLt = 1)) l s := by
  induction l generalizing s with
  | nil => rfl
  | cons a rest ih =>
    have seq := (scheduleAction_taken s (decide (s.seq.visitCounts[i]'i.isLt = 1)) a).seq
    rewrite [List.foldl_cons, ih, seq]
    rfl

/-- Whether this is the first visit of the state in the shot. -/
def firstVisit (u : State) (i : Fin 32) (r : StateRecord) (first : Bool) : Bool :=
  decide ((u.beginVisit i r first).seq.visitCounts[i]'i.isLt = 1)

/-- The state of an entry before its context is opened. -/
def scheduled (u : State) (i : Fin 32) (r : StateRecord) (cause : EntryCause) (deferred first : Bool) : State :=
  scheduleAll (firstVisit u i r first) r.actions
    ((announced (settledEntry u i r first) i cause deferred first).loadSynth r first)

theorem raised_then {s m t : State} {c : NotifyCause} (raised : Raised s m c)
    (later : ∀ q, (m.ports.get q).Grows (t.ports.get q)) : Raised s t c := fun q => by
  obtain ⟨requests, repeated⟩ := raised q
  obtain ⟨grows, grows', -⟩ := later q
  refine ⟨?_, fun held => ?_⟩
  · rewrite [BitVec.and_comm] at requests ⊢
    exact and_absorb_trans _ _ _ requests grows
  · have repeated := repeated held
    rewrite [BitVec.and_comm] at repeated ⊢
    exact and_absorb_trans _ _ _ repeated grows'

theorem raiseBoth_port (s : State) (c : NotifyCause) (q : Port) : (s.raiseBoth c).ports.get q = (s.ports.get q).raise c :=
  PerPort.get_map _ _ q

theorem raised_raiseBoth (s : State) (c : NotifyCause) : Raised s (s.raiseBoth c) c := raised_of_grows fun q => by
  rewrite [raiseBoth_port]
  exact PortInterface.Grows.refl _

/-- What the announcement of an entry leaves: its record, and its notifications. -/
structure Announced (d m : State) (i : Fin 32) (cause : EntryCause) (deferred first : Bool) : Prop where
  frame : m = { d with log := d.log.offered (d.makeRecord (d.shotTime d.now) (.stateEntry i cause deferred))
                       drains := m.drains, ports := m.ports }
  grows : ∀ q, (d.ports.get q).Grows (m.ports.get q)
  entered : Raised d m .stateEntered
  started : first = true → Raised d m .shotStarted

theorem announced_announced (d : State) (i : Fin 32) (cause : EntryCause) (deferred first : Bool) :
    Announced d (announced d i cause deferred first) i cause deferred first := by
  have offered := (Logs.offer d (d.shotTime d.now) (.stateEntry i cause deferred)).ports
  obtain ⟨dr, po, frame⟩ := offer_frame d (d.shotTime d.now) (.stateEntry i cause deferred)
  have raise (s : State) (c : NotifyCause) (q : Port) : (s.ports.get q).Grows ((s.raiseBoth c).ports.get q) := by
    rewrite [raiseBoth_port]
    exact PortInterface.Grows.raise _ _
  unfold announced
  generalize d.offer (d.shotTime d.now) (.stateEntry i cause deferred) = m at offered frame ⊢
  cases first with
  | false =>
    rewrite [if_neg Bool.false_ne_true]
    refine ⟨?_, fun q => (offered q).trans (raise m .stateEntered q),
      raised_of_later offered (raised_raiseBoth m .stateEntered), nofun⟩
    rewrite [frame]
    rfl
  | true =>
    have started := raised_of_later offered (raised_raiseBoth m .shotStarted)
    have before (q : Port) := (offered q).trans (raise m .shotStarted q)
    rewrite [if_pos rfl]
    refine ⟨?_, fun q => (before q).trans (raise (m.raiseBoth .shotStarted) .stateEntered q),
      raised_of_later before (raised_raiseBoth (m.raiseBoth .shotStarted) .stateEntered),
      fun _ => raised_then started (raise (m.raiseBoth .shotStarted) .stateEntered)⟩
    rewrite [frame]
    rfl

theorem reacts_visitCounts (h : (u.beginVisit i r first).Reacts d) :
    d.seq.visitCounts[i]'i.isLt = (u.beginVisit i r first).seq.visitCounts[i]'i.isLt := by
  rewrite [h.seq]
  rfl

/-- The entry follows its stages. -/
theorem entering_stages : entering u i r cause deferred first = scheduled u i r cause deferred first := by
  unfold entering
  extract_lets begun received evaluated recorded started raised loaded
  have settled : evaluated = settledEntry u i r first := congrArg received.evaluateConditions (refreshReceive_now begun begun.now)
  have reacts : begun.Reacts loaded := by
    refine .trans (t := received) (Reacts.refreshReceive _ _) ?_
    refine .trans (t := evaluated) (Hears.evaluateConditions _ _).toReacts ?_
    refine .trans (t := recorded) (Logs.offer _ _ _).reacts ?_
    refine .trans (t := started) (.ite _ (Logs.raiseBoth _ _).reacts) ?_
    exact .trans (t := raised) (Logs.raiseBoth _ _).reacts (reacts_loadSynth _ _ _)
  have stage : loaded = (announced (settledEntry u i r first) i cause deferred first).loadSynth r first :=
    congrArg (fun d => (announced d i cause deferred first).loadSynth r first) settled
  rewrite [foldl_scheduleAction, reacts_visitCounts reacts, stage]
  rfl

set_option Elab.async false in
theorem enterState_stages : u.enterState i r cause deferred first
    = finished (scheduled u i r cause deferred first) i r cause first := by
  rewrite [enterState_eq, entering_stages]
  exact finished_eq _

end Sys2Proof.Proofs.Entering
end

section
/-! PROOF. What the entry of a state leaves (O51 and O52, in part). -/

namespace Sys2Proof.Proofs.EntryStages

open Sys2Proof Sys2Proof.Machine Sys2Proof.Proofs.Answering Sys2Proof.Proofs.Arming Sys2Proof.Proofs.Ledger
  Sys2Proof.Proofs.ShotEnd Sys2Proof.Proofs.Invariants
  Sys2Proof.Proofs.EntryConditions Sys2Proof.Proofs.EntryReceive Sys2Proof.Proofs.EntrySynth
  Sys2Proof.Proofs.EntryOutputs Sys2Proof.Proofs.Entering

section Stages

variable {u d m h : State} {i : Fin 32} {r : StateRecord} {cause : EntryCause} {deferred first : Bool}

/-- The log `m` is `l` with records more, `x` among them where `p` holds. -/
def Adds (p : Prop) (x : LogRecord) (l m : ReportLog) : Prop := ∃ more, m.records = l.records ++ more ∧ (p → x ∈ more)

theorem adds_offered {k : Nat} {l m : ReportLog} (few : AtMost k l m) (x : LogRecord) :
    Adds (k + 1 ≤ l.unreserved) x l (m.offered x) := by
  have left := few.room (c := 1)
  obtain ⟨-, old, records, -⟩ := few
  by_cases room : 1 ≤ m.unreserved
  · refine ⟨old ++ [x], ?_, fun _ => List.mem_append_right _ List.mem_cons_self⟩
    rw [m.offered_write x room, records, List.append_assoc]
  · obtain ⟨-, added, written, -⟩ := AtMost.offered m x
    refine ⟨old ++ added, by rw [written, records, List.append_assoc], fun free => absurd (left free) room⟩

theorem Adds.later {p : Prop} {x : LogRecord} {k : Nat} {l m n : ReportLog} (h : Adds p x l m) (few : AtMost k m n) :
    Adds p x l n := by
  obtain ⟨old, records, written⟩ := h
  obtain ⟨-, added, more, -⟩ := few
  exact ⟨old ++ added, by rw [more, records, List.append_assoc], fun holds => List.mem_append_left _ (written holds)⟩

/-- An output once receive has been set, from the state of before. -/
def followed (u : State) (receive : Bool) (n : Fin 4) : Output :=
  if (u.outputs[n]'n.isLt).role = .tpReceive ∧ receive ≠ u.tp.receive then { role := .tpReceive, level := receive }
  else u.outputs[n]'n.isLt

theorem settled_received : Received (u.beginVisit i r first) (openedVisit u i r) r.conditions (settledEntry u i r first) :=
  receivesAtEntry ⟨rfl, rfl, rfl, rfl, rfl⟩

/-- The poles keep their positions, their open signals and their starts. -/
def PolesStand (u t : State) : Prop :=
  ∀ q : Pole, (t.breaker.poles.get q).position = (u.breaker.poles.get q).position
    ∧ (t.breaker.poles.get q).openSignal = (u.breaker.poles.get q).openSignal
    ∧ (t.breaker.poles.get q).start = (u.breaker.poles.get q).start

/-- The channels are as an entry leaves them (R50, R56, R57, R61, R67, R68). -/
def ChannelsLoaded (u : State) (r : StateRecord) (first : Bool) (t : State) : Prop :=
  ∀ c : Channel, ∀ ch old e cfg, ch = t.synth.channels.get c → old = u.synth.channels.get c →
    e = r.channels.get c → cfg = u.store.config.get c →
    ch.acc = old.acc ∧ ch.last = old.last ∧ ch.clip = old.clip ∧ ch.clipRecorded = false
    ∧ ch.resuming = false ∧ ch.link = e.link.resolve cfg ∧ ch.decay = decayFactor e.offsetTau
    ∧ ch.silencing = (if first = true ∨ e.link.resolve cfg ≠ old.link
                      then placeSilencing u.breaker.poles (e.link.resolve cfg) else old.silencing)
    ∧ ch.offset = (if ch.silencing = .silenced ∨ e.offsetTau = 0 then 0
                   else old.last - acSample ch.peak (old.acc + ch.phaseOffset))
    ∧ WorkingSetLoaded r c cfg ch

/-- What the stages before the output actions leave. -/
structure Loaded (u : State) (i : Fin 32) (r : StateRecord) (cause : EntryCause) (deferred first : Bool) (g : State) :
    Prop where
  frame : g = { u with
    seq := { (u.beginVisit i r first).seq with
      visit := some (evaluatedVisit (openedVisit u i r) g.signals (u.beginVisit i r first).nextBoundary r.conditions) }
    synth := { channels := g.synth.channels, ramp := rampContextOf r.ramp u.now }, outputs := g.outputs
    breaker := { u.breaker with poles := g.breaker.poles }, assess := g.assess, log := g.log, drains := g.drains
    time := { u.time with boundaryPassed := true }, actions := freshActions g.signals u.now r.conditions 0 u.actions
    tp := { u.tp with receive := u.tp.applied && !r.tpBlocked }, ports := g.ports }
  outputs : ∀ n : Fin 4, g.outputs[n]'n.isLt = followed u (u.tp.applied && !r.tpBlocked) n
  log : AtMost 6 u.log g.log
  entry : Adds (6 ≤ u.log.unreserved) ((u.beginVisit i r first).makeRecord ((u.beginVisit i r first).shotTime u.now)
    (.stateEntry i cause deferred)) u.log g.log
  follows : ∀ n : Fin 4, (g.outputs[n]'n.isLt).level ≠ (u.outputs[n]'n.isLt).level → 5 ≤ u.log.unreserved →
    (u.beginVisit i r first).makeRecord ((u.beginVisit i r first).shotTime u.now)
      (.outputChange n (g.outputs[n]'n.isLt).level .teleprotection) ∈ g.log.records
  poles : PolesStand u g
  channels : ChannelsLoaded u r first g

theorem loads (received : Received (u.beginVisit i r first) (openedVisit u i r) r.conditions d)
    (announced : Announced d m i cause deferred first) : Loaded u i r cause deferred first (m.loadSynth r first) := by
  have poles := pole_atEntry m r first
  have channels := channel_atEntry m r first
  have loaded := loadSynth_frame m r first
  obtain ⟨recorded, -, -, -⟩ := announced
  obtain ⟨settled, few, outputs, logged⟩ := received
  have signals : (m.loadSynth r first).signals = d.signals := (loadSynth_signals m r first).trans (by
    refine signals_congr ?_ ?_ ?_ <;> rw [recorded])
  generalize m.loadSynth r first = g at signals poles channels loaded ⊢
  rewrite [← signals] at settled
  generalize known : g.signals = sg at settled
  generalize m.drains = dr, m.ports = po at recorded
  generalize g.synth.channels = cs at *
  generalize g.breaker.poles = ps at *
  generalize d.synth.ramp = ra at settled
  generalize d.outputs = ou at settled outputs logged
  generalize d.log = lg at settled few logged
  generalize d.assess = x at settled
  generalize d.drains = dr' at settled
  generalize d.ports = po' at settled
  subst settled recorded loaded
  refine ⟨?_, outputs, few.trans (AtMost.offered lg _), adds_offered few _,
    fun n changes room => (AtMost.offered lg _).mem (logged n changes room), poles, channels⟩
  rewrite [known]
  rfl

/-- What the entry of a state leaves; `u` is the state with the visit before it ended and the edits applied. -/
structure Entered (u : State) (i : Fin 32) (r : StateRecord) (cause : EntryCause) (deferred first : Bool) (t : State) :
    Prop where
  frame : t = { u with
    seq := { (u.beginVisit i r first).seq with
      visit := some (evaluatedVisit (openedVisit u i r) t.signals (u.beginVisit i r first).nextBoundary r.conditions) }
    synth := { channels := t.synth.channels, ramp := rampContextOf r.ramp u.now }, outputs := t.outputs
    breaker := { u.breaker with poles := t.breaker.poles }
    assess := some ⟨i, (u.beginVisit i r first).shotTime u.now, r.assessments.map fun a => a.opened t.signals⟩
    log := t.log, drains := t.drains, time := { u.time with boundaryPassed := true }, actions := t.actions
    peer := { u.peer with sent := if u.seq.peerLinked = true ∧ u.peer.link = .up
                                  then u.peer.sent ++ [.state i.val cause u.timeOfDay] else u.peer.sent }
    tp := { u.tp with receive := u.tp.applied && !r.tpBlocked }
    guard := { u.guard with expiry := if first then
        (if u.guard.period = 0 then none else some (u.now + u.guard.period * 1000)) else u.guard.expiry }
    ports := t.ports }
  outputs : ∀ n : Fin 4, t.outputs[n]'n.isLt = { followed u (u.tp.applied && !r.tpBlocked) n with
    level := ((lastImmediate (firstVisit u i r first) n r.actions).map (·.level)).getD
      (followed u (u.tp.applied && !r.tpBlocked) n).level }
  log : AtMost (6 + r.actions.length) u.log t.log
  entry : Adds (6 ≤ u.log.unreserved) ((u.beginVisit i r first).makeRecord ((u.beginVisit i r first).shotTime u.now)
    (.stateEntry i cause deferred)) u.log t.log
  follows : ∀ n : Fin 4, (followed u (u.tp.applied && !r.tpBlocked) n).level ≠ (u.outputs[n]'n.isLt).level →
    5 ≤ u.log.unreserved → (u.beginVisit i r first).makeRecord ((u.beginVisit i r first).shotTime u.now)
      (.outputChange n (followed u (u.tp.applied && !r.tpBlocked) n).level .teleprotection) ∈ t.log.records
  acts : ∀ n : Fin 4, (t.outputs[n]'n.isLt).level ≠ (followed u (u.tp.applied && !r.tpBlocked) n).level →
    6 + r.actions.length ≤ u.log.unreserved →
    (u.beginVisit i r first).makeRecord ((u.beginVisit i r first).shotTime u.now)
      (.outputChange n (t.outputs[n]'n.isLt).level .state) ∈ t.log.records
  owed : ∀ k, owedTo k t.actions = owedTo k (freshActions t.signals u.now r.conditions 0 u.actions)
  placed : u.actions.held .stateOutput + r.actions.length ≤ 4 → ∀ a ∈ r.actions, 0 < a.delay →
    (a.once = true → firstVisit u i r first = true) → ∃ e ∈ t.actions.entries,
      e.due = u.now + a.delay * 100 ∧ e.work = .stateOutput a.output a.level ∧ e.owner = some u.now
  skipped : (∀ a ∈ r.actions, a.once = true) → firstVisit u i r first = false →
    t.actions = freshActions t.signals u.now r.conditions 0 u.actions
  poles : PolesStand u t
  channels : ChannelsLoaded u r first t

set_option Elab.async false in
theorem enters {g : State} (loaded : Loaded u i r cause deferred first g) : Entered u i r cause deferred first
    (finished (scheduleAll (firstVisit u i r first) r.actions g) i r cause first) := by
  obtain ⟨frame, outputs, few, entry, follows, poles, channels⟩ := loaded
  obtain ⟨schedules, owed, -, more⟩ := scheduleAll_frame (fv := firstVisit u i r first) r.actions g
  have set := scheduleAll_output (fv := firstVisit u i r first) r.actions g
  have logged := scheduleAll_logged (fv := firstVisit u i r first) r.actions g
  have placed := scheduleAll_placed (fv := firstVisit u i r first) r.actions g
  have skipped := fun once later => congrArg State.actions
    (scheduleAll_skipped (fv := firstVisit u i r first) (l := r.actions) once later g)
  have active : g.shotActive = true := (shotActive_iff g).2 (by rw [frame]; exact nofun)
  have record (x : RecordBody) : g.makeRecord (g.shotTime g.now) x
      = (u.beginVisit i r first).makeRecord ((u.beginVisit i r first).shotTime u.now) x := by rw [frame]; rfl
  have now : g.now = u.now := by rw [frame]; rfl
  have before : (scheduleAll (firstVisit u i r first) r.actions g).signals = g.signals :=
    signals_congr ((congrArg State.inputs schedules).trans rfl) ((congrArg State.breaker schedules).trans rfl)
      ((congrArg State.tp schedules).trans rfl)
  have same : (finished (scheduleAll (firstVisit u i r first) r.actions g) i r cause first).signals = g.signals :=
    (signals_congr rfl rfl rfl).trans before
  have held := freshActions_held_other (signals := g.signals) (now := u.now) r.conditions 0 u.actions
    (g := .stateOutput) nofun
  have actions : g.actions = freshActions g.signals u.now r.conditions 0 u.actions :=
    (congrArg State.actions frame).trans rfl
  rewrite [now, actions, held] at placed
  rewrite [actions] at owed skipped
  simp only [record] at logged
  simp only [outputs] at set logged follows
  refine {
    frame := ?_, outputs := set, log := few.trans more, entry := entry.later more
    follows := fun n changes room => more.mem (follows n changes room)
    acts := fun n changes room => logged active (few.room room) n changes
    owed := same ▸ owed, placed := placed, skipped := same ▸ skipped, poles := ?_, channels := ?_ }
  · rewrite [same, finished, before]
    generalize scheduleAll (firstVisit u i r first) r.actions g = h at schedules
    generalize g.signals = sg at frame
    generalize h.outputs = ou, h.actions = ac, h.log = lg, h.drains = dr, h.ports = po at schedules
    subst schedules
    generalize g.synth.channels = cs, g.outputs = ou', g.breaker.poles = ps, g.assess = x, g.log = lg', g.drains = dr',
      g.ports = po' at frame
    subst frame
    rfl
  · exact (congrArg (fun h : State => PolesStand u h) schedules).mpr poles
  · exact (congrArg (fun h : State => ChannelsLoaded u r first h) schedules).mpr channels

end Stages

end Sys2Proof.Proofs.EntryStages
end

section
/-! PROOF. The entry of a state, from the state before its visit (O51 and O52, in part). -/

namespace Sys2Proof.Proofs.StateEntry

open Sys2Proof Sys2Proof.Machine Sys2Proof.Proofs.Answering Sys2Proof.Proofs.Arming Sys2Proof.Proofs.Ledger
  Sys2Proof.Proofs.ShotEnd Sys2Proof.Proofs.Invariants Sys2Proof.Proofs.EditControl Sys2Proof.Proofs.Guarding
  Sys2Proof.Proofs.Ending Sys2Proof.Proofs.Verdicts
  Sys2Proof.Proofs.EntryConditions Sys2Proof.Proofs.EntryReceive Sys2Proof.Proofs.EntrySynth
  Sys2Proof.Proofs.EntryOutputs Sys2Proof.Proofs.Entering Sys2Proof.Proofs.EntryStages

section Entry

variable {u : State} {i : Fin 32} {r : StateRecord} {cause : EntryCause} {deferred first : Bool}

theorem entered_enterState (u : State) (i : Fin 32) (r : StateRecord) (cause : EntryCause) (deferred first : Bool) :
    Entered u i r cause deferred first (u.enterState i r cause deferred first) := by
  rewrite [enterState_stages]
  exact enters (loads settled_received (announced_announced _ i cause deferred first))

theorem enterState_verdicts : (u.enterState i r cause deferred first).log.verdicts = u.log.verdicts := by
  obtain ⟨-, -, verdicts⟩ := (reacts_entering u i r cause deferred first).log
  rewrite [enterState_stages, ← entering_stages]
  exact verdicts

theorem scheduleAction_grows (s : State) (fv : Bool) (a : OutputAction) (q : Port) :
    (s.ports.get q).Grows ((s.scheduleAction fv a).ports.get q) := by
  unfold State.scheduleAction
  split
  · exact .refl _
  split
  · exact (Reacts.setOutput { s with actions := s.actions.placeAndTake } a.output a.level .state).ports q
  · exact .refl _

theorem scheduleAll_grows (fv : Bool) (l : List OutputAction) (s : State) (q : Port) :
    (s.ports.get q).Grows ((scheduleAll fv l s).ports.get q) := by
  induction l generalizing s with
  | nil => exact .refl _
  | cons a rest ih => exact (scheduleAction_grows s fv a q).trans (ih _)

/-- The notifications of an entry (R168). -/
theorem enterState_notifies : (∀ q, (u.ports.get q).Grows ((u.enterState i r cause deferred first).ports.get q))
    ∧ Raised u (u.enterState i r cause deferred first) .stateEntered
    ∧ (first = true → Raised u (u.enterState i r cause deferred first) .shotStarted) := by
  have early (q : Port) : (u.ports.get q).Grows ((settledEntry u i r first).ports.get q) :=
    ((Reacts.refreshReceive (u.beginVisit i r first) u.now).trans (Hears.evaluateConditions _ _).toReacts).ports q
  obtain ⟨-, between, entered, started⟩ := announced_announced (settledEntry u i r first) i cause deferred first
  have late (q : Port) : ((announced (settledEntry u i r first) i cause deferred first).ports.get q).Grows
      ((u.enterState i r cause deferred first).ports.get q) := by
    rewrite [enterState_stages]
    exact scheduleAll_grows _ _ ((announced (settledEntry u i r first) i cause deferred first).loadSynth r first) q
  exact ⟨fun q => ((early q).trans (between q)).trans (late q), raised_of_later early (raised_then entered late),
    fun starts => raised_of_later early (raised_then (started starts) late)⟩

end Entry

/-! ### The state before an entry -/

section Base

variable {s w u : State} {first : Bool}

/-- The state `w` is `s` with the visit before the entry ended, if there is one. -/
structure VisitOver (s w : State) (first : Bool) : Prop where
  frame : w = { s with
    seq := { s.seq with
      visit := w.seq.visit, chosen := w.seq.chosen, deferring := w.seq.deferring, softEnd := w.seq.softEnd }
    assess := w.assess, actions := w.actions, log := w.log, drains := w.drains, ports := w.ports, freeUsed := w.freeUsed }
  log : AtMost (CaptureCount s + 1) s.log w.log
  actions : ∀ a ∈ w.actions.entries, a ∈ s.actions.entries ∧ (first = false → a.owner = none)
  grows : ∀ q, (s.ports.get q).Grows (w.ports.get q)

theorem visitOver_first (s : State) : VisitOver s s true :=
  ⟨rfl, (AtMost.refl _).mono (Nat.zero_le _), fun _ mem => ⟨mem, nofun⟩, fun _ => .refl _⟩

theorem foldl_offered_atMost {α : Type} (f : α → LogRecord) (l : List α) (m : ReportLog) :
    AtMost l.length m (l.foldl (fun m b => m.offered (f b)) m) := by
  induction l generalizing m with
  | nil => exact AtMost.refl _
  | cons b rest ih => exact ((AtMost.offered m (f b)).trans (ih _)).mono (by rw [List.length_cons]; omega)

theorem visitOver_endVisit {v : Visit} (visit : s.seq.visit = some v) : VisitOver s (s.endVisit false) false := by
  have run := endVisit_some s false v visit
  have few := visitBodies_length s false v
  have log : AtMost (CaptureCount s + 1) s.log (s.endVisit false).log := by
    have offered := foldl_offered_atMost (s.makeRecord (s.shotTime s.now)) (s.visitBodies false v) (s.visitClosed false).log
    rewrite [endVisit_log, endLog, visit]
    exact AtMost.mono ⟨offered.reservation, offered.records⟩ few
  have ports := (Winds.endVisit s false).ports
  obtain ⟨lg, dr, po, frame⟩ := offerAll_frame (s.visitBodies false v) (s.visitClosed false) (s.shotTime s.now)
  rewrite [run, frame] at log ports ⊢
  refine ⟨rfl, log, fun a mem => ?_, ports⟩
  obtain ⟨old, free⟩ := List.mem_filter.1 mem
  exact ⟨old, fun _ => Option.isNone_iff_eq_none.1 free⟩

/-- The state `u` is `s` with the visit before the entry ended and the edits applied. -/
structure Based (s u : State) (first : Bool) : Prop where
  frame : u = { s with
    store := u.store
    seq := { s.seq with
      visit := u.seq.visit, chosen := u.seq.chosen, deferring := u.seq.deferring, softEnd := u.seq.softEnd }
    assess := u.assess, actions := u.actions, log := u.log, drains := u.drains, ports := u.ports, freeUsed := u.freeUsed }
  log : AtMost (CaptureCount s + 1) s.log u.log
  actions : ∀ a ∈ u.actions.entries, a ∈ s.actions.entries ∧ (first = false → a.owner = none)
  applied : s.noHold = true → PendingCopiesApplied s u
  held : s.noHold = false → u.store = s.store
  config : u.store.config = s.store.config
  grows : ∀ q, (s.ports.get q).Grows (u.ports.get q)
  edits : s.noHold = true → s.store.anyStaged = true → Raised s u .editsApplied

theorem applyPoint_raised (s : State) (free : s.noHold = true) (staged : s.store.anyStaged = true) :
    Raised s s.applyPoint .editsApplied := by
  have both : (s.noHold && s.store.anyStaged) = true := by rw [free, staged]; rfl
  refine raised_of_grows fun q => ?_
  unfold State.applyPoint
  rewrite [if_pos both, raiseBoth_ports, PerPort.get_map]
  exact .refl _

set_option Elab.async false in
theorem based_applyPoint (h : VisitOver s w first) : Based s w.applyPoint first := by
  obtain ⟨frame, log, actions, grows⟩ := h
  have noHold : w.noHold = s.noHold := (congrArg State.noHold frame).trans rfl
  have store : w.store = s.store := (congrArg State.store frame).trans rfl
  have copies := pendingCopiesApplied_applyPoint w
  have held := applyPoint_held w
  have config := applyPoint_config w
  have later := applyPoint_grows w
  have edits := applyPoint_raised w
  rewrite [noHold] at copies held edits
  rewrite [store] at config edits
  unfold PendingCopiesApplied at copies
  rewrite [store] at copies
  obtain ⟨st, po, applied⟩ := applyPoint_frame w
  rewrite [applied] at copies held config later edits ⊢
  refine ⟨?_, log, actions, copies, fun holds => ?_, config, fun q => (grows q).trans (later q),
    fun free staged => raised_of_later grows (edits free staged)⟩
  · exact congrArg (fun k : State => { k with store := st, ports := po }) frame
  · exact (congrArg State.store (held holds)).trans store

end Base

end Sys2Proof.Proofs.StateEntry
end

section
/-! PROOF. The parts of an entry that the obligations name (O51 and O52, in part). -/

namespace Sys2Proof.Proofs.StateEntry

open Sys2Proof Sys2Proof.Machine Sys2Proof.Proofs.Ledger Sys2Proof.Proofs.ShotEnd
  Sys2Proof.Proofs.EntryConditions Sys2Proof.Proofs.EntryReceive Sys2Proof.Proofs.EntrySynth
  Sys2Proof.Proofs.EntryOutputs Sys2Proof.Proofs.Entering Sys2Proof.Proofs.EntryStages

variable {s u t : State} {i : Fin 32} {r : StateRecord} {cause : EntryCause} {deferred first : Bool}

/-! ### The instant of the entry -/

theorem beginVisit_shotTime (u : State) (i : Fin 32) (r : StateRecord) (first : Bool) :
    (u.beginVisit i r first).shotTime u.now = if first then 0 else u.shotTime u.now := by
  cases first with
  | false => rfl
  | true => exact Nat.sub_self u.now

theorem beginVisit_lastEntry (u : State) (i : Fin 32) (r : StateRecord) (first : Bool) :
    (u.beginVisit i r first).seq.lastEntry
      = some { state := i, entryShot := if first then 0 else u.shotTime u.now, entryAbs := u.timeOfDay } := by
  have shot : u.now - (if first then some u.now else u.seq.firstEntryAt).getD u.now
      = if first then 0 else u.shotTime u.now := by
    cases first with
    | true => exact Nat.sub_self u.now
    | false =>
      rewrite [if_neg Bool.false_ne_true, if_neg Bool.false_ne_true, State.shotTime]
      cases u.seq.firstEntryAt with
      | none => exact Nat.sub_self u.now
      | some f => rfl
  exact congrArg (fun x : Nat => some (LastEntry.mk i x u.timeOfDay)) shot

theorem beginVisit_nextBoundary (r : StateRecord) (boundary : u.time.counter % 100 = 0) :
    (u.beginVisit i r first).nextBoundary = u.now + 100 := by
  have closed : (u.beginVisit i r first).openBoundary = false := Bool.and_false _
  have next : u.now + (100 - u.time.counter % 100) = u.now + 100 := by rw [boundary]
  rewrite [State.nextBoundary, closed]
  exact next

theorem firstVisit_iff (r : StateRecord) : firstVisit u i r first = true ↔ u.seq.visitCounts[i]'i.isLt = 0 := by
  have counted : (u.beginVisit i r first).seq.visitCounts[i]'i.isLt = u.seq.visitCounts[i]'i.isLt + 1 :=
    Vector.getElem_set_self _
  rewrite [firstVisit, decide_eq_true_iff, counted]
  exact Nat.succ_inj

section Parts

variable (based : Based s u first) (entered : Entered u i r cause deferred first t)

include based in
theorem Based.shot (i : Fin 32) (r : StateRecord) :
    (u.beginVisit i r first).shotTime u.now = if first then 0 else s.shotTime s.now := by
  rewrite [beginVisit_shotTime, based.frame]
  rfl

include based in
theorem Based.record (x : RecordBody) : (u.beginVisit i r first).makeRecord ((u.beginVisit i r first).shotTime u.now) x
    = s.makeRecord (if first then 0 else s.shotTime s.now) x := by
  rewrite [beginVisit_shotTime, based.frame]
  rfl

/-- The sequencer as the visit begins (R30, R31, R46). -/
def begunSeq (s : State) (i : Fin 32) (first : Bool) (softEnd : Option Nat) (v : Visit) : Sequencer :=
  { s.seq with
    phase := .running, chosen := none, deferring := false, startBoundary := none
    firstEntryAt := if first then some s.now else s.seq.firstEntryAt
    startTime := if first then some s.timeOfDay else s.seq.startTime
    softEnd := softEnd
    visitCounts := s.seq.visitCounts.set i (s.seq.visitCounts[i] + 1)
    lastEntry := some { state := i, entryShot := if first then 0 else s.shotTime s.now, entryAbs := s.timeOfDay }
    visit := some v }

include based in
theorem Based.begunSeq (v : Visit) : { (u.beginVisit i r first).seq with visit := some v }
    = begunSeq s i first u.seq.softEnd v := by
  have last := beginVisit_lastEntry u i r first
  have spelt : { (u.beginVisit i r first).seq with visit := some v } = { u.seq with
      phase := .running, chosen := none, deferring := false, startBoundary := none
      firstEntryAt := if first then some u.now else u.seq.firstEntryAt
      startTime := if first then some u.timeOfDay else u.seq.startTime
      visitCounts := u.seq.visitCounts.set i (u.seq.visitCounts[i] + 1)
      lastEntry := (u.beginVisit i r first).seq.lastEntry, visit := some v } := rfl
  rewrite [spelt, last, based.frame]
  rfl

theorem freshCondition_truth {signals : Mask} {next : Nat} {cs : List Condition} :
    (cs.map (freshCondition signals next)).map (·.condition) = cs
    ∧ ∀ c ∈ cs.map (freshCondition signals next), (c.truth = true ↔
        signals &&& c.condition.enable = c.condition.value &&& c.condition.enable) := by
  refine ⟨?_, fun c mem => ?_⟩
  · rewrite [List.map_map]
    exact List.map_id' cs
  · rewrite [← freshCondition_settled c mem]
    exact decide_eq_true_iff

include based entered in
theorem entered_frame : t = { s with
      store := t.store, seq := t.seq, synth := t.synth, outputs := t.outputs
      breaker := { s.breaker with poles := t.breaker.poles }
      assess := t.assess, log := t.log, drains := t.drains
      time := { s.time with boundaryPassed := true }
      actions := t.actions
      peer := { s.peer with
        sent := if s.seq.peerLinked = true ∧ s.peer.link = .up
                then s.peer.sent ++ [.state i.val cause s.timeOfDay] else s.peer.sent }
      tp := { s.tp with receive := s.tp.applied && !r.tpBlocked }
      guard := { s.guard with
        expiry := if first then
            (if s.guard.period = 0 then none else some (s.now + s.guard.period * 1000))
          else s.guard.expiry }
      ports := t.ports, freeUsed := t.freeUsed } := by
  have before := based.frame
  have after := entered.frame
  generalize u.store = st, u.seq.visit = v, u.seq.chosen = ch, u.seq.deferring = df, u.seq.softEnd = se, u.assess = x,
    u.actions = ac, u.log = lg, u.drains = dr, u.ports = po, u.freeUsed = fr at before
  subst before
  generalize t.signals = sg, t.synth.channels = cs, t.outputs = ou, t.breaker.poles = ps, t.log = lg', t.drains = dr',
    t.actions = ac', t.ports = po' at after
  subst after
  rfl

include based entered in
theorem stateEntered (notifies : (∀ q, (u.ports.get q).Grows (t.ports.get q)) ∧ Raised u t .stateEntered
      ∧ (first = true → Raised u t .shotStarted)) : StateEntered s t i r cause first := by
  obtain ⟨grows, notified, started⟩ := notifies
  have now : u.now = s.now := (congrArg State.now based.frame).trans rfl
  have time : u.timeOfDay = s.timeOfDay := (congrArg State.timeOfDay based.frame).trans rfl
  have shot := based.shot i r
  have seq := ((congrArg State.seq entered.frame).trans rfl).trans (based.begunSeq _)
  have store : t.store = u.store := (congrArg State.store entered.frame).trans rfl
  have soft : t.seq.softEnd = u.seq.softEnd := (congrArg Sequencer.softEnd seq).trans rfl
  have context : t.assess = some ⟨i, _, _⟩ := (congrArg State.assess entered.frame).trans rfl
  have ramp : t.synth.ramp = rampContextOf r.ramp s.now := by
    rewrite [← now]
    exact (congrArg (fun k : State => k.synth.ramp) entered.frame).trans rfl
  obtain ⟨ramped, stopped, stepping⟩ := rampContext_atEntry r s.now
  obtain ⟨conditions, truths⟩ := freshCondition_truth (signals := t.signals) (next := (u.beginVisit i r first).nextBoundary)
    (cs := r.conditions)
  refine ⟨entered_frame based entered, ?_, ?_, ?_, ⟨evaluatedVisit (openedVisit u i r) t.signals
      (u.beginVisit i r first).nextBoundary r.conditions, ?_, rfl, now, time, rfl, ?_, conditions, truths⟩, ?_, ?_,
    ramp ▸ ramped, ramp ▸ stopped, ramp ▸ stepping, ?_, raised_of_later based.grows notified,
    fun starts => raised_of_later based.grows (started starts), fun free staged => raised_then (based.edits free staged) grows⟩
  · intro free k
    rewrite [store]
    exact based.applied free k
  · exact fun holds => store.trans (based.held holds)
  · rewrite [store]
    exact based.config
  · rewrite [soft]
    exact seq
  · show (if r.duration = 0 then none else some (u.now + r.duration * 100)) = _
    rw [now]
  · intro q
    have stands := entered.poles q
    rewrite [based.frame] at stands
    exact stands
  · intro c ch old e cfg hch hold he hcfg
    have breaker : u.breaker = s.breaker := (congrArg State.breaker based.frame).trans rfl
    have synth : u.synth = s.synth := (congrArg State.synth based.frame).trans rfl
    have loaded := entered.channels c ch old e cfg hch (hold.trans (by rw [synth])) he (hcfg.trans (by rw [based.config]))
    rewrite [breaker] at loaded
    exact loaded
  · rewrite [context, shot]
    rfl

include based entered in
theorem entryRecorded {w : State} (log : u.log = w.log) (verdicts : t.log.verdicts = u.log.verdicts) :
    EntryRecorded s w t i cause deferred first := by
  obtain ⟨more, records, written⟩ := entered.entry
  rewrite [based.record] at written
  rewrite [log] at verdicts records
  exact ⟨verdicts, more, records, fun room => written (based.log.room (by omega))⟩

include based in
/-- The list at an entry holds no action of a group that only visits own. -/
theorem Based.none_of {g : Group} (owned : ∀ a ∈ s.actions.entries, a.work.group = g → first = false ∧ a.owner ≠ none) :
    ∀ a ∈ u.actions.entries, a.work.group ≠ g := by
  intro a mem group
  obtain ⟨old, free⟩ := based.actions a mem
  obtain ⟨later, owner⟩ := owned a old group
  exact owner (free later)

theorem held_zero {l : TimedList} {g : Group} (none : ∀ a ∈ l.entries, a.work.group ≠ g) : l.held g = 0 := by
  unfold TimedList.held
  rewrite [List.length_eq_zero_iff, List.filter_eq_nil_iff]
  exact fun a mem own => none a mem (of_decide_eq_true own)

theorem owedTo_nil {l : TimedList} (none : ∀ a ∈ l.entries, a.work.group ≠ .condition) (k : Fin 4) : owedTo k l = [] := by
  unfold owedTo
  rewrite [List.map_eq_nil_iff, List.filter_eq_nil_iff]
  intro a mem own
  have work : a.work = .condition k := of_decide_eq_true own
  exact none a mem (by rw [work]; rfl)

include based entered in
theorem conditionsAtEntry (boundary : s.time.counter % 100 = 0) : ConditionsAtEntry s t r first := by
  rintro few owned k held rfl
  have now : u.now = s.now := (congrArg State.now based.frame).trans rfl
  have counter : u.time = s.time := (congrArg State.time based.frame).trans rfl
  have visit : t.seq.visit = some (evaluatedVisit (openedVisit u i r) t.signals (s.now + 100) r.conditions) := by
    rewrite [← now, ← beginVisit_nextBoundary (i := i) (first := first) r (by rw [counter]; exact boundary)]
    exact (congrArg (fun k : State => k.seq.visit) entered.frame).trans rfl
  have none := based.none_of owned
  have owes := owedTo_freshActions (signals := t.signals) (now := s.now) r.conditions (j := 0) (l := u.actions) (by omega)
    (fun k _ => owedTo_nil none k) (by rw [held_zero none]; omega) k
  have owed : owedTo k t.actions = _ := entered.owed k
  rewrite [now, owes, if_neg (Nat.not_lt_zero _), Nat.sub_zero] at owed
  refine ⟨fun absent => ?_, fun c v holds here stands truth => ?_⟩
  · rewrite [absent] at owed
    exact owed
  · obtain rfl := Option.some.inj (visit.symm.trans stands)
    obtain rfl : c.holds t.signals = holds := Bool.eq_iff_iff.2 (decide_eq_true_iff.trans truth.symm)
    rewrite [here] at owed
    refine ⟨?_, owed⟩
    show (r.conditions.map (freshCondition t.signals (s.now + 100)))[k.val]? = _
    rewrite [List.getElem?_map, here]
    rfl

include based in
theorem Based.firstVisit_iff (i : Fin 32) (r : StateRecord) :
    firstVisit u i r first = true ↔ s.seq.visitCounts[i]'i.isLt = 0 := by
  have counts : u.seq.visitCounts = s.seq.visitCounts := (congrArg (fun k : State => k.seq.visitCounts) based.frame).trans rfl
  rw [StateEntry.firstVisit_iff, counts]

include based entered in
theorem actionsScheduled : ActionsScheduled s t i r first := by
  intro few owned
  have now : u.now = s.now := (congrArg State.now based.frame).trans rfl
  have none := based.none_of owned
  have first := based.firstVisit_iff i r
  refine ⟨fun a mem delayed once => ?_, fun all visited e mem => ?_⟩
  · rewrite [← now]
    exact entered.placed (by rw [held_zero none]; omega) a mem delayed fun flagged => first.2 (once flagged)
  · have unchanged := entered.skipped all (Bool.eq_false_iff.2 fun isFirst => visited (first.1 isFirst))
    have held := freshActions_held_other (signals := t.signals) (now := u.now) r.conditions 0 u.actions
      (g := .stateOutput) nofun
    rewrite [← unchanged, held_zero none, TimedList.held, List.length_eq_zero_iff, List.filter_eq_nil_iff] at held
    exact fun own => held e mem (decide_eq_true own)

include based in
theorem Based.lastImmediate_eq (n : Fin 4) : lastImmediate (firstVisit u i r first) n r.actions = ImmediateAction s i r n := by
  have test (a : OutputAction) : immediate (firstVisit u i r first) n a
      = decide (a.output = n ∧ a.delay = 0 ∧ (a.once = true → s.seq.visitCounts[i]'i.isLt = 0)) := by
    unfold immediate
    simp only [based.firstVisit_iff i r]
  exact congrArg List.getLast? (List.filter_congr fun a _ => test a)

include based entered in
set_option Elab.async false in
theorem outputsAtEntry : OutputsAtEntry s t i r first := by
  rintro n level known
  have outputs : u.outputs = s.outputs := (congrArg State.outputs based.frame).trans rfl
  have before : u.tp = s.tp := (congrArg State.tp based.frame).trans rfl
  have receive : t.tp.receive = (s.tp.applied && !r.tpBlocked) := by
    rewrite [← before]
    exact (congrArg (fun k : State => k.tp.receive) entered.frame).trans rfl
  have middle : followed u (u.tp.applied && !r.tpBlocked) n = { s.outputs[n] with level := level } := by
    rewrite [known, receive, followed, outputs, before]
    by_cases follows : (s.outputs[n]'n.isLt).role = .tpReceive ∧ (s.tp.applied && !r.tpBlocked) ≠ s.tp.receive
    · obtain ⟨role, -⟩ := id follows
      rewrite [if_pos follows, if_pos follows]
      exact congrArg (fun x => Output.mk x _) role.symm
    · rw [if_neg follows, if_neg follows]
  have output := entered.outputs n
  have follows := entered.follows n
  have acts := entered.acts n
  rewrite [based.lastImmediate_eq, middle] at output
  rewrite [middle, based.record, outputs] at follows
  rewrite [middle, based.record] at acts
  refine ⟨output.trans ?_, fun few room => ⟨fun changes => follows changes (based.log.room (by omega)),
    fun changes => acts changes (based.log.room (by omega))⟩⟩
  cases ImmediateAction s i r n <;> rfl

end Parts

end Sys2Proof.Proofs.StateEntry
end

section
/-! PROOF. FIRST_ENTRY and STATE_ENTRY (O51 and O52). -/

namespace Sys2Proof.Proofs.StateEntry

open Sys2Proof Sys2Proof.Machine Sys2Proof.Proofs.EditControl Sys2Proof.Proofs.ShotEnd Sys2Proof.Proofs.EntryStages

variable {s w : State} {i : Fin 32} {r : StateRecord} {cause : EntryCause} {deferred first : Bool} {c : Chosen}

/-! ### The entry -/

theorem Based.active {u : State} (based : Based s u first) (entered : EnteredRecord s i r) :
    (u.store.slots[i]'i.isLt).active = some r := by
  have unstaged (active : (s.store.slots[i]'i.isLt).active = some r)
      (same : u.store.slots[i]'i.isLt = s.store.slots[i]'i.isLt) : (u.store.slots[i]'i.isLt).active = some r :=
    (congrArg Slot.active same).trans active
  rcases entered with ⟨free, q, staged⟩ | ⟨held | none, active⟩
  · obtain ⟨-, applied⟩ := based.applied free i
    rw [applied q r staged]
  · exact unstaged active (by rw [based.held held])
  · by_cases free : s.noHold = true
    · exact unstaged active ((based.applied free i).1 none)
    · exact unstaged active (by rw [based.held (Bool.eq_false_iff.2 free)])

/-- All that the entry of a state says. -/
theorem entersState (cause : EntryCause) (deferred : Bool) (ready : VisitOver s w first) (entered : EnteredRecord s i r)
    (boundary : s.time.counter % 100 = 0) : ∃ t, w.enter i cause deferred first = .next t
      ∧ StateEntered s t i r cause first ∧ EntryRecorded s w t i cause deferred first
      ∧ ActionsScheduled s t i r first ∧ ConditionsAtEntry s t r first ∧ OutputsAtEntry s t i r first
      ∧ t.seq.softEnd = w.seq.softEnd := by
  have based := based_applyPoint ready
  have active := based.active entered
  have stages := entered_enterState w.applyPoint i r cause deferred first
  obtain ⟨st, po, frame⟩ := applyPoint_frame w
  have log : w.applyPoint.log = w.log := by rw [frame]
  have soft : (w.applyPoint.enterState i r cause deferred first).seq.softEnd = w.applyPoint.seq.softEnd :=
    (congrArg (fun k : State => k.seq.softEnd) stages.frame).trans rfl
  refine ⟨w.applyPoint.enterState i r cause deferred first, ?_, stateEntered based stages enterState_notifies,
    entryRecorded based stages log enterState_verdicts, actionsScheduled based stages, conditionsAtEntry based stages boundary,
    outputsAtEntry based stages, soft.trans (by rw [frame])⟩
  unfold State.enter
  dsimp only
  rw [active]

/-! ### FIRST_ENTRY (R25 to R28) -/

section First

theorem startStep_eq (armed : s.seq.phase = .armed) (state : s.seq.firstState = some i) (opens : s.openBoundary = true) :
    s.startStep = if s.timedStart = true then (if s.startTimeHere = true then .enter i false else .nothing)
      else if s.startHere = true then
        (if s.inceptionReached (s.startTransition i).inception = true then .enter i s.seq.deferring
         else if s.seq.deferring = true then .nothing else .defer (s.startTransition i))
      else .nothing := by
  unfold State.startStep
  rewrite [armed, state, opens]
  rfl

theorem exec_enters {b : Bool} (step : s.startStep = .enter i b) : exec .firstEntry s = s.enter i .start b true := by
  show execFirstEntry s = _
  rw [execFirstEntry, step]

theorem exec_waits (step : s.startStep = .nothing) : exec .firstEntry s = .next s := by
  show execFirstEntry s = _
  rw [execFirstEntry, step]

theorem exec_defers (step : s.startStep = .defer c) : exec .firstEntry s = .next (s.defer c) := by
  show execFirstEntry s = _
  rw [execFirstEntry, step]

theorem startTransition_some (chosen : s.seq.chosen = some c) (i : Fin 32) : s.startTransition i = c := by
  rw [State.startTransition, chosen]

theorem startTransition_none (chosen : s.seq.chosen = none) (i : Fin 32) : s.startTransition i
    = { target := .state i, cause := .start, boundary := s.now, inception := s.inceptionOf (.state i) } := by
  rw [State.startTransition, chosen]

/-- What a first entry at this boundary says. -/
theorem entersFirst {b : Bool} (step : s.startStep = .enter i b) (entered : EnteredRecord s i r)
    (boundary : s.time.counter % 100 = 0) : ∃ t, exec .firstEntry s = .next t ∧ StateEntered s t i r .start true
      ∧ EntryRecorded s s t i .start b true ∧ ActionsScheduled s t i r true
      ∧ ConditionsAtEntry s t r true ∧ OutputsAtEntry s t i r true := by
  obtain ⟨t, run, whole, recorded, scheduled, conditions, outputs, -⟩ :=
    entersState .start b (visitOver_first s) entered boundary
  exact ⟨t, (exec_enters step).trans run, whole, recorded, scheduled, conditions, outputs⟩

end First

/-- Settles O51. -/
theorem firstEntryStartsTheShot : Obligations.FirstEntryStartsTheShot := by
  intro i s armed state boundary passed
  have step := startStep_eq armed state (openBoundary_of boundary passed)
  refine ⟨fun r t0 entered timed start here => ?_, fun timed never => ?_, fun untimed early => ?_,
    fun b untimed fixed late => ⟨fun r entered unchosen reached => ?_, fun r c entered chosen reached => ?_,
      fun unchosen fresh unreached => ?_, fun c chosen deferring unreached => ?_⟩⟩
  · have now : s.startTimeHere = true := by
      rewrite [State.startTimeHere, start]
      exact decide_eq_true here
    rewrite [if_pos timed, if_pos now] at step
    exact entersFirst step entered boundary
  · have other : ¬ s.startTimeHere = true := by
      unfold State.startTimeHere
      split
      next t0 start => exact fun now => never t0 start (of_decide_eq_true now)
      next => exact Bool.false_ne_true
    rewrite [if_pos timed, if_neg other] at step
    exact exec_waits step
  · have other : ¬ s.startHere = true := by
      unfold State.startHere
      split
      next b fixed => exact fun now => absurd (of_decide_eq_true now) (Nat.not_le_of_lt (early b fixed))
      next => exact Bool.false_ne_true
    rewrite [if_neg (Bool.eq_false_iff.1 untimed), if_neg other] at step
    exact exec_waits step
  all_goals
    have now : s.startHere = true := by
      rewrite [State.startHere, fixed]
      exact decide_eq_true late
    rewrite [if_neg (Bool.eq_false_iff.1 untimed), if_pos now] at step
  · rewrite [startTransition_none unchosen, if_pos reached] at step
    exact entersFirst step entered boundary
  · rewrite [startTransition_some chosen, if_pos reached] at step
    exact entersFirst step entered boundary
  · rewrite [startTransition_none unchosen, if_neg (Bool.eq_false_iff.1 unreached), if_neg (Bool.eq_false_iff.1 fresh)] at step
    exact exec_defers step
  · rewrite [startTransition_some chosen, if_neg (Bool.eq_false_iff.1 unreached), if_pos deferring] at step
    exact exec_waits step

/-! ### STATE_ENTRY (R29 to R35) -/

theorem exec_stateEntry (choice : s.choiceOfState = some (c, i)) : exec .stateEntry s
    = if s.inceptionReached c.inception = true then (s.endVisit false).enter i c.cause s.seq.deferring false
      else if s.seq.deferring = true then .next s else .next (s.defer c) := by
  show execStateEntry s = _
  rw [execStateEntry, choice]

theorem boundary_of_choice (choice : s.choiceOfState = some (c, i)) : s.time.counter % 100 = 0 := by
  unfold State.choiceOfState at choice
  split at choice
  next opens =>
    simp only [State.choiceOpen, State.openBoundary, State.atBoundary, Bool.and_eq_true, decide_eq_true_eq] at opens
    obtain ⟨⟨⟨-, at_, -⟩, -⟩, -⟩ := opens
    exact of_decide_eq_true at_
  next => cases choice

set_option Elab.async false in
/-- Settles O52. -/
theorem stateEntryMakesTheTransition : Obligations.StateEntryMakesTheTransition := by
  refine fun s => ⟨fun nothing => ?_, fun c i v choice visit => ⟨fun r reached entered => ?_, fun unreached deferring => ?_,
    fun unreached fresh => ?_⟩⟩
  · show execStateEntry s = _
    rw [execStateEntry, nothing]
  · obtain ⟨t, run, whole, recorded, scheduled, conditions, outputs, soft⟩ :=
      entersState c.cause s.seq.deferring (visitOver_endVisit visit) entered (boundary_of_choice choice)
    obtain ⟨seq, -⟩ := endVisit_seq s false v visit
    exact ⟨t, ((exec_stateEntry choice).trans (if_pos reached)).trans run, whole, recorded, scheduled, conditions, outputs,
      soft.trans (by rw [seq])⟩
  · exact ((exec_stateEntry choice).trans (if_neg (Bool.eq_false_iff.1 unreached))).trans (if_pos deferring)
  · exact ((exec_stateEntry choice).trans (if_neg (Bool.eq_false_iff.1 unreached))).trans (if_neg (Bool.eq_false_iff.1 fresh))

end Sys2Proof.Proofs.StateEntry
end
